-- ==== Sys2Proof/Word.lean ====
section
/-! DEFINITION. The machine's word types (spec/00_scope.md R10) and the plainest arithmetic on naturals. -/
namespace Sys2Proof

/-- A 64-bit scalar register or memory word. -/
abbrev Word := BitVec 64
/-- A byte of memory. -/
abbrev Byte := BitVec 8
/-- A 96-bit instruction word (R28). -/
abbrev IWord := BitVec 96
/-- A 64-byte fetch line, cache line or vector register (R17, R161, R262). -/
abbrev Line := BitVec 512

/-- ⌈a / b⌉ on naturals; 0 when b is 0. -/
def ceilDiv (a b : Nat) : Nat := if b = 0 then 0 else (a + b - 1) / b

end Sys2Proof
end

