-- ==== Sys2Proof/Config.lean ====
section
/-! DEFINITION. What the spec leaves free: opaque constants, so that no statement can rest on a value of them. -/
namespace Sys2Proof.Config

/-- A free bit. The step applies it to State.draw and advances the counter (R417: a COND whose word is stored in the
cycle of its read yields either value). -/
opaque freeBit : Nat → Bool

/-- A free word, applied to State.draw: what PTEL's sensors read and a unit under test answers (R433, R438). -/
opaque freeWord : Nat → Word

/-- The value from which a flit's CRC-32 starts, and what is added to its end (R387). -/
opaque crcStart : BitVec 32
opaque crcEnd : BitVec 32

/-- The requests that a unit's input queue holds, by DUNIT (R389). -/
opaque unitQueue : Nat → Nat

/-- The base of the spill area that a core's steward sets (R294). -/
opaque spillBase : Nat → Word

/-- Where the downloaded firmware lies in its stewards' address space, and where a core's steward starts (R5, R427, R428). -/
opaque stewardBase : Word
opaque stewardEntry : Nat → Word

/-- The dies whose steward starts at boot (R428). -/
opaque stewardStarts : Nat → Bool

/-- The units that fail their power-on self-test: kind of R436, die, cluster and index (R428). -/
opaque powerOnFailures : List (Nat × Nat × Nat × Nat)

end Sys2Proof.Config
end

