-- ==== Sys2Proof/Syntax.lean ====
section
/-! DEFINITION. The syntax of the machine: register names, modifiers, the messages that events carry, and the one
inductive Instr with a constructor for every row of the opcode table (instructions first, then events). -/
namespace Sys2Proof

/-! ### Registers and predicates -/

/-- A register code of R33, turned into a name. `ident n` is the identity code 0x50 + n. -/
inductive Reg where
  | g (n : Fin 16) | w (n : Fin 48) | k (n : Fin 8) | ch (n : Fin 8) | ident (n : Fin 16)
  | v (n : Fin 32) | acc (n : Fin 8) | fmt (n : Fin 8) | m (n : Fin 8) | p (n : Fin 8)
deriving DecidableEq, Repr

/-- The predicate field of R32; `⟨0, false⟩` is "always". `⟨0, true⟩` is the illegal code 0b1000. -/
structure Pred where
  n : Fin 8
  neg : Bool
deriving DecidableEq, Repr

/-! ### Modifiers -/

/-- Integer conditions of CMP and CMPI (R76). -/
inductive Cond where | eq | ne | lt | ge | ltu | geu | tst | ntst
deriving DecidableEq, Repr
/-- Class 2 types (R79). -/
inductive FType where | f32 | f16 | bf16 | i64 | u64 | i32 | u32
deriving DecidableEq, Repr
/-- Rounding modes of class 2 and class 5 (R79, R162). -/
inductive RMode where | dyn | rne | rna | rz | rup | rdn | sr
deriving DecidableEq, Repr
/-- FCMP conditions (R83). -/
inductive FCond where | eq | lt | le | un | ne
deriving DecidableEq, Repr
/-- Access sizes (R217). -/
inductive Size where | b8 | b16 | b32 | b64
deriving DecidableEq, Repr
/-- Scopes (R217, R268). -/
inductive Scope where | sys | pkg | die | cl | core | thr
deriving DecidableEq, Repr
/-- Ordering modifiers (R217). -/
inductive Ord where | rlx | acq | rel | ar
deriving DecidableEq, Repr
/-- Word conditions of WAITA, YIELD, WAITREC and COND (R226, R301, R416). -/
inductive WCond where | eq | ne | ge
deriving DecidableEq, Repr
/-- AMO operations (R228). -/
inductive AmoOp where | add | and | or | xor | min | max | mins | maxs | swap
deriving DecidableEq, Repr
/-- AMOF operations (R230). -/
inductive AmofOp where | add | min | max
deriving DecidableEq, Repr
/-- FRADD.M contribution kinds (R232). -/
inductive FrKind where | f32 | i64
deriving DecidableEq, Repr
/-- Rounding codes of ACCST and FRRD.M (R125, R233); FRRD.M does not take `sr`. -/
inductive AccRm where | rne | rz | rup | rdn | sr
deriving DecidableEq, Repr
/-- Element types of class 5 (R161). -/
inductive ET where | f32 | bf16 | f16 | i32 | u32 | i16 | u16 | i8
deriving DecidableEq, Repr
/-- VCMP conditions (R166). -/
inductive VCond where | eq | ne | lt | le | gt | ge | un
deriving DecidableEq, Repr
/-- VRED operations (R171). -/
inductive VRedOp where | add | min | max | and | or | xor
deriving DecidableEq, Repr
/-- VSHUF modes with their immediate (R169). -/
inductive ShufMode where | idx (b : Reg) | rot (r : BitVec 16) | xor (x : BitVec 16)
deriving DecidableEq, Repr
/-- Matrix operand types (R118). -/
inductive MmaType where | f16 | bf16 | i8 | mx
deriving DecidableEq, Repr
/-- ACCST and ACCLD types (R125). -/
inductive AccType where | raw | f32 | f16 | bf16 | fmt
deriving DecidableEq, Repr
/-- FMTSET presets (R181). -/
inductive Preset where | e4m3 | e5m2 | e3m2 | e2m3 | e2m1 | int8
deriving DecidableEq, Repr
/-- Block-scale fields other than the refused code (R195). -/
inductive ScaleF where | none | per32 | per16
deriving DecidableEq, Repr
/-- CTEST selectors (R340). -/
inductive CSel where | state | dg | fi | fa
deriving DecidableEq, Repr
/-- TLBINV scopes (R106). -/
inductive TScope where | core | cluster | die | pkg
deriving DecidableEq, Repr
/-- Channel bindings (R237). -/
inductive ChKind where | none | slot | nbr | fifo
deriving DecidableEq, Repr
/-- The status and control registers of R101. -/
inductive ScrName where
  | epc | ecause | eaddr | einfo | tvec | save | fflags | fctl | waitlim | wsp | dqspill
  | seed | step | watch | ckpt | cnt | cycle | turns
deriving DecidableEq, Repr

/-! ### Operand records -/

/-- A memory operand `[a + b<<s + off]` of R42 with its near bit (R217). -/
structure MemArg where
  near : Bool
  a : Reg
  b : Reg
  s : Fin 7
  off : BitVec 32
deriving DecidableEq, Repr

/-- The `[a + off]` operand of R218 (amem). -/
structure AMem where
  near : Bool
  a : Reg
  off : BitVec 32
deriving DecidableEq, Repr

/-- The MOD fields that class-5 form R instructions share (R162). -/
structure VMod where
  m : Fin 8
  rm : RMode
  z : Bool
deriving DecidableEq, Repr

/-- The B operand of an element-wise instruction: a vector, a broadcast scalar (.BS) or, for shifts, an immediate (.IS). -/
inductive VSrc where | vec (r : Reg) | bs (r : Reg) | imm (n : BitVec 6)
deriving DecidableEq, Repr

/-- Vector memory operands (R172). -/
structure VMem where
  m : Fin 8
  z : Bool
  near : Bool
  s : Fin 7
  a : Reg
  b : Reg
  off : BitVec 32
deriving DecidableEq, Repr

/-- The operands that MMA and MMAG share (R118). -/
structure MmaArg where
  ty : MmaType
  keepA : Bool
  keepB : Bool
  la : Bool
  lb : Bool
  fa : Fin 8
  fb : Fin 8
  d : Reg
  a : Reg
  b : Reg
  mask : Option Reg
deriving DecidableEq, Repr

/-- A barrier group operand (R234). -/
structure GroupArg where
  pg : Bool
  g : BitVec 6
deriving DecidableEq, Repr

/-! ### Messages that the device's agents exchange -/

/-- A thread's place: global core index (R4) and slot. -/
structure TId where
  core : Nat
  slot : Nat
deriving DecidableEq, Repr

/-- What a trap delivers (R93): cause, address, information. -/
structure TrapInfo where
  cause : BitVec 8
  addr : Word
  info : Word
deriving DecidableEq, Repr

/-- The special states of a furrow value (R201). -/
inductive Special where | fin | pinf | ninf | nan
deriving DecidableEq, Repr

/-- Where a physical address lies (R219, R220, R257, R264): this package's HBM, a cluster's SRAM bank (by cluster and
near offset, through the aperture or directly), host memory, or a peer package's local physical memory. -/
inductive Place where
  | hbm (a : Nat)
  | near (cluster : Nat) (off : Nat)
  | host (a : Nat)
  | peer (pkg : Nat) (a : Nat)
deriving DecidableEq, Repr

/-- The operation a request performs where its address lives (R221, R223, R226, R228-R233, R298). -/
inductive HomeOp where
  | load (n : Nat)
  | store (n : Nat) (v : Word)
  | vload (mask : BitVec 16)
  | vstore (mask : BitVec 16) (data : Line)
  | ldfe | ldff
  | stfe (v : Word) | stff (v : Word)
  | feset | feclr
  | waita (cc : WCond) (n : Nat) (b : Word)
  | amo (op : AmoOp) (n : Nat) (v : Word)
  | cas (n : Nat) (e : Word) (v : Word)
  | amof (op : AmofOp) (v : Word)
  | fradd (kind : FrKind) (v : Word) (fov : Bool)
  | frrd (rm : AccRm) (clr : Bool)
  | join
  | readFrame
  | writeFrame (ws : List Word)
  | fifoPush (v : Word)
  | fifoPop
deriving DecidableEq, Repr

/-- What the requester does with the answer. -/
inductive Dest where
  | none
  | reg (r : Reg) (abs : Nat) (sx : Bool)      -- a g, w (absolute window index `abs`) or v register
  | lanes (r : Reg) (mask : BitVec 16) (z : Bool)
  | frame                                       -- WFILL
deriving DecidableEq, Repr

/-- A lane of a vector access or a word of a frame image: its number, place and address, and what its leaf says (R382, R278). -/
structure Lane where
  n : Nat
  place : Place
  va : Word
  wt : Bool
  entry : Nat
  level : Nat
deriving DecidableEq, Repr

/-- A memory request of a thread, with everything its home, its reply and its trap need. `tag` is the request id's RTAG
(R391), `opId` the outstanding operation it belongs to (for a far parked
request a number of its own), `total` the round-trip time of R62, `entry`
and `level` those of the granting leaf (R382), `data` whether it is a data access (R270), `wt` whether its leaf has WT, and `near` whether it is a
.N access of its own cluster. -/
structure MemReq where
  src : TId
  uid : Nat
  opc : Nat
  op : HomeOp
  dest : Dest
  va : Word
  place : Place
  lanes : List Lane            -- the active lanes of a vector access, or the words of a frame image
  acq : Bool
  scope : Scope
  data : Bool
  wt : Bool
  near : Bool
  parked : Bool
  tag : Nat
  opId : Nat
  total : Nat
  entry : Nat
  level : Nat
deriving DecidableEq, Repr

/-- The answer to a parked request: up to 64 bytes of data, the furrow flags of FRRD.M, or the fault met at the home; the words of a
frame image with their numbers. -/
structure ReplyData where
  data : Line
  flags : BitVec 5
  fault : Option TrapInfo
  withdrawn : Bool
  frame : List (Nat × Word)
deriving DecidableEq, Repr

/-- One furrow message (R183): its destination core, the launch of its sender (R184), and the sending core and engine entry
(0 for an NRED delivery). -/
structure FurrowMsg where
  core : Nat
  chunk : Word
  f : BitVec 16
  fd : Bool
  total : BitVec 11
  state : Special
  last : Bool
  tag : BitVec 8
  cell : BitVec 8
  exp : BitVec 16
  launch : BitVec 16
  src : Nat
  entry : Nat
deriving DecidableEq, Repr

/-- A task frame of R287 with the fields of R288. -/
structure Frame where
  entry : Word
  a0 : Word
  a1 : Word
  a2 : Word
  a3 : Word
  join : Word
  seq : BitVec 24
  origin : BitVec 11
  ltag : BitVec 10
  queue : BitVec 6
  pinned : Bool
  trace : Word
deriving DecidableEq, Repr

/-- A contribution to a reduction round (R402): one member's message or a switch's partial sum for one cell. -/
structure NredMsg where
  group : Nat
  round : BitVec 20
  countM1 : Nat
  minm : Nat
  swm : Bool
  f : BitVec 16
  tag : BitVec 8
  cells : List (Nat × Special × Int)
deriving DecidableEq, Repr

/-- A flit's header fields (R387); PLEN and the CRC follow from its payload. The event that its ejection delivers is kept beside it in
State. -/
structure FlitHdr where
  age : Nat
  drouter : Nat
  srouter : Nat
  dunit : Nat
  rcore : Nat
  rslot : Nat
  rtag : Nat
  kind : Nat
  pkg : Nat
  ext : Bool
deriving DecidableEq, Repr

/-- A unit that self-test names (R436, R438), the codes 1 to 6 of SELFTEST. -/
inductive UnitKind where | sram | regfile | engine | lane | router | hbmRow
deriving DecidableEq, Repr

/-- CXL.io registers that a host write can name (R410, R433). -/
inductive HostReg where
  | ring | root | savepool | savelen | deadline | weight | cls | ctl | msix | notify
  | pctl
deriving DecidableEq, Repr

/-- The home units of R220. A peer's homes follow the same rules: its base-die units, and for its scratchpad apertures the
bank of a cluster's logical slot, which is not named here. -/
inductive HomeId where
  | bank (cluster : Nat) (bank : Nat)
  | channel (ch : Nat)            -- base-die unit: stack × 32 + channel (R259)
  | hostUnit
  | peerChannel (pkg : Nat) (ch : Nat)
  | peerBank (pkg : Nat) (cluster : Nat) (slot : Nat)
deriving DecidableEq, Repr

/-! ### Instructions and events -/

/-- One constructor for each row of the opcode table. The first 180 are the forms of the 172 opcodes (R46-R54); they act
on the issuing thread. The other 130 are the device's own events and the host's and fabric's inputs; each names its
subject. -/
inductive Instr where
  -- class 0, R73
  | add (p : Pred) (d a b : Reg)
  | sub (p : Pred) (d a b : Reg)
  | mul (p : Pred) (d a b : Reg)
  | mulh (p : Pred) (d a b : Reg)
  | mulhs (p : Pred) (d a b : Reg)
  | div (p : Pred) (d a b : Reg)
  | divs (p : Pred) (d a b : Reg)
  | rem (p : Pred) (d a b : Reg)
  | rems (p : Pred) (d a b : Reg)
  | and (p : Pred) (d a b : Reg)
  | or (p : Pred) (d a b : Reg)
  | xor (p : Pred) (d a b : Reg)
  | andn (p : Pred) (d a b : Reg)
  | shl (p : Pred) (d a b : Reg)
  | shr (p : Pred) (d a b : Reg)
  | sra (p : Pred) (d a b : Reg)
  | rotl (p : Pred) (d a b : Reg)
  | min (p : Pred) (d a b : Reg)
  | max (p : Pred) (d a b : Reg)
  | mins (p : Pred) (d a b : Reg)
  | maxs (p : Pred) (d a b : Reg)
  | clz (p : Pred) (d a : Reg)
  | ctz (p : Pred) (d a : Reg)
  | popc (p : Pred) (d a : Reg)
  | bext (p : Pred) (sx : Bool) (d a : Reg) (pos lenM1 : BitVec 6)
  | bins (p : Pred) (d a b : Reg) (pos lenM1 : BitVec 6)
  | brev (p : Pred) (d a : Reg)
  | bswap (p : Pred) (d a : Reg)
  | sel (p : Pred) (d a b c : Reg)
  | cmp (p : Pred) (cc : Cond) (d a b : Reg)
  | pand (p : Pred) (d a b : Reg)
  | por (p : Pred) (d a b : Reg)
  | pxor (p : Pred) (d a b : Reg)
  | pnot (p : Pred) (d a : Reg)
  | mov (p : Pred) (d a : Reg)
  | lea (p : Pred) (d a b : Reg) (s : Fin 7) (off : BitVec 16)
  -- class 1, R78
  | addi (p : Pred) (d a : Reg) (imm : BitVec 48)
  | muli (p : Pred) (d a : Reg) (imm : BitVec 48)
  | andi (p : Pred) (d a : Reg) (imm : BitVec 48)
  | ori (p : Pred) (d a : Reg) (imm : BitVec 48)
  | xori (p : Pred) (d a : Reg) (imm : BitVec 48)
  | shli (p : Pred) (d a : Reg) (n : BitVec 6)
  | shri (p : Pred) (d a : Reg) (n : BitVec 6)
  | srai (p : Pred) (d a : Reg) (n : BitVec 6)
  | cmpi (p : Pred) (cc : Cond) (d a : Reg) (imm : BitVec 48)
  | movi (p : Pred) (d : Reg) (imm : BitVec 48)
  | movhi (p : Pred) (d a : Reg) (h : BitVec 16)
  | leai (p : Pred) (d : Reg) (imm : BitVec 48)
  -- class 2, R81
  | fadd (p : Pred) (ty : FType) (rm : RMode) (d a b : Reg)
  | fsub (p : Pred) (ty : FType) (rm : RMode) (d a b : Reg)
  | fmul (p : Pred) (ty : FType) (rm : RMode) (d a b : Reg)
  | fma (p : Pred) (ty : FType) (rm : RMode) (d a b c : Reg)
  | fnma (p : Pred) (ty : FType) (rm : RMode) (d a b c : Reg)
  | fdiv (p : Pred) (ty : FType) (rm : RMode) (d a b : Reg)
  | fsqrt (p : Pred) (ty : FType) (rm : RMode) (d a : Reg)
  | fmin (p : Pred) (ty : FType) (d a b : Reg)
  | fmax (p : Pred) (ty : FType) (d a b : Reg)
  | fabs (p : Pred) (ty : FType) (d a : Reg)
  | fneg (p : Pred) (ty : FType) (d a : Reg)
  | fcmp (p : Pred) (cc : FCond) (ty : FType) (d a b : Reg)
  | fclass (p : Pred) (ty : FType) (d a : Reg)
  | fcvt (p : Pred) (dst src : FType) (rm : RMode) (d a c : Reg) (t : BitVec 16)
  -- class 3, R36, R37, R86
  | nop (p : Pred)
  | align (p : Pred) (k : BitVec 16)
  | br (p : Pred) (off : BitVec 48)
  | jmp (p : Pred) (addr : BitVec 48)
  | jmpr (p : Pred) (a : Reg) (off : BitVec 16)
  | call (p : Pred) (off : BitVec 48)
  | callr (p : Pred) (a : Reg) (off : BitVec 16)
  | ret (p : Pred)
  | loop (p : Pred) (d : Reg) (off : BitVec 48)
  | trap (p : Pred) (n : BitVec 16)
  | eret (p : Pred) (next : Bool)
  | quit (p : Pred)
  -- class 4, R218
  | ld (p : Pred) (sz : Size) (sx : Bool) (d : Reg) (m : MemArg)
  | st (p : Pred) (sz : Size) (d : Reg) (m : MemArg)
  | lda (p : Pred) (sz : Size) (sx : Bool) (sc : Scope) (d : Reg) (m : MemArg)
  | stl (p : Pred) (sz : Size) (sc : Scope) (d : Reg) (m : MemArg)
  | ldfe (p : Pred) (sc : Scope) (d : Reg) (m : MemArg)
  | ldff (p : Pred) (sc : Scope) (d : Reg) (m : MemArg)
  | stfe (p : Pred) (sc : Scope) (d : Reg) (m : MemArg)
  | stff (p : Pred) (sc : Scope) (d : Reg) (m : MemArg)
  | feset (p : Pred) (m : MemArg)
  | feclr (p : Pred) (m : MemArg)
  | fence (p : Pred) (o : Ord) (sc : Scope)
  | waita (p : Pred) (cc : WCond) (sz : Size) (sc : Scope) (m : AMem) (b : Reg)
  | wait (p : Pred) (l s c t : BitVec 6)
  | amo (p : Pred) (op : AmoOp) (sz : Size) (sx : Bool) (o : Ord) (sc : Scope) (d : Reg) (m : AMem) (b : Reg)
  | cas (p : Pred) (sz : Size) (sx : Bool) (o : Ord) (sc : Scope) (d : Reg) (m : AMem) (b : Reg)
  | amof (p : Pred) (op : AmofOp) (o : Ord) (sc : Scope) (d : Reg) (m : AMem) (b : Reg)
  | fraddM (p : Pred) (kind : FrKind) (o : Ord) (sc : Scope) (d : Reg) (m : AMem) (b : Reg)
  | frrdM (p : Pred) (rm : AccRm) (clr : Bool) (o : Ord) (sc : Scope) (d : Reg) (m : AMem)
  | arrive (p : Pred) (d : Reg) (g : GroupArg)
  | bwait (p : Pred) (g : GroupArg) (a : Reg)
  | bar (p : Pred) (d : Reg) (g : GroupArg)
  | bgrpJoin (p : Pred) (g : GroupArg)
  | bgrpLeave (p : Pred) (g : GroupArg)
  | chbind (p : Pred) (kind : ChKind) (d : Reg) (target : BitVec 5)
  | chstat (p : Pred) (d a : Reg)
  | cflush (p : Pred) (inv : Bool) (m : MemArg)
  -- class 5, R165-R180
  | vadd (p : Pred) (et : ET) (sat : Bool) (vm : VMod) (d a : Reg) (b : VSrc)
  | vsub (p : Pred) (et : ET) (sat : Bool) (vm : VMod) (d a : Reg) (b : VSrc)
  | vmul (p : Pred) (et : ET) (sat : Bool) (vm : VMod) (d a : Reg) (b : VSrc)
  | vfma (p : Pred) (et : ET) (vm : VMod) (d a : Reg) (b : VSrc) (c : Reg)
  | vmin (p : Pred) (et : ET) (vm : VMod) (d a : Reg) (b : VSrc)
  | vmax (p : Pred) (et : ET) (vm : VMod) (d a : Reg) (b : VSrc)
  | vabs (p : Pred) (et : ET) (sat : Bool) (vm : VMod) (d a : Reg)
  | vneg (p : Pred) (et : ET) (sat : Bool) (vm : VMod) (d a : Reg)
  | vand (p : Pred) (et : ET) (vm : VMod) (d a : Reg) (b : VSrc)
  | vor (p : Pred) (et : ET) (vm : VMod) (d a : Reg) (b : VSrc)
  | vxor (p : Pred) (et : ET) (vm : VMod) (d a : Reg) (b : VSrc)
  | vshl (p : Pred) (et : ET) (vm : VMod) (d a : Reg) (b : VSrc)
  | vshr (p : Pred) (et : ET) (vm : VMod) (d a : Reg) (b : VSrc)
  | vsra (p : Pred) (et : ET) (vm : VMod) (d a : Reg) (b : VSrc)
  | vcmp (p : Pred) (cc : VCond) (et : ET) (vm : VMod) (d a : Reg) (b : VSrc)
  | vsel (p : Pred) (et : ET) (vm : VMod) (d a b c : Reg)
  | vcvt (p : Pred) (dst src : ET) (vm : VMod) (d a : Reg) (part : BitVec 2)
  | vred (p : Pred) (op : VRedOp) (et : ET) (sat : Bool) (vm : VMod) (d a : Reg)
  | vshuf (p : Pred) (mode : ShufMode) (et : ET) (vm : VMod) (d a : Reg)
  | vbcast (p : Pred) (et : ET) (vm : VMod) (d a : Reg)
  | vins (p : Pred) (et : ET) (d a : Reg) (n : BitVec 16)
  | vext (p : Pred) (et : ET) (d a : Reg) (n : BitVec 16)
  | vld (p : Pred) (d : Reg) (m : VMem)
  | vst (p : Pred) (d : Reg) (m : VMem)
  | vldg (p : Pred) (d : Reg) (m : VMem)
  | vsts (p : Pred) (d : Reg) (m : VMem)
  | vrcp (p : Pred) (et : ET) (vm : VMod) (d a : Reg)
  | vrsq (p : Pred) (et : ET) (vm : VMod) (d a : Reg)
  | vexp2 (p : Pred) (et : ET) (vm : VMod) (d a : Reg)
  | vlog2 (p : Pred) (et : ET) (vm : VMod) (d a : Reg)
  | vrng (p : Pred) (vm : VMod) (d a : Reg)
  | vsr (p : Pred) (et : ET) (vm : VMod) (d a b : Reg) (h : Bool)
  | vquant (p : Pred) (n : Fin 8) (vm : VMod) (d a b c : Reg)
  | vdeq (p : Pred) (n : Fin 8) (vm : VMod) (d a : Reg) (h : Bool)
  | vdrop (p : Pred) (et : ET) (vm : VMod) (d a b c : Reg) (q : BitVec 16)
  -- class 6, R118-R127, R181-R185
  | mma (p : Pred) (o : MmaArg)
  | mmag (p : Pred) (o : MmaArg) (e : Reg)
  | accz (p : Pred) (d : Reg) (floor : BitVec 16)
  | accst (p : Pred) (ty : AccType) (rm : AccRm) (fr : Fin 8) (a b : Reg) (mask : Option Reg)
  | accld (p : Pred) (ty : AccType) (d a : Reg) (mask : Option Reg)
  | accmv (p : Pred) (d a : Reg)
  | accadd (p : Pred) (d a : Reg)
  | latch (p : Pred) (ty : MmaType) (sideB l1 : Bool) (f : Fin 8) (a : Reg) (mask : Option Reg)
  | fmtsetReg (p : Pred) (d a : Reg)
  | fmtsetPreset (p : Pred) (d : Reg) (pre : Preset) (sc : ScaleF) (sat : Bool)
  | fmtget (p : Pred) (d a : Reg)
  | frsend (p : Pred) (a b : Reg) (tag : BitVec 8) (mask : Option Reg)
  | frwait (p : Pred) (d a : Reg)
  -- class 7
  | cpy (p : Pred) (near sh : Bool) (d a : Reg) (b c : Option Reg)
  | ctest (p : Pred) (sel : CSel) (d a : Reg)
  | cwait (p : Pred) (d a : Reg)
  | ccancel (p : Pred) (d a : Reg)
  | publish (p : Pred) (a b : Reg)
  | publishG (p : Pred) (a b c : Reg)
  | bankcfg (p : Pred) (a : Reg)
  | spawn (p : Pred) (pin : Bool) (d a b c : Reg)
  | spawnat (p : Pred) (d a b c e : Reg)
  | join (p : Pred) (a : Reg)
  | yieldTok (p : Pred) (ck : BitVec 16) (d a : Reg)
  | yieldWord (p : Pred) (cc : WCond) (near : Bool) (ck : BitVec 16) (a b : Reg)
  | yoke (p : Pred) (d : Reg)
  | unyoke (p : Pred)
  | xmovFrom (p : Pred) (d a : Reg)
  | xmovTo (p : Pred) (d a : Reg)
  | migrate (p : Pred) (d a : Reg)
  | startCtx (p : Pred) (d a b : Reg)
  | startFrame (p : Pred) (d a b : Reg)
  | reap (p : Pred) (d a : Reg)
  | chkpt (p : Pred) (n : BitVec 16)
  | srd (p : Pred) (d : Reg) (r : ScrName)
  | swr (p : Pred) (r : ScrName) (a : Reg)
  | tlbinv (p : Pred) (sc : TScope) (a b : Reg)
  | tlbinvAll (p : Pred) (sc : TScope)
  | wspill (p : Pred) (near : Bool)
  | wfill (p : Pred) (near : Bool)
  | nred (p : Pred) (a b : Reg) (tag : BitVec 8) (mask : Option Reg)
  | digestN (p : Pred) (d a b : Reg)
  | digestT (p : Pred) (d b : Reg)
  | dgchk (p : Pred) (a b : Reg) (tag : BitVec 8)
  | selftest (p : Pred) (d a : Reg)
  -- events that the machine lays down for later cycles: memory, engines, tasks, messages of the fabric
  | lineFetchArrival (t : TId) (va : Word)
  | threadWake (t : TId)
  | nearLoadLand (t : TId) (id : Nat)
  | nearStoreAck (t : TId) (id : Nat)
  | homeWaiterServe (h : HomeId)
  | waiterTableResend (q : MemReq)
  | walkComplete (t : TId)
  | engineEntryDone (core : Nat) (id : Nat)
  | frsendInject (core : Nat) (id : Nat)
  | frsendComplete (core : Nat) (id : Nat)
  | copyRecordArrival (cluster : Nat) (token : Nat)
  | copyBeatWrite (cluster : Nat) (token : Nat) (beat : Nat)
  | copyComplete (cluster : Nat) (token : Nat)
  | copyFault (cluster : Nat) (token : Nat)
  | frameReady (core : Nat) (f : Frame)
  | spillComplete (core : Nat)
  | dequeRefill (core : Nat)
  | joinDecrement (t : TId) (addr : Word) (launch : BitVec 16) (op : Nat)
  | latchToDeque (core : Nat)
  | loadForward (core : Nat) (id : Nat)
  | barrierArrivalRecord (uid : Nat) (pg : Bool) (die : Nat) (g : Nat) (phase : BitVec 32)
  | barrierComplete (pg : Bool) (die : Nat) (g : Nat)
  | watchSweep (h : HomeId) (pg : Bool) (die : Nat) (g : Nat) (m : BitVec 32)
  | watchSweepDone (h : HomeId) (pg : Bool) (die : Nat) (g : Nat) (m : BitVec 32)
  | bankcfgStart (cluster : Nat) (bank : Nat)
  | bankcfgComplete (cluster : Nat) (bank : Nat)
  | publishSwap (t : TId)
  | publishPoint (t : TId)
  | loadRequest (q : MemReq)
  | storeRequest (q : MemReq)
  | atomicRequest (q : MemReq)
  | fullEmptyRequest (q : MemReq)
  | waitaRequest (q : MemReq)
  | withdrawal (q : MemReq)
  | furrowMessage (m : FurrowMsg)
  | frameMessage (f : Frame) (dest : Nat) (src : TId) (tag : Nat)
  | probeMessage (thief : Nat) (victim : Nat) (mask : BitVec 64)
  | reply (t : TId) (tag : Nat) (r : ReplyData)
  | acknowledgement (t : TId) (tag : Nat) (fault : Option TrapInfo)
  | translationRequest (incoming : Bool) (pkg : Nat) (cluster : Nat) (frame : Nat) (t : TId)
  | translationReply (cluster : Nat) (pkg : Nat) (frame : Nat) (entry : Word) (t : TId)
  | invalidation (pkg : Nat) (cluster : Nat) (first : Nat) (count : Nat)
  | invalidationAck (pkg : Nat) (cluster : Nat) (first : Nat) (count : Nat) (release : Bool)
  | nredMessage (m : NredMsg)
  | digestMessage (group : Nat) (round : BitVec 20) (member : Nat) (digest : Word) (count : Nat)
  | barrierMessage (pg : Bool) (die : Nat) (g : Nat) (uid : Nat) (phase : BitVec 32)
  | contextMessage (uid : Nat) (src : TId) (target : Nat)
  | refusal (q : MemReq)
  | refusalResend (q : MemReq)
  | requestTimeout (t : TId) (tag : Nat)
  | claimLatchStart (core : Nat)
  | emptyAnswer (thief : Nat) (victim : Nat)
  | notificationWrite (q : Nat)
  | launchRecord (rid : Nat)
  | launchNearImage (lid : Nat) (cluster : Nat)
  | doneWord (lid : Nat)
  | bootVerify (sigOk : Bool)
  | selfTestVerdict (u : UnitKind) (die cluster index : Nat) (syndrome : Word)
  | queueDisabled (q : Nat)
  | threadSave (t : TId)
  | slotPop (core : Nat) (slot : Nat)
  | replayDivergenceDeadline (core : Nat) (launch : BitVec 16)
  | launchThreadsDone (lid : Nat)
  | signal (rid : Nat)
  -- events that a cycle's own work or the outside world brings: scheduling, host queues, mailbox, boot, power, self-test
  | forfeitEnd (t : TId)
  | alignTimeout (t : TId)
  | waitLimit (t : TId)
  | engineEntryStart (core : Nat)
  | copyEngineTake (cluster : Nat) (engine : Nat)
  | spillStart (core : Nat)
  | stealProbe (core : Nat)
  | balancingStep
  | saveDeadline (t : TId)
  | threadRestore (queue : Nat) (uid : Nat) (t : TId)
  | flitRoute (reply : Bool) (router : Nat)
  | starvationStart (router : Nat)
  | starvationEnd
  | flitCrcRetry (id : Nat)
  | linkFrame (port : Nat) (tagOk : Bool) (flits : List Nat)
  | hbmChannelAccess (ch : Nat)
  | dieBridgeTransfer (src : Nat) (dst : Nat)
  | hostLinkTransfer
  | hostCxlMemAccess (write : Bool) (addr : Nat) (data : List Byte)
  | hostSnoop (line : Nat)
  | doorbell (q : Nat) (v : Word)
  | queueEnable (q : Nat)
  | queueDisable (q : Nat)
  | queueResume (q : Nat)
  | registerWrite (q : Nat) (r : HostReg) (v : Word)
  | takeRecord (q : Nat)
  | headlandRecord (q : Nat)
  | launchBankMap (lid : Nat) (cluster : Nat)
  | launchPreload (lid : Nat) (cluster : Nat)
  | launchCoreStart (lid : Nat) (core : Nat)
  | launchWriteback (lid : Nat) (cluster : Nat)
  | waitrec (rid : Nat)
  | cond (rid : Nat)
  | fenceRecord (rid : Nat)
  | preemptSaveSlots (rid : Nat)
  | preemptSaveLaunch (rid : Nat)
  | preemptRelease (rid : Nat)
  | preemptDispose (rid : Nat)
  | fwBegin (len : Nat)
  | fwData (off : Nat) (data : List Byte)
  | fwCommit
  | logSet (addr : Word)
  | keyInstall (keyId : BitVec 16) (key : BitVec 256) (inSession : Bool)
  | linkKey (port : Nat) (tx : Bool) (key : BitVec 256)
  | groupUpdate (addr : Word)
  | exportSet (addr : Word)
  | agentInval (first : Nat) (count : Nat)
  | getVersion
  | getCapabilities
  | negotiateAlgorithms
  | getDigests
  | getCertificate
  | challenge
  | getMeasurements (signed : Bool)
  | keyExchange
  | finish
  | endSession
  | bootMeasure
  | bootTrain
  | bootCounter
  | bootCertify
  | deviceReset
  | thermalThrottle (temp : BitVec 8)
  | thermalRecover (temp : BitVec 8)
  | thermalShutdown (temp : BitVec 8)
  | selfTestStart (u : UnitKind) (die cluster index : Nat) (syndrome : Word)
deriving DecidableEq, Repr

/-! ### Records of the decoder -/

/-- Tail forms (R28, R29). -/
inductive Form where | r | i | m | x
deriving DecidableEq, Repr

/-- The fields of one word, whatever its form (R28, R29): a field the form lacks is 0, MOD and the immediate are
zero-extended, and `rsv` holds when a reserved bit of the form is 1. -/
structure Fields where
  op : BitVec 10
  pr : BitVec 4
  d : BitVec 8
  a : BitVec 8
  b : BitVec 8
  c : BitVec 8
  e : BitVec 8
  mod : BitVec 24
  imm : BitVec 48
  rsv : Bool
deriving DecidableEq, Repr

/-- An illegal word: what scr.einfo reports (R55). -/
structure Illegal where
  reason : Nat
  field : Nat
  op : BitVec 10
deriving DecidableEq, Repr

/-- What one opcode's entry says of a word: the checks of reasons 0x1, 0x2 and 0x3 (`kinds` lists the fields D, A, B, C
and E in order, true where the code is accepted) and the instruction the word stands for. -/
structure Row where
  immOk : Bool
  modOk : Bool
  kinds : List Bool
  instr : Instr
deriving DecidableEq, Repr

end Sys2Proof
end

