-- ==== Sys2Proof/WellFormed.lean ====
section
/-! DEFINITION. Which instructions some word stands for (R30-R35 and each instruction's entry). -/
namespace Sys2Proof

/-! ### Kinds of register (R33, R34) -/

/-- g, w, k, channel and identity codes: a scalar field that is read. -/
def Reg.scalarR : Reg → Bool
  | .g _ | .w _ | .k _ | .ch _ | .ident _ => true
  | _ => false
/-- A scalar field that is written takes no identity code. -/
def Reg.scalarW : Reg → Bool
  | .g _ | .w _ | .k _ | .ch _ => true
  | _ => false
/-- A scalar field of class 4 takes no channel code (R218). -/
def Reg.scalar4 : Reg → Bool
  | .g _ | .w _ | .k _ | .ident _ => true
  | _ => false
/-- The destination of a late result (R143). -/
def Reg.late : Reg → Bool
  | .g _ | .w _ | .v _ => true
  | _ => false
/-- The destination of ARRIVE and BAR: a scalar register among the kinds of R143 (R218). -/
def Reg.gw : Reg → Bool
  | .g _ | .w _ => true
  | _ => false
def Reg.isV : Reg → Bool
  | .v _ => true
  | _ => false
def Reg.isAcc : Reg → Bool
  | .acc _ => true
  | _ => false
def Reg.isFmt : Reg → Bool
  | .fmt _ => true
  | _ => false
def Reg.isM : Reg → Bool
  | .m _ => true
  | _ => false
def Reg.isP : Reg → Bool
  | .p _ => true
  | _ => false
def Reg.isCh : Reg → Bool
  | .ch _ => true
  | _ => false
/-- MOV's fields (R73). -/
def Reg.movR (r : Reg) : Bool := r.scalarR || r.isM || r.isP
def Reg.movW (r : Reg) : Bool := r.scalarW || r.isM || r.isP
/-- The kinds XMOV moves between (R302): 0 g or w, 1 v, 2 p, 3 m. -/
def Reg.xkind : Reg → Option Nat
  | .g _ | .w _ => some 0
  | .v _ => some 1
  | .p _ => some 2
  | .m _ => some 3
  | _ => none

/-- The predicate code 0b1000 is illegal (R32). -/
def Pred.ok (p : Pred) : Bool := !(p.neg && p.n = 0)

/-! ### Types and modifiers -/

/-- FP32, FP16 and BF16 (R79). -/
def FType.isFp : FType → Bool
  | .f32 | .f16 | .bf16 => true
  | _ => false
/-- FP32, BF16 and F16 (R161). -/
def ET.isFp : ET → Bool
  | .f32 | .bf16 | .f16 => true
  | _ => false
/-- The element count of a type (R161). -/
def ET.count : ET → Nat
  | .f32 | .i32 | .u32 => 16
  | .bf16 | .f16 | .i16 | .u16 => 32
  | .i8 => 64
/-- The element width in bits (R161). -/
def ET.width : ET → Nat
  | .f32 | .i32 | .u32 => 32
  | .bf16 | .f16 | .i16 | .u16 => 16
  | .i8 => 8
/-- RM 110 is legal only in FCVT and VQUANT (R79, R162). -/
def RMode.noSr : RMode → Bool
  | .sr => false
  | _ => true
/-- RM of an element-wise instruction that rounds FP types (R162): 000 on integer types, never SR. -/
def VMod.rmFp (vm : VMod) (et : ET) : Bool := vm.rm = .dyn || (et.isFp && vm.rm.noSr)
/-- RM of an instruction that does not round (R162). -/
def VMod.rm0 (vm : VMod) : Bool := vm.rm = .dyn
/-- .SAT stands on integer types only (R164). -/
def satOk (et : ET) (sat : Bool) : Bool := !(sat && et.isFp)
/-- The B operand of an instruction that takes a vector or, with .BS, a scalar. -/
def VSrc.vb : VSrc → Bool
  | .vec r => r.isV
  | .bs r => r.scalarR
  | .imm _ => false
/-- The B operand of a shift: a vector or, with .IS, an immediate. -/
def VSrc.vi : VSrc → Bool
  | .vec r => r.isV
  | .bs _ => false
  | .imm _ => true
/-- VSHUF's mode (R169). -/
def ShufMode.ok (et : ET) : ShufMode → Bool
  | .idx b => b.isV
  | .rot r => r.toNat < 64
  | .xor x => x.toNat < et.count
/-- Base and index of a class-4 memory operand (R218). -/
def MemArg.ok (m : MemArg) : Bool := m.a.scalar4 && m.b.scalar4
def AMem.ok (m : AMem) : Bool := m.a.scalar4
/-- SX does not stand with .64 (R218). -/
def sxOk (sz : Size) (sx : Bool) : Bool := !(sx && sz = .b64)
/-- .32 and .64 only (R218). -/
def Size.word : Size → Bool
  | .b32 | .b64 => true
  | _ => false
/-- PG = 1 names package groups 0-15 (R234). -/
def GroupArg.ok (g : GroupArg) : Bool := !(g.pg && g.g.toNat ≥ 16)
/-- CHBIND's unused target bits are zero (R237). -/
def chTargetOk (k : ChKind) (t : BitVec 5) : Bool :=
  match k with
  | .none => t = 0
  | .slot => t.toNat < 16
  | .nbr => t.toNat < 4
  | .fifo => true
/-- The optional mask word is a scalar (R110). -/
def maskOk : Option Reg → Bool
  | none => true
  | some r => r.scalarR
/-- FA and FB stand with .MX only (R118). -/
def MmaArg.ok (o : MmaArg) : Bool :=
  o.d.isAcc && o.a.isV && o.b.isV && maskOk o.mask && (o.ty = .mx || (o.fa = 0 && o.fb = 0))
/-- The registers SWR may write: those with a field that is not RO (R100). -/
def ScrName.writable : ScrName → Bool
  | .dqspill | .watch | .ckpt | .cnt | .cycle | .turns => false
  | _ => true
/-- VCVT's part selector (R167): IMM16 is below the ratio of the widths. -/
def partOk (dst src : ET) (part : BitVec 2) : Bool :=
  part.toNat * min dst.width src.width < max dst.width src.width

/-! ### Well-formed instructions -/

/-- The instruction is one that some word stands for. An event has no word and is well formed. -/
def Instr.wf : Instr → Bool
  | .add p d a b | .sub p d a b | .mul p d a b | .mulh p d a b | .mulhs p d a b | .div p d a b | .divs p d a b
  | .rem p d a b | .rems p d a b | .and p d a b | .or p d a b | .xor p d a b | .andn p d a b | .shl p d a b
  | .shr p d a b | .sra p d a b | .rotl p d a b | .min p d a b | .max p d a b | .mins p d a b | .maxs p d a b =>
    p.ok && d.scalarW && a.scalarR && b.scalarR
  | .clz p d a | .ctz p d a | .popc p d a | .brev p d a | .bswap p d a => p.ok && d.scalarW && a.scalarR
  | .bext p _ d a _ _ => p.ok && d.scalarW && a.scalarR
  | .bins p d a b _ _ => p.ok && d.scalarW && a.scalarR && b.scalarR
  | .sel p d a b c => p.ok && d.scalarW && a.scalarR && b.scalarR && c.isP
  | .cmp p _ d a b => p.ok && d.isP && a.scalarR && b.scalarR
  | .pand p d a b | .por p d a b | .pxor p d a b => p.ok && d.isP && a.isP && b.isP
  | .pnot p d a => p.ok && d.isP && a.isP
  | .mov p d a => p.ok && d.movW && a.movR
  | .lea p d a b _ _ => p.ok && d.scalarW && a.scalarR && b.scalarR
  | .addi p d a _ | .muli p d a _ | .andi p d a _ | .ori p d a _ | .xori p d a _ => p.ok && d.scalarW && a.scalarR
  | .shli p d a _ | .shri p d a _ | .srai p d a _ => p.ok && d.scalarW && a.scalarR
  | .cmpi p _ d a _ => p.ok && d.isP && a.scalarR
  | .movi p d _ | .leai p d _ => p.ok && d.scalarW
  | .movhi p d a _ => p.ok && d.scalarW && a.scalarR
  | .fadd p ty rm d a b | .fsub p ty rm d a b | .fmul p ty rm d a b | .fdiv p ty rm d a b =>
    p.ok && ty.isFp && rm.noSr && d.scalarW && a.scalarR && b.scalarR
  | .fma p ty rm d a b c | .fnma p ty rm d a b c =>
    p.ok && ty.isFp && rm.noSr && d.scalarW && a.scalarR && b.scalarR && c.scalarR
  | .fsqrt p ty rm d a => p.ok && ty.isFp && rm.noSr && d.scalarW && a.scalarR
  | .fmin p ty d a b | .fmax p ty d a b => p.ok && ty.isFp && d.scalarW && a.scalarR && b.scalarR
  | .fabs p ty d a | .fneg p ty d a | .fclass p ty d a => p.ok && ty.isFp && d.scalarW && a.scalarR
  | .fcmp p _ ty d a b => p.ok && ty.isFp && d.isP && a.scalarR && b.scalarR
  | .fcvt p dst src rm d a c t =>
    p.ok && (dst.isFp || src.isFp) && d.scalarW && a.scalarR &&
      (if rm = .sr then dst.isFp && c.scalarR else c = .g 0 && t = 0)
  | .nop p | .align p _ | .br p _ | .jmp p _ | .call p _ | .ret p | .trap p _ | .eret p _ | .quit p => p.ok
  | .jmpr p a _ | .callr p a _ => p.ok && a.scalarR
  | .loop p d _ => p.ok && d.scalarW
  | .ld p sz sx d m => p.ok && sxOk sz sx && d.late && m.ok
  | .st p _ d m => p.ok && d.scalar4 && m.ok
  | .lda p sz sx _ d m => p.ok && sxOk sz sx && d.late && m.ok
  | .stl p _ _ d m => p.ok && d.scalar4 && m.ok
  | .ldfe p _ d m | .ldff p _ d m => p.ok && d.late && m.ok
  | .stfe p _ d m | .stff p _ d m => p.ok && d.scalar4 && m.ok
  | .feset p m | .feclr p m => p.ok && m.ok
  | .fence p o _ => p.ok && !(o = .rlx)
  | .waita p _ sz _ m b => p.ok && sz.word && m.ok && b.scalar4
  | .wait p _ _ _ _ => p.ok
  | .amo p _ sz sx _ _ d m b | .cas p sz sx _ _ d m b =>
    p.ok && sz.word && sxOk sz sx && d.late && m.ok && b.scalar4
  | .amof p _ _ _ d m b => p.ok && d.late && m.ok && b.scalar4
  | .fraddM p _ _ _ d m b => p.ok && d.late && m.ok && b.scalar4
  | .frrdM p rm _ _ _ d m => p.ok && !(rm = .sr) && d.late && m.ok
  | .arrive p d g | .bar p d g => p.ok && d.gw && g.ok
  | .bwait p g a => p.ok && g.ok && a.scalar4
  | .bgrpJoin p g | .bgrpLeave p g => p.ok && g.ok
  | .chbind p k d t => p.ok && d.isCh && chTargetOk k t
  | .chstat p d a => p.ok && d.scalar4 && d.scalarW && a.isCh
  | .cflush p _ m => p.ok && m.ok && !m.near
  | .vadd p et sat vm d a b | .vsub p et sat vm d a b | .vmul p et sat vm d a b =>
    p.ok && satOk et sat && vm.rmFp et && d.isV && a.isV && b.vb
  | .vfma p et vm d a b c => p.ok && et.isFp && vm.rmFp et && d.isV && a.isV && b.vb && c.isV
  | .vmin p _ vm d a b | .vmax p _ vm d a b => p.ok && vm.rm0 && d.isV && a.isV && b.vb
  | .vabs p et sat vm d a | .vneg p et sat vm d a => p.ok && satOk et sat && vm.rm0 && d.isV && a.isV
  | .vand p _ vm d a b | .vor p _ vm d a b | .vxor p _ vm d a b => p.ok && vm.rm0 && d.isV && a.isV && b.vb
  | .vshl p et vm d a b | .vshr p et vm d a b | .vsra p et vm d a b =>
    p.ok && !et.isFp && vm.rm0 && d.isV && a.isV && b.vi
  | .vcmp p cc et vm d a b =>
    p.ok && !(cc = .un && !et.isFp) && vm.rm0 && !vm.z && d.isM && a.isV && b.vb
  | .vsel p _ vm d a b c => p.ok && vm.rm0 && d.isV && a.isV && b.isV && c.isM
  | .vcvt p dst src vm d a part =>
    p.ok && (dst.isFp || src.isFp) && vm.rm.noSr && d.isV && a.isV && partOk dst src part
  | .vred p op et sat vm d a =>
    p.ok && !vm.z && (op = .add || vm.rm0) && vm.rmFp et && d.isV && a.isV &&
      !(sat && !(op = .add && !et.isFp)) && (op = .add || op = .min || op = .max || !et.isFp)
  | .vshuf p mode et vm d a => p.ok && vm.rm0 && d.isV && a.isV && mode.ok et
  | .vbcast p _ vm d a => p.ok && vm.rm0 && d.isV && a.scalarR
  | .vins p et d a n => p.ok && d.isV && a.scalarR && n.toNat < et.count
  | .vext p et d a n => p.ok && d.scalarW && a.isV && n.toNat < et.count
  | .vld p d m => p.ok && d.isV && m.a.scalarR && m.b.scalarR
  | .vst p d m => p.ok && d.isV && !m.z && m.a.scalarR && m.b.scalarR
  | .vldg p d m => p.ok && d.isV && m.near && m.a.scalarR && m.b.isV
  | .vsts p d m => p.ok && d.isV && !m.z && m.near && m.a.scalarR && m.b.isV
  | .vrcp p et vm d a | .vrsq p et vm d a | .vexp2 p et vm d a | .vlog2 p et vm d a =>
    p.ok && et.isFp && vm.rm.noSr && d.isV && a.isV
  | .vrng p vm d a => p.ok && vm.rm0 && d.isV && a.isV
  | .vsr p et vm d a b _ => p.ok && (et = .bf16 || et = .f16) && vm.rm0 && d.isV && a.isV && b.isV
  | .vquant p _ vm d a b c =>
    p.ok && !vm.z && d.isV && a.isV && b.isV && (if vm.rm = .sr then c.isV else c = .g 0)
  | .vdeq p _ vm d a _ => p.ok && vm.rm.noSr && d.isV && a.isV
  | .vdrop p et vm d a b c _ => p.ok && et.isFp && vm.rm.noSr && d.isV && a.isV && b.isV && c.scalarR
  | .mma p o => p.ok && o.ok
  | .mmag p o e => p.ok && o.ok && e.isV
  | .accz p d _ => p.ok && d.isAcc
  | .accst p ty rm fr a b mask =>
    p.ok && (ty = .fmt || fr = 0) && !(ty = .raw && !(rm = .rne)) && a.isV && b.isAcc && maskOk mask
  | .accld p ty d a mask => p.ok && (ty = .raw || ty = .f32) && d.isAcc && a.isV && maskOk mask
  | .accmv p d a | .accadd p d a => p.ok && d.isAcc && a.isAcc
  | .latch p ty _ _ f a mask => p.ok && (ty = .mx || f = 0) && a.isV && maskOk mask
  | .fmtsetReg p d a => p.ok && d.isFmt && a.scalarR
  | .fmtsetPreset p d _ _ _ => p.ok && d.isFmt
  | .fmtget p d a => p.ok && d.scalarW && a.isFmt
  | .frsend p a b _ mask | .nred p a b _ mask => p.ok && a.scalarR && b.isAcc && maskOk mask
  | .frwait p d a => p.ok && d.isAcc && a.scalarR
  | .cpy p _ _ d a b c => p.ok && d.scalarW && a.scalarR && maskOk b && maskOk c
  | .ctest p _ d a => p.ok && d.scalarW && a.scalarR
  | .cwait p d a | .ccancel p d a | .migrate p d a | .reap p d a | .selftest p d a => p.ok && d.scalarW && a.scalarR
  | .publish p a b => p.ok && a.scalarR && b.scalarR
  | .publishG p a b c => p.ok && a.scalarR && b.scalarR && c.scalarR
  | .bankcfg p a | .join p a => p.ok && a.scalarR
  | .spawn p _ d a b c => p.ok && d.scalarW && a.scalarR && b.scalarR && c.scalarR
  | .spawnat p d a b c e => p.ok && d.scalarW && a.scalarR && b.scalarR && c.scalarR && e.scalarR
  | .yieldTok p _ d a => p.ok && d.scalarW && a.scalarR
  | .yieldWord p _ _ _ a b => p.ok && a.scalarR && b.scalarR
  | .yoke p d => p.ok && d.scalarW
  | .unyoke p | .chkpt p _ | .tlbinvAll p _ | .wspill p _ | .wfill p _ => p.ok
  | .xmovFrom p d a | .xmovTo p d a => p.ok && d.xkind.isSome && a.xkind = d.xkind
  | .startCtx p d a b | .startFrame p d a b => p.ok && d.scalarW && a.scalarR && b.scalarR
  | .srd p d _ => p.ok && d.scalarW
  | .swr p r a => p.ok && r.writable && a.scalarR
  | .tlbinv p _ a b => p.ok && a.scalarR && b.scalarR
  | .digestN p d a b => p.ok && d.scalarW && a.scalarR && b.scalarR
  | .digestT p d b => p.ok && d.scalarW && b.isAcc
  | .dgchk p a b _ => p.ok && a.scalarR && b.scalarR
  | _ => true

end Sys2Proof
end

