-- ==== Sys2Proof/Decode.lean ====
section
/-! DEFINITION. The decoder and the encoder (R28-R35, R46-R55 and each instruction's entry): words to fields by form,
fields to instructions by a table in the manual's own order, and back. -/
namespace Sys2Proof

/-! ### Fields of a number -/

/-- Bits [lo + len − 1 : lo] of x, as a number. -/
def fld (x lo len : Nat) : Nat := x / 2 ^ lo % 2 ^ len

/-! ### Register codes (R33) -/

/-- The register a code names; codes 0xA0-0xFF are reserved (`codeOk` refuses them) and read here as g0. -/
def regOf (c : BitVec 8) : Reg :=
  let n := c.toNat
  if n < 0x10 then .g (Fin.ofNat 16 n)
  else if n < 0x40 then .w (Fin.ofNat 48 (n - 0x10))
  else if n < 0x48 then .k (Fin.ofNat 8 (n - 0x40))
  else if n < 0x50 then .ch (Fin.ofNat 8 (n - 0x48))
  else if n < 0x60 then .ident (Fin.ofNat 16 (n - 0x50))
  else if n < 0x80 then .v (Fin.ofNat 32 (n - 0x60))
  else if n < 0x88 then .acc (Fin.ofNat 8 (n - 0x80))
  else if n < 0x90 then .fmt (Fin.ofNat 8 (n - 0x88))
  else if n < 0x98 then .m (Fin.ofNat 8 (n - 0x90))
  else if n < 0xA0 then .p (Fin.ofNat 8 (n - 0x98))
  else .g 0

/-- The code of a register. -/
def Reg.code : Reg → BitVec 8
  | .g n => BitVec.ofNat 8 n
  | .w n => BitVec.ofNat 8 (0x10 + n)
  | .k n => BitVec.ofNat 8 (0x40 + n)
  | .ch n => BitVec.ofNat 8 (0x48 + n)
  | .ident n => BitVec.ofNat 8 (0x50 + n)
  | .v n => BitVec.ofNat 8 (0x60 + n)
  | .acc n => BitVec.ofNat 8 (0x80 + n)
  | .fmt n => BitVec.ofNat 8 (0x88 + n)
  | .m n => BitVec.ofNat 8 (0x90 + n)
  | .p n => BitVec.ofNat 8 (0x98 + n)

/-- A field's code names a register of an accepted kind. -/
def codeOk (kind : Reg → Bool) (c : BitVec 8) : Bool := c.toNat < 0xA0 && kind (regOf c)
/-- An unused field holds 0x00 (R34). -/
def unused (c : BitVec 8) : Bool := c = 0

/-- PR's predicate (R32). -/
def predOf (pr : BitVec 4) : Pred := ⟨Fin.ofNat 8 pr.toNat, pr.toNat ≥ 8⟩
def Pred.code (p : Pred) : BitVec 4 := BitVec.ofNat 4 (p.n + if p.neg then 8 else 0)

/-! ### Modifier codes. Each `…Of` reads a code its entry lists; the row's checks refuse the others. -/

def condOf : Nat → Cond
  | 0 => .eq | 1 => .ne | 2 => .lt | 3 => .ge | 4 => .ltu | 5 => .geu | 6 => .tst | _ => .ntst
def Cond.code : Cond → Nat
  | .eq => 0 | .ne => 1 | .lt => 2 | .ge => 3 | .ltu => 4 | .geu => 5 | .tst => 6 | .ntst => 7
def ftypeOf : Nat → FType
  | 0 => .f32 | 1 => .f16 | 2 => .bf16 | 3 => .i64 | 4 => .u64 | 5 => .i32 | _ => .u32
def FType.code : FType → Nat
  | .f32 => 0 | .f16 => 1 | .bf16 => 2 | .i64 => 3 | .u64 => 4 | .i32 => 5 | .u32 => 6
def rmodeOf : Nat → RMode
  | 0 => .dyn | 1 => .rne | 2 => .rna | 3 => .rz | 4 => .rup | 5 => .rdn | _ => .sr
def RMode.code : RMode → Nat
  | .dyn => 0 | .rne => 1 | .rna => 2 | .rz => 3 | .rup => 4 | .rdn => 5 | .sr => 6
def fcondOf : Nat → FCond
  | 0 => .eq | 1 => .lt | 2 => .le | 3 => .un | _ => .ne
def FCond.code : FCond → Nat
  | .eq => 0 | .lt => 1 | .le => 2 | .un => 3 | .ne => 4
def sizeOf' : Nat → Size
  | 0 => .b8 | 1 => .b16 | 2 => .b32 | _ => .b64
def Size.code : Size → Nat
  | .b8 => 0 | .b16 => 1 | .b32 => 2 | .b64 => 3
def scopeOf : Nat → Scope
  | 0 => .sys | 1 => .pkg | 2 => .die | 3 => .cl | 4 => .core | _ => .thr
def Scope.code : Scope → Nat
  | .sys => 0 | .pkg => 1 | .die => 2 | .cl => 3 | .core => 4 | .thr => 5
def ordOf : Nat → Ord
  | 0 => .rlx | 1 => .acq | 2 => .rel | _ => .ar
def Ord.code : Ord → Nat
  | .rlx => 0 | .acq => 1 | .rel => 2 | .ar => 3
def wcondOf : Nat → WCond
  | 0 => .eq | 1 => .ne | _ => .ge
def WCond.code : WCond → Nat
  | .eq => 0 | .ne => 1 | .ge => 2
def amoOf : Nat → AmoOp
  | 0 => .add | 1 => .and | 2 => .or | 3 => .xor | 4 => .min | 5 => .max | 6 => .mins | 7 => .maxs | _ => .swap
def AmoOp.code : AmoOp → Nat
  | .add => 0 | .and => 1 | .or => 2 | .xor => 3 | .min => 4 | .max => 5 | .mins => 6 | .maxs => 7 | .swap => 8
def amofOf : Nat → AmofOp
  | 0 => .add | 1 => .min | _ => .max
def AmofOp.code : AmofOp → Nat
  | .add => 0 | .min => 1 | .max => 2
def frKindOf : Nat → FrKind
  | 0 => .f32 | _ => .i64
def FrKind.code : FrKind → Nat
  | .f32 => 0 | .i64 => 1
def accRmOf : Nat → AccRm
  | 0 => .rne | 1 => .rz | 2 => .rup | 3 => .rdn | _ => .sr
def AccRm.code : AccRm → Nat
  | .rne => 0 | .rz => 1 | .rup => 2 | .rdn => 3 | .sr => 4
def etOf : Nat → ET
  | 0 => .f32 | 1 => .bf16 | 2 => .f16 | 3 => .i32 | 4 => .u32 | 5 => .i16 | 6 => .u16 | _ => .i8
def ET.code : ET → Nat
  | .f32 => 0 | .bf16 => 1 | .f16 => 2 | .i32 => 3 | .u32 => 4 | .i16 => 5 | .u16 => 6 | .i8 => 7
def vcondOf : Nat → VCond
  | 0 => .eq | 1 => .ne | 2 => .lt | 3 => .le | 4 => .gt | 5 => .ge | _ => .un
def VCond.code : VCond → Nat
  | .eq => 0 | .ne => 1 | .lt => 2 | .le => 3 | .gt => 4 | .ge => 5 | .un => 6
def vredOf : Nat → VRedOp
  | 0 => .add | 1 => .min | 2 => .max | 3 => .and | 4 => .or | _ => .xor
def VRedOp.code : VRedOp → Nat
  | .add => 0 | .min => 1 | .max => 2 | .and => 3 | .or => 4 | .xor => 5
def mmaTypeOf : Nat → MmaType
  | 0 => .f16 | 1 => .bf16 | 2 => .i8 | _ => .mx
def MmaType.code : MmaType → Nat
  | .f16 => 0 | .bf16 => 1 | .i8 => 2 | .mx => 3
def accTypeOf : Nat → AccType
  | 0 => .raw | 1 => .f32 | 2 => .f16 | 3 => .bf16 | _ => .fmt
def AccType.code : AccType → Nat
  | .raw => 0 | .f32 => 1 | .f16 => 2 | .bf16 => 3 | .fmt => 4
def presetOf : Nat → Preset
  | 0 => .e4m3 | 1 => .e5m2 | 2 => .e3m2 | 3 => .e2m3 | 4 => .e2m1 | _ => .int8
def Preset.code : Preset → Nat
  | .e4m3 => 0 | .e5m2 => 1 | .e3m2 => 2 | .e2m3 => 3 | .e2m1 => 4 | .int8 => 5
def scaleOf : Nat → ScaleF
  | 0 => .none | 1 => .per32 | _ => .per16
def ScaleF.code : ScaleF → Nat
  | .none => 0 | .per32 => 1 | .per16 => 2
def cselOf : Nat → CSel
  | 0 => .state | 1 => .dg | 2 => .fi | _ => .fa
def CSel.code : CSel → Nat
  | .state => 0 | .dg => 1 | .fi => 2 | .fa => 3
def tscopeOf : Nat → TScope
  | 0 => .core | 1 => .cluster | 2 => .die | _ => .pkg
def TScope.code : TScope → Nat
  | .core => 0 | .cluster => 1 | .die => 2 | .pkg => 3
def chKindOf : Nat → ChKind
  | 0 => .none | 1 => .slot | 2 => .nbr | _ => .fifo
def ChKind.code : ChKind → Nat
  | .none => 0 | .slot => 1 | .nbr => 2 | .fifo => 3

/-- The numbers of the status and control registers (R101). -/
def ScrName.code : ScrName → Nat
  | .epc => 0x00 | .ecause => 0x01 | .eaddr => 0x02 | .einfo => 0x03 | .tvec => 0x04 | .save => 0x05
  | .fflags => 0x10 | .fctl => 0x11 | .waitlim => 0x20 | .wsp => 0x21 | .dqspill => 0x22
  | .seed => 0x30 | .step => 0x31 | .watch => 0x32 | .ckpt => 0x33 | .cnt => 0x40 | .cycle => 0x41 | .turns => 0x42

/-- Every status and control register. -/
def scrAll : List ScrName :=
  [.epc, .ecause, .eaddr, .einfo, .tvec, .save, .fflags, .fctl, .waitlim, .wsp, .dqspill, .seed, .step, .watch, .ckpt,
   .cnt, .cycle, .turns]

/-- The register of a number, if one is assigned. -/
def scrOf (n : Nat) : Option ScrName := scrAll.find? (fun r => r.code == n)

/-! ### Forms (R29, R46-R54) -/

/-- The tail form of an opcode; of no matter for an unassigned one. -/
def formOf (op : BitVec 10) : Form :=
  let n := op.toNat
  if n < 0x080 then .r
  else if n < 0x100 then .i
  else if n < 0x180 then .r
  else if n < 0x200 then (if n = 0x184 ∨ n = 0x186 then .r else .i)
  else if n < 0x280 then .m
  else if n < 0x300 then (if 0x296 ≤ n ∧ n ≤ 0x299 then .m else .r)
  else if n < 0x380 then .x
  else if 0x390 ≤ n ∧ n ≤ 0x392 then .i else .x

/-- The fields of a word (R28, R29). -/
def unpack (word : IWord) : Fields :=
  let w := word.toNat
  let op := BitVec.ofNat 10 (fld w 86 10)
  let f : Fields :=
    { op := op, pr := BitVec.ofNat 4 (fld w 82 4), d := BitVec.ofNat 8 (fld w 74 8), a := BitVec.ofNat 8 (fld w 66 8)
      b := 0, c := 0, e := 0, mod := 0, imm := 0, rsv := false }
  match formOf op with
  | .r => { f with b := BitVec.ofNat 8 (fld w 58 8), c := BitVec.ofNat 8 (fld w 50 8), mod := BitVec.ofNat 24 (fld w 34 16),
                   imm := BitVec.ofNat 48 (fld w 18 16), rsv := fld w 0 18 != 0 }
  | .i => { f with imm := BitVec.ofNat 48 (fld w 18 48), mod := BitVec.ofNat 24 (fld w 2 16), rsv := fld w 0 2 != 0 }
  | .m => { f with b := BitVec.ofNat 8 (fld w 58 8), mod := BitVec.ofNat 24 (fld w 42 16),
                   imm := BitVec.ofNat 48 (fld w 10 32), rsv := fld w 0 10 != 0 }
  | .x => { f with b := BitVec.ofNat 8 (fld w 58 8), c := BitVec.ofNat 8 (fld w 50 8), e := BitVec.ofNat 8 (fld w 42 8),
                   mod := BitVec.ofNat 24 (fld w 18 24), rsv := fld w 0 18 != 0 }

/-- The word of given fields, reserved bits zero (R28, R29). -/
def pack (f : Fields) : IWord :=
  let head := f.op.toNat * 2 ^ 86 + f.pr.toNat * 2 ^ 82 + f.d.toNat * 2 ^ 74 + f.a.toNat * 2 ^ 66
  BitVec.ofNat 96 <| match formOf f.op with
  | .r => head + f.b.toNat * 2 ^ 58 + f.c.toNat * 2 ^ 50 + f.mod.toNat * 2 ^ 34 + f.imm.toNat * 2 ^ 18
  | .i => head + f.imm.toNat * 2 ^ 18 + f.mod.toNat * 2 ^ 2
  | .m => head + f.b.toNat * 2 ^ 58 + f.mod.toNat * 2 ^ 42 + f.imm.toNat * 2 ^ 10
  | .x => head + f.b.toNat * 2 ^ 58 + f.c.toNat * 2 ^ 50 + f.e.toNat * 2 ^ 42 + f.mod.toNat * 2 ^ 18

/-! ### Rows: the shapes that entries share -/

/-- MOD as a number. -/
def Fields.m (f : Fields) : Nat := f.mod.toNat
/-- The immediate as a number. -/
def Fields.i (f : Fields) : Nat := f.imm.toNat
def Fields.p (f : Fields) : Pred := predOf f.pr
def Fields.rd (f : Fields) : Reg := regOf f.d
def Fields.ra (f : Fields) : Reg := regOf f.a
def Fields.rb (f : Fields) : Reg := regOf f.b
def Fields.rc (f : Fields) : Reg := regOf f.c
def Fields.re (f : Fields) : Reg := regOf f.e
def Fields.imm16 (f : Fields) : BitVec 16 := f.imm.setWidth 16
def Fields.imm32 (f : Fields) : BitVec 32 := f.imm.setWidth 32

def sR : BitVec 8 → Bool := codeOk Reg.scalarR
def sW : BitVec 8 → Bool := codeOk Reg.scalarW
def s4 : BitVec 8 → Bool := codeOk Reg.scalar4
def vK : BitVec 8 → Bool := codeOk Reg.isV
def aK : BitVec 8 → Bool := codeOk Reg.isAcc
def pK : BitVec 8 → Bool := codeOk Reg.isP
def mK : BitVec 8 → Bool := codeOk Reg.isM
def lK : BitVec 8 → Bool := codeOk Reg.late

/-- D, A, B scalar, no MOD, no immediate (R73). -/
def row3 (mk : Pred → Reg → Reg → Reg → Instr) (f : Fields) : Row :=
  ⟨f.i = 0, f.m = 0, [sW f.d, sR f.a, sR f.b, unused f.c], mk f.p f.rd f.ra f.rb⟩
/-- D, A scalar, no MOD, no immediate; the fields a form lacks read 0. -/
def row2 (mk : Pred → Reg → Reg → Instr) (f : Fields) : Row :=
  ⟨f.i = 0, f.m = 0, [sW f.d, sR f.a, unused f.b, unused f.c, unused f.e], mk f.p f.rd f.ra⟩
/-- Predicate logic (R73). -/
def rowP (mk : Pred → Reg → Reg → Reg → Instr) (f : Fields) : Row :=
  ⟨f.i = 0, f.m = 0, [pK f.d, pK f.a, pK f.b, unused f.c], mk f.p f.rd f.ra f.rb⟩
/-- D, A scalar and imm48 (R78). -/
def rowI (mk : Pred → Reg → Reg → BitVec 48 → Instr) (f : Fields) : Row :=
  ⟨true, f.m = 0, [sW f.d, sR f.a], mk f.p f.rd f.ra f.imm⟩
/-- A shift by IMM48[5:0] (R78). -/
def rowSh (mk : Pred → Reg → Reg → BitVec 6 → Instr) (f : Fields) : Row :=
  ⟨f.i < 64, f.m = 0, [sW f.d, sR f.a], mk f.p f.rd f.ra (f.imm.setWidth 6)⟩
/-- D and imm48 (R78). -/
def rowD (mk : Pred → Reg → BitVec 48 → Instr) (f : Fields) : Row :=
  ⟨true, f.m = 0, [sW f.d, unused f.a], mk f.p f.rd f.imm⟩

/-- Class 2's type and RM fields (R79). -/
def Fields.fty (f : Fields) : FType := ftypeOf (fld f.m 0 3)
def Fields.frm (f : Fields) : RMode := rmodeOf (fld f.m 3 3)
/-- An FP type, any RM but SR, Aux 0. -/
def modF (f : Fields) : Bool := fld f.m 0 3 < 3 && fld f.m 3 3 < 6 && f.m / 64 = 0
/-- An FP type, RM 000, Aux 0. -/
def modF0 (f : Fields) : Bool := f.m < 3
def rowF3 (mk : Pred → FType → RMode → Reg → Reg → Reg → Instr) (f : Fields) : Row :=
  ⟨f.i = 0, modF f, [sW f.d, sR f.a, sR f.b, unused f.c], mk f.p f.fty f.frm f.rd f.ra f.rb⟩
def rowF4 (mk : Pred → FType → RMode → Reg → Reg → Reg → Reg → Instr) (f : Fields) : Row :=
  ⟨f.i = 0, modF f, [sW f.d, sR f.a, sR f.b, sR f.c], mk f.p f.fty f.frm f.rd f.ra f.rb f.rc⟩
def rowFm (mk : Pred → FType → Reg → Reg → Reg → Instr) (f : Fields) : Row :=
  ⟨f.i = 0, modF0 f, [sW f.d, sR f.a, sR f.b, unused f.c], mk f.p f.fty f.rd f.ra f.rb⟩
def rowF1 (mk : Pred → FType → Reg → Reg → Instr) (f : Fields) : Row :=
  ⟨f.i = 0, modF0 f, [sW f.d, sR f.a, unused f.b, unused f.c], mk f.p f.fty f.rd f.ra⟩

/-- A control instruction with no field but its immediate (R86). -/
def rowC (immOk : Fields → Bool) (mk : Pred → BitVec 48 → Instr) (f : Fields) : Row :=
  ⟨immOk f, f.m = 0, [unused f.d, unused f.a, unused f.b, unused f.c, unused f.e], mk f.p f.imm⟩

/-- Class 4's fields (R217). -/
def Fields.opx (f : Fields) : Nat := fld f.m 12 4
def Fields.ord (f : Fields) : Nat := fld f.m 10 2
def Fields.scope (f : Fields) : Nat := fld f.m 7 3
def Fields.sx (f : Fields) : Nat := fld f.m 6 1
def Fields.size (f : Fields) : Nat := fld f.m 4 2
def Fields.near (f : Fields) : Nat := fld f.m 3 1
def Fields.shift (f : Fields) : Nat := fld f.m 0 3
/-- Class 4's MOD check (R217, R218): each field at most its bound, SIZE between two bounds, SX never with .64. -/
def mod4 (opx ord scope sx szLo szHi near shift : Nat) (f : Fields) : Bool :=
  f.opx ≤ opx && f.ord ≤ ord && f.scope ≤ scope && f.sx ≤ sx && szLo ≤ f.size && f.size ≤ szHi && f.near ≤ near &&
    f.shift ≤ shift && !(f.sx = 1 && f.size = 3)
def Fields.mem (f : Fields) : MemArg := ⟨f.near = 1, f.ra, f.rb, Fin.ofNat 7 f.shift, f.imm32⟩
def Fields.amem (f : Fields) : AMem := ⟨f.near = 1, f.ra, f.imm32⟩
def Fields.fsz (f : Fields) : Size := sizeOf' f.size
def Fields.fsc (f : Fields) : Scope := scopeOf f.scope
def Fields.ford (f : Fields) : Ord := ordOf f.ord
/-- A load-like row: late destination and a full memory operand. -/
def rowL (modOk : Fields → Bool) (mk : Fields → Instr) (f : Fields) : Row :=
  ⟨true, modOk f, [lK f.d, s4 f.a, s4 f.b], mk f⟩
/-- A store-like row. -/
def rowS (modOk : Fields → Bool) (mk : Fields → Instr) (f : Fields) : Row :=
  ⟨true, modOk f, [s4 f.d, s4 f.a, s4 f.b], mk f⟩
/-- A group operand (R234). -/
def Fields.grp (f : Fields) : GroupArg := ⟨fld f.i 6 1 = 1, f.imm.setWidth 6⟩
def grpOk (f : Fields) : Bool := f.i < 128 && !(fld f.i 6 1 = 1 && fld f.i 0 6 ≥ 16)
/-- ARRIVE and BAR. -/
def rowG (mk : Pred → Reg → GroupArg → Instr) (f : Fields) : Row :=
  ⟨grpOk f, f.m = 0, [codeOk Reg.gw f.d, unused f.a, unused f.b], mk f.p f.rd f.grp⟩

/-- Class 5's fields (R162). -/
def Fields.msk (f : Fields) : Nat := fld f.m 13 3
def Fields.etc (f : Fields) : Nat := fld f.m 10 3
def Fields.vet (f : Fields) : ET := etOf f.etc
def Fields.vrm (f : Fields) : Nat := fld f.m 7 3
def Fields.vz (f : Fields) : Nat := fld f.m 6 1
def Fields.aux (f : Fields) : Nat := fld f.m 0 6
def Fields.vm (f : Fields) : VMod := ⟨Fin.ofNat 8 f.msk, rmodeOf f.vrm, f.vz = 1⟩
/-- RM of an instruction that rounds (R162). -/
def rmR (f : Fields) : Bool := f.vrm < 6
/-- RM by element type: 000 on integers. -/
def rmE (f : Fields) : Bool := if f.vet.isFp then f.vrm < 6 else f.vrm = 0
def rm0 (f : Fields) : Bool := f.vrm = 0
/-- B as a vector or, with .BS, a scalar. -/
def Fields.vsb (f : Fields) : VSrc := if fld f.m 1 1 = 1 then .bs f.rb else .vec f.rb
def vsbOk (f : Fields) : Bool := if fld f.m 1 1 = 1 then sR f.b else vK f.b
/-- VADD, VSUB, VMUL (R165). -/
def rowVA (mk : Pred → ET → Bool → VMod → Reg → Reg → VSrc → Instr) (f : Fields) : Row :=
  ⟨f.i = 0, rmE f && f.aux < 4 && !(fld f.m 0 1 = 1 && f.vet.isFp), [vK f.d, vK f.a, vsbOk f, unused f.c],
    mk f.p f.vet (fld f.m 0 1 = 1) f.vm f.rd f.ra f.vsb⟩
/-- VMIN, VMAX, VAND, VOR, VXOR (R165). -/
def rowVB (mk : Pred → ET → VMod → Reg → Reg → VSrc → Instr) (f : Fields) : Row :=
  ⟨f.i = 0, rm0 f && (f.aux = 0 || f.aux = 2), [vK f.d, vK f.a, vsbOk f, unused f.c],
    mk f.p f.vet f.vm f.rd f.ra f.vsb⟩
/-- VABS, VNEG (R165). -/
def rowVN (mk : Pred → ET → Bool → VMod → Reg → Reg → Instr) (f : Fields) : Row :=
  ⟨f.i = 0, rm0 f && f.aux < 2 && !(fld f.m 0 1 = 1 && f.vet.isFp), [vK f.d, vK f.a, unused f.b, unused f.c],
    mk f.p f.vet (fld f.m 0 1 = 1) f.vm f.rd f.ra⟩
/-- VSHL, VSHR, VSRA (R165). -/
def rowVS (mk : Pred → ET → VMod → Reg → Reg → VSrc → Instr) (f : Fields) : Row :=
  let is := fld f.m 2 1 = 1
  ⟨if is then f.i < 64 else f.i = 0, rm0 f && (f.aux = 0 || f.aux = 4) && !f.vet.isFp,
    [vK f.d, vK f.a, if is then unused f.b else vK f.b, unused f.c],
    mk f.p f.vet f.vm f.rd f.ra (if is then .imm (f.imm.setWidth 6) else .vec f.rb)⟩
/-- VRCP, VRSQ, VEXP2, VLOG2 (R170). -/
def rowVF (mk : Pred → ET → VMod → Reg → Reg → Instr) (f : Fields) : Row :=
  ⟨f.i = 0, rmR f && f.vet.isFp && f.aux = 0, [vK f.d, vK f.a, unused f.b, unused f.c], mk f.p f.vet f.vm f.rd f.ra⟩
/-- Vector memory operands (R172). -/
def Fields.vmem (f : Fields) : VMem :=
  ⟨Fin.ofNat 8 f.msk, fld f.m 12 1 = 1, f.near = 1, Fin.ofNat 7 f.shift, f.ra, f.rb, f.imm32⟩
def rowVM (mayZ mustN : Bool) (mk : Pred → Reg → VMem → Instr) (f : Fields) : Row :=
  ⟨true, (mayZ || fld f.m 12 1 = 0) && fld f.m 4 8 = 0 && (!mustN || f.near = 1) && f.shift < 7,
    [vK f.d, sR f.a, if mustN then vK f.b else sR f.b], mk f.p f.rd f.vmem⟩

/-- An optional mask word in C (R110). -/
def optReg (present : Bool) (c : BitVec 8) : Option Reg := if present then some (regOf c) else none
def optOk (present : Bool) (c : BitVec 8) : Bool := if present then sR c else unused c
/-- The operands MMA and MMAG share (R118). -/
def Fields.mmaArg (f : Fields) : MmaArg :=
  { ty := mmaTypeOf (fld f.m 0 3), keepA := fld f.m 3 1 = 1, keepB := fld f.m 4 1 = 1, la := fld f.m 5 1 = 1
    lb := fld f.m 6 1 = 1, fa := Fin.ofNat 8 (fld f.m 8 3), fb := Fin.ofNat 8 (fld f.m 11 3), d := f.rd, a := f.ra
    b := f.rb, mask := optReg (fld f.m 7 1 = 1) f.c }
def mmaModOk (f : Fields) : Bool := fld f.m 0 3 < 4 && f.m < 2 ^ 14 && (fld f.m 0 3 = 3 || fld f.m 8 6 = 0)
/-- FRSEND and NRED (R182, R348). -/
def rowFr (mk : Pred → Reg → Reg → BitVec 8 → Option Reg → Instr) (f : Fields) : Row :=
  let mask := fld f.m 8 1 = 1
  ⟨true, f.m < 512, [unused f.d, sR f.a, aK f.b, optOk mask f.c, unused f.e],
    mk f.p f.ra f.rb (f.mod.setWidth 8) (optReg mask f.c)⟩

/-! ### The opcode table (R46-R54) -/

/-- Class 0 (R47, R73-R76). -/
def table0 : List (Nat × (Fields → Row)) :=
  [ (0x000, row3 .add), (0x001, row3 .sub), (0x002, row3 .mul), (0x003, row3 .mulh), (0x004, row3 .mulhs),
    (0x005, row3 .div), (0x006, row3 .divs), (0x007, row3 .rem), (0x008, row3 .rems), (0x009, row3 .and),
    (0x00A, row3 .or), (0x00B, row3 .xor), (0x00C, row3 .andn), (0x00D, row3 .shl), (0x00E, row3 .shr),
    (0x00F, row3 .sra), (0x010, row3 .rotl), (0x011, row3 .min), (0x012, row3 .max), (0x013, row3 .mins),
    (0x014, row3 .maxs), (0x015, row2 .clz), (0x016, row2 .ctz), (0x017, row2 .popc),
    (0x018, fun f => ⟨f.i < 2 ^ 12, f.m < 2, [sW f.d, sR f.a, unused f.b, unused f.c],
      .bext f.p (fld f.m 0 1 = 1) f.rd f.ra (f.imm.setWidth 6) (BitVec.ofNat 6 (fld f.i 6 6))⟩),
    (0x019, fun f => ⟨f.i < 2 ^ 12, f.m = 0, [sW f.d, sR f.a, sR f.b, unused f.c],
      .bins f.p f.rd f.ra f.rb (f.imm.setWidth 6) (BitVec.ofNat 6 (fld f.i 6 6))⟩),
    (0x01A, row2 .brev), (0x01B, row2 .bswap),
    (0x01C, fun f => ⟨f.i = 0, f.m = 0, [sW f.d, sR f.a, sR f.b, pK f.c], .sel f.p f.rd f.ra f.rb f.rc⟩),
    (0x01D, fun f => ⟨f.i = 0, f.m < 8, [pK f.d, sR f.a, sR f.b, unused f.c],
      .cmp f.p (condOf (fld f.m 0 3)) f.rd f.ra f.rb⟩),
    (0x01E, rowP .pand), (0x01F, rowP .por), (0x020, rowP .pxor),
    (0x021, fun f => ⟨f.i = 0, f.m = 0, [pK f.d, pK f.a, unused f.b, unused f.c], .pnot f.p f.rd f.ra⟩),
    (0x022, fun f => ⟨f.i = 0, f.m = 0, [codeOk Reg.movW f.d, codeOk Reg.movR f.a, unused f.b, unused f.c],
      .mov f.p f.rd f.ra⟩),
    (0x023, fun f => ⟨true, f.m < 7, [sW f.d, sR f.a, sR f.b, unused f.c],
      .lea f.p f.rd f.ra f.rb (Fin.ofNat 7 (fld f.m 0 3)) f.imm16⟩) ]

/-- Class 1 (R48, R78). -/
def table1 : List (Nat × (Fields → Row)) :=
  [ (0x080, rowI .addi), (0x081, rowI .muli), (0x082, rowI .andi), (0x083, rowI .ori), (0x084, rowI .xori),
    (0x085, rowSh .shli), (0x086, rowSh .shri), (0x087, rowSh .srai),
    (0x088, fun f => ⟨true, f.m < 8, [pK f.d, sR f.a], .cmpi f.p (condOf (fld f.m 0 3)) f.rd f.ra f.imm⟩),
    (0x089, rowD .movi),
    (0x08A, fun f => ⟨f.i < 2 ^ 16, f.m = 0, [sW f.d, sR f.a], .movhi f.p f.rd f.ra f.imm16⟩),
    (0x08B, rowD .leai) ]

/-- Class 2 (R49, R79-R84). -/
def table2 : List (Nat × (Fields → Row)) :=
  [ (0x100, rowF3 .fadd), (0x101, rowF3 .fsub), (0x102, rowF3 .fmul), (0x103, rowF4 .fma), (0x104, rowF4 .fnma),
    (0x105, rowF3 .fdiv),
    (0x106, fun f => ⟨f.i = 0, modF f, [sW f.d, sR f.a, unused f.b, unused f.c], .fsqrt f.p f.fty f.frm f.rd f.ra⟩),
    (0x107, rowFm .fmin), (0x108, rowFm .fmax), (0x109, rowF1 .fabs), (0x10A, rowF1 .fneg),
    (0x10B, fun f => ⟨f.i = 0, fld f.m 0 3 < 3 && fld f.m 3 3 = 0 && f.m / 64 < 5,
      [pK f.d, sR f.a, sR f.b, unused f.c], .fcmp f.p (fcondOf (fld f.m 6 3)) f.fty f.rd f.ra f.rb⟩),
    (0x10C, rowF1 .fclass),
    (0x10D, fun f =>
      let sr := fld f.m 3 3 = 6
      ⟨sr || f.i = 0,
        fld f.m 0 3 < 7 && fld f.m 3 3 < 7 && f.m / 64 < 7 && (fld f.m 0 3 < 3 || (f.m / 64 < 3 && !sr)),
        [sW f.d, sR f.a, unused f.b, if sr then sR f.c else unused f.c],
        .fcvt f.p f.fty (ftypeOf (fld f.m 6 3)) f.frm f.rd f.ra f.rc f.imm16⟩) ]

/-- Class 3 (R50, R36, R37, R86). -/
def table3 : List (Nat × (Fields → Row)) :=
  [ (0x180, rowC (fun f => f.i = 0) (fun p _ => .nop p)),
    (0x181, rowC (fun f => f.i < 2 ^ 16) (fun p n => .align p (n.setWidth 16))),
    (0x182, rowC (fun _ => true) .br), (0x183, rowC (fun _ => true) .jmp),
    (0x184, fun f => ⟨true, f.m = 0, [unused f.d, sR f.a, unused f.b, unused f.c], .jmpr f.p f.ra f.imm16⟩),
    (0x185, rowC (fun _ => true) .call),
    (0x186, fun f => ⟨true, f.m = 0, [unused f.d, sR f.a, unused f.b, unused f.c], .callr f.p f.ra f.imm16⟩),
    (0x187, rowC (fun f => f.i = 0) (fun p _ => .ret p)),
    (0x188, rowD .loop),
    (0x189, rowC (fun f => f.i < 2 ^ 16) (fun p n => .trap p (n.setWidth 16))),
    (0x18A, fun f => ⟨f.i = 0, f.m < 2, [unused f.d, unused f.a], .eret f.p (fld f.m 0 1 = 1)⟩),
    (0x18B, rowC (fun f => f.i = 0) (fun p _ => .quit p)) ]

/-- Class 4 (R51, R217-R240). -/
def table4 : List (Nat × (Fields → Row)) :=
  [ (0x200, rowL (mod4 0 0 0 1 0 3 1 6) (fun f => .ld f.p f.fsz (f.sx = 1) f.rd f.mem)),
    (0x201, rowS (mod4 0 0 0 0 0 3 1 6) (fun f => .st f.p f.fsz f.rd f.mem)),
    (0x202, rowL (mod4 0 0 5 1 0 3 1 6) (fun f => .lda f.p f.fsz (f.sx = 1) f.fsc f.rd f.mem)),
    (0x203, rowS (mod4 0 0 5 0 0 3 1 6) (fun f => .stl f.p f.fsz f.fsc f.rd f.mem)),
    (0x204, rowL (mod4 0 0 5 0 3 3 1 6) (fun f => .ldfe f.p f.fsc f.rd f.mem)),
    (0x205, rowL (mod4 0 0 5 0 3 3 1 6) (fun f => .ldff f.p f.fsc f.rd f.mem)),
    (0x206, rowS (mod4 0 0 5 0 3 3 1 6) (fun f => .stfe f.p f.fsc f.rd f.mem)),
    (0x207, rowS (mod4 0 0 5 0 3 3 1 6) (fun f => .stff f.p f.fsc f.rd f.mem)),
    (0x208, fun f => ⟨true, mod4 0 0 0 0 3 3 1 6 f, [unused f.d, s4 f.a, s4 f.b], .feset f.p f.mem⟩),
    (0x209, fun f => ⟨true, mod4 0 0 0 0 3 3 1 6 f, [unused f.d, s4 f.a, s4 f.b], .feclr f.p f.mem⟩),
    (0x20A, fun f => ⟨f.i = 0, mod4 0 3 5 0 0 0 0 0 f && !(f.ord = 0), [unused f.d, unused f.a, unused f.b],
      .fence f.p f.ford f.fsc⟩),
    (0x20B, fun f => ⟨true, mod4 2 0 5 0 2 3 1 0 f, [unused f.d, s4 f.a, s4 f.b],
      .waita f.p (wcondOf f.opx) f.fsz f.fsc f.amem f.rb⟩),
    (0x20C, fun f => ⟨f.i < 2 ^ 24, f.m = 0, [unused f.d, unused f.a, unused f.b],
      .wait f.p (f.imm.setWidth 6) (BitVec.ofNat 6 (fld f.i 6 6)) (BitVec.ofNat 6 (fld f.i 12 6))
        (BitVec.ofNat 6 (fld f.i 18 6))⟩),
    (0x20D, rowL (mod4 8 3 5 1 2 3 1 0)
      (fun f => .amo f.p (amoOf f.opx) f.fsz (f.sx = 1) f.ford f.fsc f.rd f.amem f.rb)),
    (0x20E, rowL (mod4 0 3 5 1 2 3 1 0) (fun f => .cas f.p f.fsz (f.sx = 1) f.ford f.fsc f.rd f.amem f.rb)),
    (0x20F, rowL (mod4 2 3 5 0 2 2 1 0) (fun f => .amof f.p (amofOf f.opx) f.ford f.fsc f.rd f.amem f.rb)),
    (0x210, rowL (mod4 1 3 5 0 0 0 1 0) (fun f => .fraddM f.p (frKindOf f.opx) f.ford f.fsc f.rd f.amem f.rb)),
    (0x211, fun f => ⟨true, mod4 7 3 5 0 0 0 1 0 f, [lK f.d, s4 f.a, unused f.b],
      .frrdM f.p (accRmOf (fld f.opx 1 3)) (fld f.opx 0 1 = 1) f.ford f.fsc f.rd f.amem⟩),
    (0x212, rowG .arrive),
    (0x213, fun f => ⟨grpOk f, f.m = 0, [unused f.d, s4 f.a, unused f.b], .bwait f.p f.grp f.ra⟩),
    (0x214, rowG .bar),
    (0x215, fun f => ⟨grpOk f, mod4 1 0 0 0 0 0 0 0 f, [unused f.d, unused f.a, unused f.b],
      if f.opx = 1 then .bgrpLeave f.p f.grp else .bgrpJoin f.p f.grp⟩),
    (0x216, fun f => ⟨f.i < 32 && chTargetOk (chKindOf f.opx) (f.imm.setWidth 5), mod4 3 0 0 0 0 0 0 0 f,
      [codeOk Reg.isCh f.d, unused f.a, unused f.b], .chbind f.p (chKindOf f.opx) f.rd (f.imm.setWidth 5)⟩),
    (0x217, fun f => ⟨f.i = 0, f.m = 0, [s4 f.d && sW f.d, codeOk Reg.isCh f.a, unused f.b], .chstat f.p f.rd f.ra⟩),
    (0x218, fun f => ⟨true, mod4 1 0 0 0 0 0 0 6 f, [unused f.d, s4 f.a, s4 f.b], .cflush f.p (f.opx = 1) f.mem⟩) ]

/-- Class 5 (R52, R165-R180). -/
def table5 : List (Nat × (Fields → Row)) :=
  [ (0x280, rowVA .vadd), (0x281, rowVA .vsub), (0x282, rowVA .vmul),
    (0x283, fun f => ⟨f.i = 0, rmE f && f.vet.isFp && (f.aux = 0 || f.aux = 2), [vK f.d, vK f.a, vsbOk f, vK f.c],
      .vfma f.p f.vet f.vm f.rd f.ra f.vsb f.rc⟩),
    (0x284, rowVB .vmin), (0x285, rowVB .vmax), (0x286, rowVN .vabs), (0x287, rowVN .vneg),
    (0x288, rowVB .vand), (0x289, rowVB .vor), (0x28A, rowVB .vxor),
    (0x28B, rowVS .vshl), (0x28C, rowVS .vshr), (0x28D, rowVS .vsra),
    (0x28E, fun f => ⟨f.i = 0,
      rm0 f && f.vz = 0 && fld f.m 0 1 = 0 && fld f.m 2 1 = 0 && fld f.m 3 3 < 7 && !(fld f.m 3 3 = 6 && !f.vet.isFp),
      [mK f.d, vK f.a, vsbOk f, unused f.c], .vcmp f.p (vcondOf (fld f.m 3 3)) f.vet f.vm f.rd f.ra f.vsb⟩),
    (0x28F, fun f => ⟨f.i = 0, rm0 f && f.aux = 0, [vK f.d, vK f.a, vK f.b, mK f.c],
      .vsel f.p f.vet f.vm f.rd f.ra f.rb f.rc⟩),
    (0x290, fun f =>
      let src := etOf (fld f.m 0 3)
      ⟨f.i < 4 && partOk f.vet src (f.imm.setWidth 2), rmR f && fld f.m 3 3 = 0 && (f.vet.isFp || src.isFp),
        [vK f.d, vK f.a, unused f.b, unused f.c], .vcvt f.p f.vet src f.vm f.rd f.ra (f.imm.setWidth 2)⟩),
    (0x291, fun f =>
      let op := fld f.m 0 3
      let sat := fld f.m 3 1 = 1
      ⟨f.i = 0,
        f.vz = 0 && op < 6 && fld f.m 4 2 = 0 && rmE f && (op = 0 || rm0 f) && !(sat && !(op = 0 && !f.vet.isFp)) &&
          (op < 3 || !f.vet.isFp),
        [vK f.d, vK f.a, unused f.b, unused f.c], .vred f.p (vredOf op) f.vet sat f.vm f.rd f.ra⟩),
    (0x292, fun f =>
      let mode := fld f.m 0 3
      ⟨if mode = 0 then f.i = 0 else if mode = 1 then f.i < 64 else mode ≠ 2 || f.i < f.vet.count, rm0 f && f.aux < 3,
        [vK f.d, vK f.a, if mode = 0 then vK f.b else unused f.b, unused f.c],
        .vshuf f.p (if mode = 0 then .idx f.rb else if mode = 1 then .rot f.imm16 else .xor f.imm16) f.vet f.vm f.rd f.ra⟩),
    (0x293, fun f => ⟨f.i = 0, rm0 f && f.aux = 0, [vK f.d, sR f.a, unused f.b, unused f.c],
      .vbcast f.p f.vet f.vm f.rd f.ra⟩),
    (0x294, fun f => ⟨f.i < f.vet.count, rm0 f && f.aux = 0 && f.vz = 0 && f.msk = 0,
      [vK f.d, sR f.a, unused f.b, unused f.c], .vins f.p f.vet f.rd f.ra f.imm16⟩),
    (0x295, fun f => ⟨f.i < f.vet.count, rm0 f && f.aux = 0 && f.vz = 0 && f.msk = 0,
      [sW f.d, vK f.a, unused f.b, unused f.c], .vext f.p f.vet f.rd f.ra f.imm16⟩),
    (0x296, rowVM true false .vld), (0x297, rowVM false false .vst), (0x298, rowVM true true .vldg),
    (0x299, rowVM false true .vsts),
    (0x29A, rowVF .vrcp), (0x29B, rowVF .vrsq), (0x29C, rowVF .vexp2), (0x29D, rowVF .vlog2),
    (0x29E, fun f => ⟨f.i = 0, f.etc = 4 && rm0 f && f.aux = 0, [vK f.d, vK f.a, unused f.b, unused f.c],
      .vrng f.p f.vm f.rd f.ra⟩),
    (0x29F, fun f => ⟨f.i < 2, (f.etc = 1 || f.etc = 2) && rm0 f && f.aux = 0, [vK f.d, vK f.a, vK f.b, unused f.c],
      .vsr f.p f.vet f.vm f.rd f.ra f.rb (f.i = 1)⟩),
    (0x2A0, fun f => ⟨f.i = 0, f.etc = 0 && f.vz = 0 && f.vrm < 7 && f.aux < 8,
      [vK f.d, vK f.a, vK f.b, if f.vrm = 6 then vK f.c else unused f.c],
      .vquant f.p (Fin.ofNat 8 f.aux) f.vm f.rd f.ra f.rb f.rc⟩),
    (0x2A1, fun f => ⟨f.i < 2, f.etc = 0 && rmR f && f.aux < 8, [vK f.d, vK f.a, unused f.b, unused f.c],
      .vdeq f.p (Fin.ofNat 8 f.aux) f.vm f.rd f.ra (f.i = 1)⟩),
    (0x2A2, fun f => ⟨true, rmR f && f.vet.isFp && f.aux = 0, [vK f.d, vK f.a, vK f.b, sR f.c],
      .vdrop f.p f.vet f.vm f.rd f.ra f.rb f.rc f.imm16⟩) ]

/-- Class 6 (R53, R118-R125, R181-R185). -/
def table6 : List (Nat × (Fields → Row)) :=
  [ (0x300, fun f => ⟨true, mmaModOk f, [aK f.d, vK f.a, vK f.b, optOk (fld f.m 7 1 = 1) f.c, unused f.e],
      .mma f.p f.mmaArg⟩),
    (0x301, fun f => ⟨true, mmaModOk f, [aK f.d, vK f.a, vK f.b, optOk (fld f.m 7 1 = 1) f.c, vK f.e],
      .mmag f.p f.mmaArg f.re⟩),
    (0x302, fun f => ⟨true, f.m < 2 ^ 16, [aK f.d, unused f.a, unused f.b, unused f.c, unused f.e],
      .accz f.p f.rd (f.mod.setWidth 16)⟩),
    (0x303, fun f => ⟨true,
      f.m < 2 ^ 11 && fld f.m 6 1 = 0 && fld f.m 3 3 < 5 && fld f.m 0 3 < 5 && (fld f.m 0 3 = 4 || fld f.m 8 3 = 0) &&
        !(fld f.m 0 3 = 0 && !(fld f.m 3 3 = 0)),
      [unused f.d, vK f.a, aK f.b, optOk (fld f.m 7 1 = 1) f.c, unused f.e],
      .accst f.p (accTypeOf (fld f.m 0 3)) (accRmOf (fld f.m 3 3)) (Fin.ofNat 8 (fld f.m 8 3)) f.ra f.rb
        (optReg (fld f.m 7 1 = 1) f.c)⟩),
    (0x304, fun f => ⟨true, f.m < 2 ^ 8 && fld f.m 1 6 = 0, [aK f.d, vK f.a, unused f.b, optOk (fld f.m 7 1 = 1) f.c, unused f.e],
      .accld f.p (accTypeOf (fld f.m 0 3)) f.rd f.ra (optReg (fld f.m 7 1 = 1) f.c)⟩),
    (0x305, fun f => ⟨true, f.m = 0, [aK f.d, aK f.a, unused f.b, unused f.c, unused f.e], .accmv f.p f.rd f.ra⟩),
    (0x306, fun f => ⟨true, f.m = 0, [aK f.d, aK f.a, unused f.b, unused f.c, unused f.e], .accadd f.p f.rd f.ra⟩),
    (0x307, fun f => ⟨true,
      f.m < 2 ^ 11 && fld f.m 6 1 = 0 && fld f.m 3 2 = 0 && (fld f.m 0 2 = 3 || fld f.m 8 3 = 0),
      [unused f.d, vK f.a, unused f.b, optOk (fld f.m 7 1 = 1) f.c, unused f.e],
      .latch f.p (mmaTypeOf (fld f.m 0 2)) (fld f.m 2 1 = 1) (fld f.m 5 1 = 1) (Fin.ofNat 8 (fld f.m 8 3)) f.ra
        (optReg (fld f.m 7 1 = 1) f.c)⟩),
    (0x308, fun f =>
      let pre := fld f.m 0 1 = 1
      ⟨true, if pre then fld f.m 1 3 < 6 && fld f.m 4 2 < 3 && f.m < 2 ^ 7 else f.m = 0,
        [codeOk Reg.isFmt f.d, if pre then unused f.a else sR f.a, unused f.b, unused f.c, unused f.e],
        if pre then .fmtsetPreset f.p f.rd (presetOf (fld f.m 1 3)) (scaleOf (fld f.m 4 2)) (fld f.m 6 1 = 1)
        else .fmtsetReg f.p f.rd f.ra⟩),
    (0x309, fun f => ⟨true, f.m = 0, [sW f.d, codeOk Reg.isFmt f.a, unused f.b, unused f.c, unused f.e],
      .fmtget f.p f.rd f.ra⟩),
    (0x30A, rowFr .frsend),
    (0x30B, fun f => ⟨true, f.m = 0, [aK f.d, sR f.a, unused f.b, unused f.c, unused f.e], .frwait f.p f.rd f.ra⟩) ]

/-- Class 7 (R54). -/
def table7 : List (Nat × (Fields → Row)) :=
  [ (0x380, fun f =>
      let sb := fld f.m 1 1 = 1
      let db := fld f.m 2 1 = 1
      ⟨true, f.m < 16, [sW f.d, sR f.a, optOk sb f.b, optOk db f.c, unused f.e],
        .cpy f.p (fld f.m 0 1 = 1) (fld f.m 3 1 = 1) f.rd f.ra (optReg sb f.b) (optReg db f.c)⟩),
    (0x381, fun f => ⟨true, f.m < 4, [sW f.d, sR f.a, unused f.b, unused f.c, unused f.e],
      .ctest f.p (cselOf (fld f.m 0 2)) f.rd f.ra⟩),
    (0x382, row2 .cwait), (0x383, row2 .ccancel),
    (0x384, fun f =>
      let g := fld f.m 0 1 = 1
      ⟨true, f.m < 2, [unused f.d, sR f.a, sR f.b, if g then sR f.c else unused f.c, unused f.e],
        if g then .publishG f.p f.ra f.rb f.rc else .publish f.p f.ra f.rb⟩),
    (0x385, fun f => ⟨true, f.m = 0, [unused f.d, sR f.a, unused f.b, unused f.c, unused f.e], .bankcfg f.p f.ra⟩),
    (0x386, fun f => ⟨true, f.m < 2, [sW f.d, sR f.a, sR f.b, sR f.c, unused f.e],
      .spawn f.p (fld f.m 0 1 = 1) f.rd f.ra f.rb f.rc⟩),
    (0x387, fun f => ⟨true, f.m = 0, [sW f.d, sR f.a, sR f.b, sR f.c, sR f.e], .spawnat f.p f.rd f.ra f.rb f.rc f.re⟩),
    (0x388, fun f => ⟨true, f.m = 0, [unused f.d, sR f.a, unused f.b, unused f.c, unused f.e], .join f.p f.ra⟩),
    (0x389, fun f =>
      let kind := fld f.m 21 3
      let tok := kind = 0
      ⟨true, kind < 4 && fld f.m 16 4 = 0 && !(tok && fld f.m 20 1 = 1),
        [if tok then sW f.d else unused f.d, sR f.a, if tok then unused f.b else sR f.b, unused f.c, unused f.e],
        if tok then .yieldTok f.p (f.mod.setWidth 16) f.rd f.ra
        else .yieldWord f.p (wcondOf (kind - 1)) (fld f.m 20 1 = 1) (f.mod.setWidth 16) f.ra f.rb⟩),
    (0x38A, fun f => ⟨true, f.m = 0, [sW f.d, unused f.a, unused f.b, unused f.c, unused f.e], .yoke f.p f.rd⟩),
    (0x38B, fun f => ⟨true, f.m = 0, [unused f.d, unused f.a, unused f.b, unused f.c, unused f.e], .unyoke f.p⟩),
    (0x38C, fun f => ⟨true, f.m < 2,
      [codeOk (fun r => r.xkind.isSome) f.d, codeOk (fun r => r.xkind.isSome && r.xkind = f.rd.xkind) f.a, unused f.b, unused f.c, unused f.e],
      if fld f.m 0 1 = 1 then .xmovTo f.p f.rd f.ra else .xmovFrom f.p f.rd f.ra⟩),
    (0x38D, row2 .migrate),
    (0x38E, fun f => ⟨true, f.m < 2, [sW f.d, sR f.a, sR f.b, unused f.c, unused f.e],
      if fld f.m 0 1 = 1 then .startFrame f.p f.rd f.ra f.rb else .startCtx f.p f.rd f.ra f.rb⟩),
    (0x38F, row2 .reap),
    (0x390, rowC (fun f => f.i < 2 ^ 16) (fun p n => .chkpt p (n.setWidth 16))),
    (0x391, fun f => ⟨f.i = 0, (scrOf f.m).isSome, [sW f.d, unused f.a], .srd f.p f.rd ((scrOf f.m).getD .epc)⟩),
    (0x392, fun f => ⟨f.i = 0, ((scrOf f.m).map ScrName.writable).getD false, [unused f.d, sR f.a],
      .swr f.p ((scrOf f.m).getD .epc) f.ra⟩),
    (0x393, fun f =>
      let all := fld f.m 2 1 = 1
      let sc := tscopeOf (fld f.m 0 2)
      ⟨true, f.m < 8,
        [unused f.d, if all then unused f.a else sR f.a, if all then unused f.b else sR f.b, unused f.c, unused f.e],
        if all then .tlbinvAll f.p sc else .tlbinv f.p sc f.ra f.rb⟩),
    (0x394, fun f => ⟨true, f.m < 2, [unused f.d, unused f.a, unused f.b, unused f.c, unused f.e],
      .wspill f.p (fld f.m 0 1 = 1)⟩),
    (0x395, fun f => ⟨true, f.m < 2, [unused f.d, unused f.a, unused f.b, unused f.c, unused f.e],
      .wfill f.p (fld f.m 0 1 = 1)⟩),
    (0x396, rowFr .nred),
    (0x397, fun f =>
      let t := fld f.m 0 1 = 1
      ⟨true, f.m < 2, [sW f.d, if t then unused f.a else sR f.a, if t then aK f.b else sR f.b, unused f.c, unused f.e],
        if t then .digestT f.p f.rd f.rb else .digestN f.p f.rd f.ra f.rb⟩),
    (0x398, fun f => ⟨true, f.m < 2 ^ 8, [unused f.d, sR f.a, sR f.b, unused f.c, unused f.e],
      .dgchk f.p f.ra f.rb (f.mod.setWidth 8)⟩),
    (0x399, row2 .selftest) ]

/-- The table of one class (R46). -/
def tableOf (c : Nat) : List (Nat × (Fields → Row)) :=
  match c with
  | 0 => table0 | 1 => table1 | 2 => table2 | 3 => table3 | 4 => table4 | 5 => table5 | 6 => table6 | _ => table7

/-- The row of a word's opcode; none when the code is unassigned. -/
def rowOf (f : Fields) : Option Row :=
  ((tableOf (f.op.toNat / 0x80)).lookup f.op.toNat).map (· f)

/-! ### Decoding (R30, R32, R34, R55) -/

/-- A row's verdict: the lowest reason that applies, and for reason 0x3 the lowest field. -/
def judge (f : Fields) (r : Row) : Except Illegal Instr :=
  if f.rsv || !r.immOk then .error ⟨1, 0, f.op⟩
  else if !r.modOk then .error ⟨2, 0, f.op⟩
  else match r.kinds.findIdx? (! ·) with
    | some k => .error ⟨3, k, f.op⟩
    | none => if f.pr = 8 then .error ⟨4, 0, f.op⟩ else .ok r.instr

/-- The instruction of given fields, or why there is none. -/
def decodeFields (f : Fields) : Except Illegal Instr :=
  match rowOf f with
  | none => .error ⟨0, 0, f.op⟩
  | some r => judge f r

/-- The instruction of a 96-bit word (R28). -/
def decode (w : IWord) : Except Illegal Instr := decodeFields (unpack w)

/-- Twelve bytes, least significant first, as a word (R17). -/
def wordOfBytes : List Byte → Nat
  | [] => 0
  | b :: bs => b.toNat + 256 * wordOfBytes bs

/-- The instruction at the head of a byte string with the rest of the string; none when fewer than twelve bytes stand
there. -/
def decodeBytes (bs : List Byte) : Option (Except Illegal Instr × List Byte) :=
  if bs.length < 12 then none else some (decode (BitVec.ofNat 96 (wordOfBytes (bs.take 12))), bs.drop 12)

/-- The bytes of a word, least significant first. -/
def bytesOfWord (w : IWord) : List Byte := (List.range 12).map (fun i => BitVec.ofNat 8 (fld w.toNat (8 * i) 8))

/-- The class of an instruction (R46), for the pair check of R23. -/
def opOfWord (w : IWord) : BitVec 10 := BitVec.ofNat 10 (fld w.toNat 86 10)

/-! ### Encoding -/

/-- Fields of form R, I, M or X; what a form lacks stays 0. -/
def mkF (op : Nat) (p : Pred) (d a b c : BitVec 8) (mod imm : Nat) (e : BitVec 8 := 0) : Fields :=
  { op := BitVec.ofNat 10 op, pr := p.code, d := d, a := a, b := b, c := c, e := e, mod := BitVec.ofNat 24 mod
    imm := BitVec.ofNat 48 imm, rsv := false }

def b2n (b : Bool) : Nat := if b then 1 else 0

/-- Class 4's MOD (R217). -/
def mkM4 (opx ord scope sx size near shift : Nat) : Nat :=
  opx * 4096 + ord * 1024 + scope * 128 + sx * 64 + size * 16 + near * 8 + shift
/-- Class 5's MOD (R162). -/
def mkM5 (vm : VMod) (et : Nat) (aux : Nat) : Nat :=
  vm.m.val * 8192 + et * 1024 + vm.rm.code * 128 + b2n vm.z * 64 + aux
/-- A full memory operand's instruction (R42). -/
def mkMem (op : Nat) (p : Pred) (d : BitVec 8) (opx ord scope sx size : Nat) (m : MemArg) : Fields :=
  mkF op p d m.a.code m.b.code 0 (mkM4 opx ord scope sx size (b2n m.near) m.s.val) m.off.toNat
/-- An `[a + off]` operand's instruction (R218). -/
def mkAMem (op : Nat) (p : Pred) (d b : BitVec 8) (opx ord scope sx size : Nat) (m : AMem) : Fields :=
  mkF op p d m.a.code b 0 (mkM4 opx ord scope sx size (b2n m.near) 0) m.off.toNat
def GroupArg.code (g : GroupArg) : Nat := g.g.toNat + 64 * b2n g.pg
/-- B's code and the .BS bit. -/
def VSrc.code : VSrc → BitVec 8
  | .vec r => r.code
  | .bs r => r.code
  | .imm _ => 0
def VSrc.bsBit : VSrc → Nat
  | .bs _ => 2
  | _ => 0
def VSrc.isBit : VSrc → Nat
  | .imm _ => 4
  | _ => 0
def VSrc.immN : VSrc → Nat
  | .imm n => n.toNat
  | _ => 0
def optCode : Option Reg → BitVec 8
  | none => 0
  | some r => r.code
def mkVMem (op : Nat) (p : Pred) (d : Reg) (m : VMem) : Fields :=
  mkF op p d.code m.a.code m.b.code 0 (m.m.val * 8192 + b2n m.z * 4096 + b2n m.near * 8 + m.s.val) m.off.toNat
def mmaMod (o : MmaArg) : Nat :=
  o.fb.val * 2048 + o.fa.val * 256 + b2n o.mask.isSome * 128 + b2n o.lb * 64 + b2n o.la * 32 + b2n o.keepB * 16 +
    b2n o.keepA * 8 + o.ty.code

/-- The fields of classes 0 and 1. -/
def fieldsInt : Instr → Option Fields
  | .add p d a b => mkF 0x000 p d.code a.code b.code 0 0 0
  | .sub p d a b => mkF 0x001 p d.code a.code b.code 0 0 0
  | .mul p d a b => mkF 0x002 p d.code a.code b.code 0 0 0
  | .mulh p d a b => mkF 0x003 p d.code a.code b.code 0 0 0
  | .mulhs p d a b => mkF 0x004 p d.code a.code b.code 0 0 0
  | .div p d a b => mkF 0x005 p d.code a.code b.code 0 0 0
  | .divs p d a b => mkF 0x006 p d.code a.code b.code 0 0 0
  | .rem p d a b => mkF 0x007 p d.code a.code b.code 0 0 0
  | .rems p d a b => mkF 0x008 p d.code a.code b.code 0 0 0
  | .and p d a b => mkF 0x009 p d.code a.code b.code 0 0 0
  | .or p d a b => mkF 0x00A p d.code a.code b.code 0 0 0
  | .xor p d a b => mkF 0x00B p d.code a.code b.code 0 0 0
  | .andn p d a b => mkF 0x00C p d.code a.code b.code 0 0 0
  | .shl p d a b => mkF 0x00D p d.code a.code b.code 0 0 0
  | .shr p d a b => mkF 0x00E p d.code a.code b.code 0 0 0
  | .sra p d a b => mkF 0x00F p d.code a.code b.code 0 0 0
  | .rotl p d a b => mkF 0x010 p d.code a.code b.code 0 0 0
  | .min p d a b => mkF 0x011 p d.code a.code b.code 0 0 0
  | .max p d a b => mkF 0x012 p d.code a.code b.code 0 0 0
  | .mins p d a b => mkF 0x013 p d.code a.code b.code 0 0 0
  | .maxs p d a b => mkF 0x014 p d.code a.code b.code 0 0 0
  | .clz p d a => mkF 0x015 p d.code a.code 0 0 0 0
  | .ctz p d a => mkF 0x016 p d.code a.code 0 0 0 0
  | .popc p d a => mkF 0x017 p d.code a.code 0 0 0 0
  | .bext p sx d a pos len => mkF 0x018 p d.code a.code 0 0 (b2n sx) (pos.toNat + 64 * len.toNat)
  | .bins p d a b pos len => mkF 0x019 p d.code a.code b.code 0 0 (pos.toNat + 64 * len.toNat)
  | .brev p d a => mkF 0x01A p d.code a.code 0 0 0 0
  | .bswap p d a => mkF 0x01B p d.code a.code 0 0 0 0
  | .sel p d a b c => mkF 0x01C p d.code a.code b.code c.code 0 0
  | .cmp p cc d a b => mkF 0x01D p d.code a.code b.code 0 cc.code 0
  | .pand p d a b => mkF 0x01E p d.code a.code b.code 0 0 0
  | .por p d a b => mkF 0x01F p d.code a.code b.code 0 0 0
  | .pxor p d a b => mkF 0x020 p d.code a.code b.code 0 0 0
  | .pnot p d a => mkF 0x021 p d.code a.code 0 0 0 0
  | .mov p d a => mkF 0x022 p d.code a.code 0 0 0 0
  | .lea p d a b s off => mkF 0x023 p d.code a.code b.code 0 s.val off.toNat
  | .addi p d a imm => mkF 0x080 p d.code a.code 0 0 0 imm.toNat
  | .muli p d a imm => mkF 0x081 p d.code a.code 0 0 0 imm.toNat
  | .andi p d a imm => mkF 0x082 p d.code a.code 0 0 0 imm.toNat
  | .ori p d a imm => mkF 0x083 p d.code a.code 0 0 0 imm.toNat
  | .xori p d a imm => mkF 0x084 p d.code a.code 0 0 0 imm.toNat
  | .shli p d a n => mkF 0x085 p d.code a.code 0 0 0 n.toNat
  | .shri p d a n => mkF 0x086 p d.code a.code 0 0 0 n.toNat
  | .srai p d a n => mkF 0x087 p d.code a.code 0 0 0 n.toNat
  | .cmpi p cc d a imm => mkF 0x088 p d.code a.code 0 0 cc.code imm.toNat
  | .movi p d imm => mkF 0x089 p d.code 0 0 0 0 imm.toNat
  | .movhi p d a h => mkF 0x08A p d.code a.code 0 0 0 h.toNat
  | .leai p d imm => mkF 0x08B p d.code 0 0 0 0 imm.toNat
  | _ => none

/-- The fields of classes 2 and 3. -/
def fieldsFp : Instr → Option Fields
  | .fadd p ty rm d a b => mkF 0x100 p d.code a.code b.code 0 (rm.code * 8 + ty.code) 0
  | .fsub p ty rm d a b => mkF 0x101 p d.code a.code b.code 0 (rm.code * 8 + ty.code) 0
  | .fmul p ty rm d a b => mkF 0x102 p d.code a.code b.code 0 (rm.code * 8 + ty.code) 0
  | .fma p ty rm d a b c => mkF 0x103 p d.code a.code b.code c.code (rm.code * 8 + ty.code) 0
  | .fnma p ty rm d a b c => mkF 0x104 p d.code a.code b.code c.code (rm.code * 8 + ty.code) 0
  | .fdiv p ty rm d a b => mkF 0x105 p d.code a.code b.code 0 (rm.code * 8 + ty.code) 0
  | .fsqrt p ty rm d a => mkF 0x106 p d.code a.code 0 0 (rm.code * 8 + ty.code) 0
  | .fmin p ty d a b => mkF 0x107 p d.code a.code b.code 0 ty.code 0
  | .fmax p ty d a b => mkF 0x108 p d.code a.code b.code 0 ty.code 0
  | .fabs p ty d a => mkF 0x109 p d.code a.code 0 0 ty.code 0
  | .fneg p ty d a => mkF 0x10A p d.code a.code 0 0 ty.code 0
  | .fcmp p cc ty d a b => mkF 0x10B p d.code a.code b.code 0 (cc.code * 64 + ty.code) 0
  | .fclass p ty d a => mkF 0x10C p d.code a.code 0 0 ty.code 0
  | .fcvt p dst src rm d a c t =>
    mkF 0x10D p d.code a.code 0 c.code (src.code * 64 + rm.code * 8 + dst.code) t.toNat
  | .nop p => mkF 0x180 p 0 0 0 0 0 0
  | .align p k => mkF 0x181 p 0 0 0 0 0 k.toNat
  | .br p off => mkF 0x182 p 0 0 0 0 0 off.toNat
  | .jmp p addr => mkF 0x183 p 0 0 0 0 0 addr.toNat
  | .jmpr p a off => mkF 0x184 p 0 a.code 0 0 0 off.toNat
  | .call p off => mkF 0x185 p 0 0 0 0 0 off.toNat
  | .callr p a off => mkF 0x186 p 0 a.code 0 0 0 off.toNat
  | .ret p => mkF 0x187 p 0 0 0 0 0 0
  | .loop p d off => mkF 0x188 p d.code 0 0 0 0 off.toNat
  | .trap p n => mkF 0x189 p 0 0 0 0 0 n.toNat
  | .eret p next => mkF 0x18A p 0 0 0 0 (b2n next) 0
  | .quit p => mkF 0x18B p 0 0 0 0 0 0
  | _ => none

/-- The fields of class 4. -/
def fieldsMem : Instr → Option Fields
  | .ld p sz sx d m => mkMem 0x200 p d.code 0 0 0 (b2n sx) sz.code m
  | .st p sz d m => mkMem 0x201 p d.code 0 0 0 0 sz.code m
  | .lda p sz sx sc d m => mkMem 0x202 p d.code 0 0 sc.code (b2n sx) sz.code m
  | .stl p sz sc d m => mkMem 0x203 p d.code 0 0 sc.code 0 sz.code m
  | .ldfe p sc d m => mkMem 0x204 p d.code 0 0 sc.code 0 3 m
  | .ldff p sc d m => mkMem 0x205 p d.code 0 0 sc.code 0 3 m
  | .stfe p sc d m => mkMem 0x206 p d.code 0 0 sc.code 0 3 m
  | .stff p sc d m => mkMem 0x207 p d.code 0 0 sc.code 0 3 m
  | .feset p m => mkMem 0x208 p 0 0 0 0 0 3 m
  | .feclr p m => mkMem 0x209 p 0 0 0 0 0 3 m
  | .fence p o sc => mkF 0x20A p 0 0 0 0 (mkM4 0 o.code sc.code 0 0 0 0) 0
  | .waita p cc sz sc m b => mkAMem 0x20B p 0 b.code cc.code 0 sc.code 0 sz.code m
  | .wait p l s c t => mkF 0x20C p 0 0 0 0 0 (l.toNat + 64 * s.toNat + 4096 * c.toNat + 262144 * t.toNat)
  | .amo p op sz sx o sc d m b => mkAMem 0x20D p d.code b.code op.code o.code sc.code (b2n sx) sz.code m
  | .cas p sz sx o sc d m b => mkAMem 0x20E p d.code b.code 0 o.code sc.code (b2n sx) sz.code m
  | .amof p op o sc d m b => mkAMem 0x20F p d.code b.code op.code o.code sc.code 0 2 m
  | .fraddM p kind o sc d m b => mkAMem 0x210 p d.code b.code kind.code o.code sc.code 0 0 m
  | .frrdM p rm clr o sc d m => mkAMem 0x211 p d.code 0 (rm.code * 2 + b2n clr) o.code sc.code 0 0 m
  | .arrive p d g => mkF 0x212 p d.code 0 0 0 0 g.code
  | .bwait p g a => mkF 0x213 p 0 a.code 0 0 0 g.code
  | .bar p d g => mkF 0x214 p d.code 0 0 0 0 g.code
  | .bgrpJoin p g => mkF 0x215 p 0 0 0 0 0 g.code
  | .bgrpLeave p g => mkF 0x215 p 0 0 0 0 4096 g.code
  | .chbind p k d t => mkF 0x216 p d.code 0 0 0 (k.code * 4096) t.toNat
  | .chstat p d a => mkF 0x217 p d.code a.code 0 0 0 0
  | .cflush p inv m => mkMem 0x218 p 0 (b2n inv) 0 0 0 0 m
  | _ => none

/-- The fields of class 5. -/
def fieldsVec : Instr → Option Fields
  | .vadd p et sat vm d a b => mkF 0x280 p d.code a.code b.code 0 (mkM5 vm et.code (b.bsBit + b2n sat)) 0
  | .vsub p et sat vm d a b => mkF 0x281 p d.code a.code b.code 0 (mkM5 vm et.code (b.bsBit + b2n sat)) 0
  | .vmul p et sat vm d a b => mkF 0x282 p d.code a.code b.code 0 (mkM5 vm et.code (b.bsBit + b2n sat)) 0
  | .vfma p et vm d a b c => mkF 0x283 p d.code a.code b.code c.code (mkM5 vm et.code b.bsBit) 0
  | .vmin p et vm d a b => mkF 0x284 p d.code a.code b.code 0 (mkM5 vm et.code b.bsBit) 0
  | .vmax p et vm d a b => mkF 0x285 p d.code a.code b.code 0 (mkM5 vm et.code b.bsBit) 0
  | .vabs p et sat vm d a => mkF 0x286 p d.code a.code 0 0 (mkM5 vm et.code (b2n sat)) 0
  | .vneg p et sat vm d a => mkF 0x287 p d.code a.code 0 0 (mkM5 vm et.code (b2n sat)) 0
  | .vand p et vm d a b => mkF 0x288 p d.code a.code b.code 0 (mkM5 vm et.code b.bsBit) 0
  | .vor p et vm d a b => mkF 0x289 p d.code a.code b.code 0 (mkM5 vm et.code b.bsBit) 0
  | .vxor p et vm d a b => mkF 0x28A p d.code a.code b.code 0 (mkM5 vm et.code b.bsBit) 0
  | .vshl p et vm d a b => mkF 0x28B p d.code a.code b.code 0 (mkM5 vm et.code b.isBit) b.immN
  | .vshr p et vm d a b => mkF 0x28C p d.code a.code b.code 0 (mkM5 vm et.code b.isBit) b.immN
  | .vsra p et vm d a b => mkF 0x28D p d.code a.code b.code 0 (mkM5 vm et.code b.isBit) b.immN
  | .vcmp p cc et vm d a b => mkF 0x28E p d.code a.code b.code 0 (mkM5 vm et.code (cc.code * 8 + b.bsBit)) 0
  | .vsel p et vm d a b c => mkF 0x28F p d.code a.code b.code c.code (mkM5 vm et.code 0) 0
  | .vcvt p dst src vm d a part => mkF 0x290 p d.code a.code 0 0 (mkM5 vm dst.code src.code) part.toNat
  | .vred p op et sat vm d a => mkF 0x291 p d.code a.code 0 0 (mkM5 vm et.code (b2n sat * 8 + op.code)) 0
  | .vshuf p mode et vm d a =>
    match mode with
    | .idx b => mkF 0x292 p d.code a.code b.code 0 (mkM5 vm et.code 0) 0
    | .rot r => mkF 0x292 p d.code a.code 0 0 (mkM5 vm et.code 1) r.toNat
    | .xor x => mkF 0x292 p d.code a.code 0 0 (mkM5 vm et.code 2) x.toNat
  | .vbcast p et vm d a => mkF 0x293 p d.code a.code 0 0 (mkM5 vm et.code 0) 0
  | .vins p et d a n => mkF 0x294 p d.code a.code 0 0 (et.code * 1024) n.toNat
  | .vext p et d a n => mkF 0x295 p d.code a.code 0 0 (et.code * 1024) n.toNat
  | .vld p d m => mkVMem 0x296 p d m
  | .vst p d m => mkVMem 0x297 p d m
  | .vldg p d m => mkVMem 0x298 p d m
  | .vsts p d m => mkVMem 0x299 p d m
  | .vrcp p et vm d a => mkF 0x29A p d.code a.code 0 0 (mkM5 vm et.code 0) 0
  | .vrsq p et vm d a => mkF 0x29B p d.code a.code 0 0 (mkM5 vm et.code 0) 0
  | .vexp2 p et vm d a => mkF 0x29C p d.code a.code 0 0 (mkM5 vm et.code 0) 0
  | .vlog2 p et vm d a => mkF 0x29D p d.code a.code 0 0 (mkM5 vm et.code 0) 0
  | .vrng p vm d a => mkF 0x29E p d.code a.code 0 0 (mkM5 vm 4 0) 0
  | .vsr p et vm d a b h => mkF 0x29F p d.code a.code b.code 0 (mkM5 vm et.code 0) (b2n h)
  | .vquant p n vm d a b c => mkF 0x2A0 p d.code a.code b.code c.code (mkM5 vm 0 n.val) 0
  | .vdeq p n vm d a h => mkF 0x2A1 p d.code a.code 0 0 (mkM5 vm 0 n.val) (b2n h)
  | .vdrop p et vm d a b c q => mkF 0x2A2 p d.code a.code b.code c.code (mkM5 vm et.code 0) q.toNat
  | _ => none

/-- The fields of class 6. -/
def fieldsMat : Instr → Option Fields
  | .mma p o => mkF 0x300 p o.d.code o.a.code o.b.code (optCode o.mask) (mmaMod o) 0
  | .mmag p o e => mkF 0x301 p o.d.code o.a.code o.b.code (optCode o.mask) (mmaMod o) 0 e.code
  | .accz p d floor => mkF 0x302 p d.code 0 0 0 floor.toNat 0
  | .accst p ty rm fr a b mask =>
    mkF 0x303 p 0 a.code b.code (optCode mask) (fr.val * 256 + b2n mask.isSome * 128 + rm.code * 8 + ty.code) 0
  | .accld p ty d a mask => mkF 0x304 p d.code a.code 0 (optCode mask) (b2n mask.isSome * 128 + ty.code) 0
  | .accmv p d a => mkF 0x305 p d.code a.code 0 0 0 0
  | .accadd p d a => mkF 0x306 p d.code a.code 0 0 0 0
  | .latch p ty sideB l1 f a mask =>
    mkF 0x307 p 0 a.code 0 (optCode mask)
      (f.val * 256 + b2n mask.isSome * 128 + b2n l1 * 32 + b2n sideB * 4 + ty.code) 0
  | .fmtsetReg p d a => mkF 0x308 p d.code a.code 0 0 0 0
  | .fmtsetPreset p d pre sc sat => mkF 0x308 p d.code 0 0 0 (b2n sat * 64 + sc.code * 16 + pre.code * 2 + 1) 0
  | .fmtget p d a => mkF 0x309 p d.code a.code 0 0 0 0
  | .frsend p a b tag mask => mkF 0x30A p 0 a.code b.code (optCode mask) (b2n mask.isSome * 256 + tag.toNat) 0
  | .frwait p d a => mkF 0x30B p d.code a.code 0 0 0 0
  | _ => none

/-- The fields of class 7. -/
def fieldsSys : Instr → Option Fields
  | .cpy p near sh d a b c =>
    mkF 0x380 p d.code a.code (optCode b) (optCode c)
      (b2n sh * 8 + b2n c.isSome * 4 + b2n b.isSome * 2 + b2n near) 0
  | .ctest p sel d a => mkF 0x381 p d.code a.code 0 0 sel.code 0
  | .cwait p d a => mkF 0x382 p d.code a.code 0 0 0 0
  | .ccancel p d a => mkF 0x383 p d.code a.code 0 0 0 0
  | .publish p a b => mkF 0x384 p 0 a.code b.code 0 0 0
  | .publishG p a b c => mkF 0x384 p 0 a.code b.code c.code 1 0
  | .bankcfg p a => mkF 0x385 p 0 a.code 0 0 0 0
  | .spawn p pin d a b c => mkF 0x386 p d.code a.code b.code c.code (b2n pin) 0
  | .spawnat p d a b c e => mkF 0x387 p d.code a.code b.code c.code 0 0 e.code
  | .join p a => mkF 0x388 p 0 a.code 0 0 0 0
  | .yieldTok p ck d a => mkF 0x389 p d.code a.code 0 0 ck.toNat 0
  | .yieldWord p cc near ck a b =>
    mkF 0x389 p 0 a.code b.code 0 ((cc.code + 1) * 2097152 + b2n near * 1048576 + ck.toNat) 0
  | .yoke p d => mkF 0x38A p d.code 0 0 0 0 0
  | .unyoke p => mkF 0x38B p 0 0 0 0 0 0
  | .xmovFrom p d a => mkF 0x38C p d.code a.code 0 0 0 0
  | .xmovTo p d a => mkF 0x38C p d.code a.code 0 0 1 0
  | .migrate p d a => mkF 0x38D p d.code a.code 0 0 0 0
  | .startCtx p d a b => mkF 0x38E p d.code a.code b.code 0 0 0
  | .startFrame p d a b => mkF 0x38E p d.code a.code b.code 0 1 0
  | .reap p d a => mkF 0x38F p d.code a.code 0 0 0 0
  | .chkpt p n => mkF 0x390 p 0 0 0 0 0 n.toNat
  | .srd p d r => mkF 0x391 p d.code 0 0 0 r.code 0
  | .swr p r a => mkF 0x392 p 0 a.code 0 0 r.code 0
  | .tlbinv p sc a b => mkF 0x393 p 0 a.code b.code 0 sc.code 0
  | .tlbinvAll p sc => mkF 0x393 p 0 0 0 0 (sc.code + 4) 0
  | .wspill p near => mkF 0x394 p 0 0 0 0 (b2n near) 0
  | .wfill p near => mkF 0x395 p 0 0 0 0 (b2n near) 0
  | .nred p a b tag mask => mkF 0x396 p 0 a.code b.code (optCode mask) (b2n mask.isSome * 256 + tag.toNat) 0
  | .digestN p d a b => mkF 0x397 p d.code a.code b.code 0 0 0
  | .digestT p d b => mkF 0x397 p d.code 0 b.code 0 1 0
  | .dgchk p a b tag => mkF 0x398 p 0 a.code b.code 0 tag.toNat 0
  | .selftest p d a => mkF 0x399 p d.code a.code 0 0 0 0
  | _ => none

/-- The fields of an instruction; none for an event, which no word encodes. -/
def toFields (i : Instr) : Option Fields :=
  (fieldsInt i).orElse fun _ => (fieldsFp i).orElse fun _ => (fieldsMem i).orElse fun _ =>
    (fieldsVec i).orElse fun _ => (fieldsMat i).orElse fun _ => fieldsSys i

/-- The word of an instruction. -/
def encode (i : Instr) : Option IWord := (toFields i).map pack

/-- The opcode of an instruction; 0 for an event. -/
def opOf (i : Instr) : Nat := ((toFields i).map (fun f => f.op.toNat)).getD 0

/-- The decoder on a word numbered as the opcode table numbers it: the bits at and above nbits are zero. -/
def decodeTableWord (nbits w : Nat) : Option Instr :=
  match decode (BitVec.ofNat 96 (w % 2 ^ nbits)) with
  | .ok i => some i
  | .error _ => none

end Sys2Proof
end

