-- ==== Sys2Proof/Machine/Num.lean ====
section
/-! DEFINITION. Numbers (spec/09_numbers.md): exact values, the scalar and element formats, RoundTo, the furrow's entry
and addition, and the sowing generator. -/
namespace Sys2Proof.Machine
open Sys2Proof

/-- An exact value: a NaN, an infinity, or ±(m × 2^e), strictly between m and m + 1 units when `st` (sticky) holds. -/
inductive Val where
  | nan (sig : Bool)
  | inf (neg : Bool)
  | fin (neg : Bool) (m : Nat) (e : Int) (st : Bool)
deriving DecidableEq, Repr

/-- A format: sign bit, exponent and mantissa widths, bias, SCALE, SPECIALS, SAT and ZS (R195); `fp` marks FP32, FP16 and
BF16 (R193). -/
structure Fmt where
  s : Bool
  e : Nat
  m : Nat
  bias : Int
  scale : Nat
  specials : Nat
  sat : Bool
  zs : Bool
  fp : Bool
deriving DecidableEq, Repr

/-- Rounding modes (R194). -/
inductive Rnd where | rne | rna | rz | rup | rdn | sr
deriving DecidableEq, Repr

def fmtF32 : Fmt := ⟨true, 8, 23, 127, 0, 1, false, false, true⟩
def fmtF16 : Fmt := ⟨true, 5, 10, 15, 0, 1, false, false, true⟩
def fmtBF16 : Fmt := ⟨true, 8, 7, 127, 0, 1, false, false, true⟩

/-! ### Flags, in the bit order of scr.fflags (R103) -/

def fNV : BitVec 5 := 16
def fDZ : BitVec 5 := 8
def fOF : BitVec 5 := 4
def fUF : BitVec 5 := 2
def fNX : BitVec 5 := 1

/-! ### Formats -/

/-- The format a format register describes (R195). -/
def fmtOfReg (r : BitVec 32) : Fmt :=
  { s := r.getLsbD 0, e := (r.extractLsb' 1 3).toNat, m := (r.extractLsb' 4 3).toNat, zs := r.getLsbD 7
    bias := (r.extractLsb' 8 8).toInt, specials := (r.extractLsb' 16 2).toNat, sat := r.getLsbD 18
    scale := (r.extractLsb' 19 2).toNat, fp := false }

def boolNat (b : Bool) : Nat := if b then 1 else 0

/-- The width S + E + M. -/
def fmtWidth (f : Fmt) : Nat := boolNat f.s + f.e + f.m

/-- The value R181 gives a preset's register, with SCALE and SAT (R197). -/
def presetReg (p : Preset) (sc : ScaleF) (sat : Bool) : BitVec 32 :=
  let base : BitVec 32 := match p with
    | .e4m3 => 0x00020739 | .e5m2 => 0x00010F2B | .e3m2 => 0x00000327 | .e2m3 => 0x00000135 | .e2m1 => 0x00000115
    | .int8 => 0x00000071
  let s : BitVec 32 := match sc with | .none => 0 | .per32 => 0x00080000 | .per16 => 0x00100000
  base ||| s ||| (if sat then 0x00040000 else 0)

/-- The exponent of the grid's finest step: 1 − BIAS − M, or an integer format's unit (R207 step 2). -/
def fmtQ0 (f : Fmt) : Int :=
  if f.e = 0 then (if f.scale = 0 then 0 else -((boolNat f.s + f.m : Nat) - 2 : Int)) else 1 - f.bias - f.m

/-- The greatest code of a finite magnitude, sign excluded (R196). -/
def fmtMaxCode (f : Fmt) : Nat :=
  if f.e = 0 then 2 ^ f.m - 1
  else if f.specials = 1 then (2 ^ f.e - 1) * 2 ^ f.m - 1
  else if f.specials = 2 then 2 ^ (f.e + f.m) - 2
  else 2 ^ (f.e + f.m) - 1

/-- The sign bit of a code of width S + E + M. -/
def signCode (f : Fmt) (neg : Bool) : Nat := if neg && f.s then 2 ^ (f.e + f.m) else 0

/-- The canonical NaN: the quiet NaN of R193 for an FP format, sign 0 and every other bit 1 for an element format (R197). -/
def nanCode (f : Fmt) : Nat :=
  if f.fp then (2 ^ f.e - 1) * 2 ^ f.m + 2 ^ (f.m - 1) else 2 ^ (f.e + f.m) - 1

/-- The value of a code (R193, R196). -/
def valueOf (f : Fmt) (c : Nat) : Val :=
  if f.e = 0 then
    let n : Int := if f.s then (BitVec.ofNat (f.m + 1) c).toInt else (c % 2 ^ f.m : Nat)
    .fin (n < 0) n.natAbs (fmtQ0 f) false
  else
    let e := c / 2 ^ f.m % 2 ^ f.e
    let m := c % 2 ^ f.m
    let neg := f.s && (c / 2 ^ (f.e + f.m) % 2 = 1)
    if e = 2 ^ f.e - 1 ∧ f.specials = 1 then
      if m = 0 then .inf neg else .nan (f.fp && m < 2 ^ (f.m - 1))
    else if e = 2 ^ f.e - 1 ∧ m = 2 ^ f.m - 1 ∧ f.specials = 2 then .nan false
    else if e = 0 then .fin neg m (fmtQ0 f) false
    else .fin neg (2 ^ f.m + m) ((e : Int) - f.bias - f.m) false

/-! ### RoundTo (R207-R210, R440) -/

/-- The value's index on the grid of step 2^q, the part below it, and the width of that part in bits. -/
def gridSplit (m : Nat) (e q : Int) : Nat × Nat × Nat :=
  if q ≤ e then (m * 2 ^ (e - q).toNat, 0, 0)
  else
    let sh := (q - e).toNat
    (m / 2 ^ sh, m % 2 ^ sh, sh)

/-- Whether the upper neighbour is chosen for an inexact value (R194, R208): n the lower index, rem of sh bits the part
above it, r the draw. -/
def chooseHi (mode : Rnd) (neg : Bool) (n rem sh : Nat) (st : Bool) (r : Nat) : Bool :=
  match mode with
  | .rne => decide (2 ^ sh < 2 * rem) || (decide (2 * rem = 2 ^ sh) && (st || n % 2 = 1))
  | .rna => decide (2 ^ sh ≤ 2 * rem)
  | .rz => false
  | .rup => !neg
  | .rdn => neg
  | .sr => decide (r < rem * 2 ^ 16 / 2 ^ sh)

/-- A choice toward zero (R209). -/
def towardZero (mode : Rnd) (neg hi : Bool) : Bool :=
  match mode with
  | .rz => true
  | .rup => neg
  | .rdn => !neg
  | .sr => !hi
  | _ => false

/-- The greatest finite code with a sign; where that is −0, ZS writes +0. -/
def maxCodeS (f : Fmt) (neg : Bool) : Nat := if fmtMaxCode f = 0 && f.zs then 0 else fmtMaxCode f + signCode f neg

/-- An integer format's result for a magnitude n of a sign: two's complement, clipped with NV (R84, R209). -/
def intResult (f : Fmt) (neg : Bool) (n : Nat) (inexact : Bool) : Nat × BitVec 5 :=
  let nx : BitVec 5 := if inexact then fNX else 0
  if neg then
    if f.s then
      if n ≤ 2 ^ f.m then ((2 ^ (f.m + 1) - n) % 2 ^ (f.m + 1), nx) else (2 ^ f.m, fNV)
    else if n = 0 then (0, nx) else (0, fNV)
  else if n ≤ fmtMaxCode f then (n, nx) else (fmtMaxCode f, fNV)

/-- RoundTo for a finite nonzero magnitude. -/
def roundFin (f : Fmt) (mode : Rnd) (neg : Bool) (m : Nat) (e : Int) (st : Bool) (r : Nat) : Nat × BitVec 5 :=
  let q0 := fmtQ0 f
  let q := if f.e = 0 then q0 else max q0 ((Nat.log2 m : Int) + e - f.m)
  let (n, rem, sh) := gridSplit m e q
  let inexact := st || rem != 0
  let hi := inexact && chooseHi mode neg n rem sh st r
  let n' := if hi then n + 1 else n
  if f.e = 0 then intResult f neg n' inexact
  else
    let code := ((q - q0) * 2 ^ f.m + n').toNat
    if !f.s && neg then
      if code = 0 then (0, fNX ||| fUF) else (0, fNV)
    else if fmtMaxCode f < code then
      let c :=
        if towardZero mode neg hi || f.sat || f.specials = 0 then maxCodeS f neg
        else if f.specials = 1 then (2 ^ f.e - 1) * 2 ^ f.m + signCode f neg
        else nanCode f
      (c, fOF ||| fNX)
    else
      let flags := if inexact then (if code < 2 ^ f.m then fNX ||| fUF else fNX) else 0
      let c := if code = 0 && f.zs then 0 else code + signCode f neg
      (c, flags)

/-- RoundTo(fmt, mode, v, key), with `r` the draw Sow(key)[31:16] that SR uses: the code and the flags raised. -/
def roundTo (f : Fmt) (mode : Rnd) (v : Val) (r : Nat) : Nat × BitVec 5 :=
  match v with
  | .nan sig =>
    if f.e = 0 then (0, fNV)
    else if f.specials = 0 then (0, fNV)
    else (nanCode f, if sig then fNV else 0)
  | .inf neg =>
    if f.e = 0 then (if neg then (if f.s then 2 ^ f.m else 0) else fmtMaxCode f, fNV)
    else if !f.s && neg then (0, fNV)
    else if f.specials = 1 then ((2 ^ f.e - 1) * 2 ^ f.m + signCode f neg, 0)
    else if f.specials = 2 then (if f.sat then maxCodeS f neg else nanCode f, fNV)
    else (maxCodeS f neg, fNV)
  | .fin neg m e st =>
    if m = 0 && !st then
      (if f.e = 0 || f.zs || !f.s then 0 else signCode f neg, 0)
    else if m = 0 then roundFin f mode neg 1 (e - 1) true r
    else roundFin f mode neg m e st r

/-! ### Exact arithmetic on values -/

/-- A finite value as an integer multiple of 2^e. -/
def valInt (neg : Bool) (m : Nat) : Int := if neg then -(m : Int) else m

/-- An integer times 2^e as a value; `zneg` is the sign of an exact zero. -/
def ofIntExp (n : Int) (e : Int) (zneg : Bool) : Val :=
  if n = 0 then .fin zneg 0 e false else .fin (n < 0) n.natAbs e false

/-- n × 2^e rescaled to the exponent e' ≤ e. -/
def alignTo (n : Int) (e e' : Int) : Int := n * 2 ^ (e - e').toNat

/-- The exact sum of two finite values; an exact zero takes the sign IEEE 754-2019 gives it. -/
def addFin (n1 : Bool) (m1 : Nat) (e1 : Int) (n2 : Bool) (m2 : Nat) (e2 : Int) (mode : Rnd) : Val :=
  let e := min e1 e2
  let zneg := if m1 = 0 ∧ m2 = 0 ∧ n1 = n2 then n1 else mode = .rdn
  ofIntExp (alignTo (valInt n1 m1) e1 e + alignTo (valInt n2 m2) e2 e) e zneg

def isSnan : Val → Bool
  | .nan sig => sig
  | _ => false
def isNan : Val → Bool
  | .nan _ => true
  | _ => false
def isInf : Val → Bool
  | .inf _ => true
  | _ => false
def isZero : Val → Bool
  | .fin _ m _ st => m = 0 && !st
  | _ => false
def signOf : Val → Bool
  | .nan _ => false
  | .inf n => n
  | .fin n _ _ _ => n
def negVal : Val → Val
  | .nan s => .nan s
  | .inf n => .inf (!n)
  | .fin n m e st => .fin (!n) m e st

/-- The exact sum with its invalid flag; `mode` decides the sign of an exact zero. -/
def addVal (x y : Val) (mode : Rnd) : Val × BitVec 5 :=
  let sn : BitVec 5 := if isSnan x || isSnan y then fNV else 0
  match x, y with
  | .nan _, _ | _, .nan _ => (.nan false, sn)
  | .inf a, .inf b => if a = b then (.inf a, 0) else (.nan false, fNV)
  | .inf a, _ | _, .inf a => (.inf a, 0)
  | .fin n1 m1 e1 _, .fin n2 m2 e2 _ => (addFin n1 m1 e1 n2 m2 e2 mode, 0)

/-- The exact product with its invalid flag. -/
def mulVal (x y : Val) : Val × BitVec 5 :=
  let sn : BitVec 5 := if isSnan x || isSnan y then fNV else 0
  let neg := signOf x != signOf y
  match x, y with
  | .nan _, _ | _, .nan _ => (.nan false, sn)
  | .inf _, b => if isZero b then (.nan false, fNV) else (.inf neg, 0)
  | a, .inf _ => if isZero a then (.nan false, fNV) else (.inf neg, 0)
  | .fin _ m1 e1 _, .fin _ m2 e2 _ => (.fin neg (m1 * m2) (e1 + e2) false, 0)

/-- x × y + z with one invalid flag: ∞ × 0 raises NV whatever z holds (R82). -/
def fmaVal (x y z : Val) (mode : Rnd) : Val × BitVec 5 :=
  let (p, f1) := mulVal x y
  let (s, f2) := addVal p z mode
  (s, f1 ||| f2)

/-- The exact quotient, as a truncated quotient of at least 100 bits with a sticky part. -/
def divVal (x y : Val) : Val × BitVec 5 :=
  let sn : BitVec 5 := if isSnan x || isSnan y then fNV else 0
  let neg := signOf x != signOf y
  match x, y with
  | .nan _, _ | _, .nan _ => (.nan false, sn)
  | .inf _, .inf _ => (.nan false, fNV)
  | .inf _, _ => (.inf neg, 0)
  | .fin _ _ _ _, .inf _ => (.fin neg 0 0 false, 0)
  | .fin _ m1 e1 _, .fin _ m2 e2 _ =>
    if m2 = 0 then (if m1 = 0 then (.nan false, fNV) else (.inf neg, fDZ))
    else
      let num := m1 * 2 ^ 160
      (.fin neg (num / m2) (e1 - e2 - 160) (num % m2 != 0), 0)

/-- ⌊√n⌋ bit by bit, from bit `k` down. -/
def isqrtFrom (n : Nat) : Nat → Nat → Nat
  | 0, acc => acc
  | k + 1, acc => isqrtFrom n k (if (acc + 2 ^ k) * (acc + 2 ^ k) ≤ n then acc + 2 ^ k else acc)

/-- ⌊√n⌋. -/
def isqrt (n : Nat) : Nat := isqrtFrom n (Nat.log2 n / 2 + 1) 0

/-- A finite magnitude with an even exponent. -/
def evenExp (m : Nat) (e : Int) : Nat × Int := if e % 2 = 0 then (m, e) else (2 * m, e - 1)

/-- The exact square root. -/
def sqrtVal (x : Val) : Val × BitVec 5 :=
  match x with
  | .nan sig => (.nan false, if sig then fNV else 0)
  | .inf neg => if neg then (.nan false, fNV) else (.inf false, 0)
  | .fin neg m e _ =>
    if m = 0 then (.fin neg 0 0 false, 0)
    else if neg then (.nan false, fNV)
    else
      let (m', e') := evenExp m e
      let n := m' * 2 ^ 200
      let s := isqrt n
      (.fin false s (e' / 2 - 100) (s * s != n), 0)

/-- x < y on values that are not NaN; −0 equals +0. -/
def ltVal (x y : Val) : Bool :=
  match x, y with
  | .inf a, .inf b => a && !b
  | .inf a, _ => a
  | _, .inf b => !b
  | .fin n1 m1 e1 _, .fin n2 m2 e2 _ =>
    let e := min e1 e2
    decide (alignTo (valInt n1 m1) e1 e < alignTo (valInt n2 m2) e2 e)
  | _, _ => false

/-- x = y on values that are not NaN. -/
def eqVal (x y : Val) : Bool := !isNan x && !isNan y && !ltVal x y && !ltVal y x

/-! ### Correctly rounded functions (R170) -/

/-- Fraction bits of the fixed-point evaluations of 2^x and log2 x. -/
def fxBits : Nat := 384

/-- Σ 2·z^(2j+1)/(2j+1) for j below the fuel, z in units of 2^−fxBits: twice the inverse hyperbolic tangent. -/
def atanhSum (z2 : Nat) : Nat → Nat → Nat → Nat → Nat
  | 0, _, _, acc => acc
  | k + 1, pw, j, acc => atanhSum z2 k (pw * z2 / 2 ^ fxBits) (j + 2) (acc + 2 * pw / j)

/-- ln of num/den ≥ 1 in units of 2^−fxBits. -/
def lnFx (num den : Nat) : Nat :=
  let z := (num - den) * 2 ^ fxBits / (num + den)
  atanhSum (z * z / 2 ^ fxBits) 140 z 1 0

/-- ln 2. -/
def ln2Fx : Nat := lnFx 2 1

/-- Σ x^k/k! from term k on. -/
def expSum (x : Nat) : Nat → Nat → Nat → Nat → Nat
  | 0, _, _, acc => acc
  | n + 1, term, k, acc => expSum x n (term * x / 2 ^ fxBits / k) (k + 1) (acc + term)

/-- 2^A for A neither NaN nor infinite. An integer A gives the power exactly; otherwise the value is irrational and the
result carries a sticky part. A ≥ 2^12 in magnitude is out of every format's range and is cut to ±2^12. -/
def exp2Fin (neg : Bool) (m : Nat) (e : Int) : Val :=
  let big := decide ((Nat.log2 m : Int) + e ≥ 12)
  if m = 0 then .fin false 1 0 false
  else if big then .fin false 1 (if neg then -4096 else 4096) false
  else if e ≥ 0 then .fin false 1 (valInt neg (m * 2 ^ e.toNat)) false
  else
    let k := (-e).toNat
    let n : Int := valInt neg m / 2 ^ k
    let fr := (valInt neg m % 2 ^ k).toNat
    if fr = 0 then .fin false 1 n false
    else
      let x := fr * ln2Fx / 2 ^ k
      .fin false (expSum x 120 (2 ^ fxBits) 1 0) (n - fxBits) true

/-- log2 A for A finite and positive. -/
def log2Fin (m : Nat) (e : Int) : Val :=
  let l := Nat.log2 m
  let n : Int := (l : Int) + e
  if m = 2 ^ l then ofIntExp n 0 false
  else
    let fr := lnFx m (2 ^ l) * 2 ^ fxBits / ln2Fx
    let tot : Int := n * 2 ^ fxBits + fr
    if tot < 0 then .fin true ((-tot).toNat - 1) (-fxBits) true else .fin false tot.toNat (-fxBits) true

/-- 1/√A for A finite and positive. -/
def rsqrtFin (m : Nat) (e : Int) : Val :=
  let (m', e') := evenExp m e
  let s := isqrt (2 ^ 400 / m')
  .fin false s (-(e' / 2) - 200) (s * s * m' != 2 ^ 400)

/-! ### Sow (R212) -/

def sowStep (h : BitVec 64) (w : BitVec 32) : BitVec 64 :=
  let h := h ^^^ w.setWidth 64
  let h := h * 0x9C6D41E32B7F05A5#64
  let h := h ^^^ (h >>> 31)
  let h := h * 0xE24F83B16A9D3C77#64
  h ^^^ (h >>> 29)

/-- Sow(K, T, S, X, P, D). -/
def sow (k : BitVec 64) (t s : BitVec 32) (x : BitVec 48) (p d : BitVec 8) : BitVec 32 :=
  let h := sowStep (sowStep (sowStep (sowStep k t) s) (x.setWidth 32)) ((x.extractLsb' 32 16) ++ p ++ d)
  h.extractLsb' 32 32

/-- The draw of R208: Sow[31:16]. -/
def sowDraw (k : BitVec 64) (t s : BitVec 32) (x : BitVec 48) (p d : BitVec 8) : Nat :=
  ((sow k t s x p d).extractLsb' 16 16).toNat

/-! ### The furrow (R201-R206) -/

/-- A contribution: an exact integer at the floor, or a special state. -/
inductive Contrib where
  | int (c : Int)
  | sp (s : Special)
deriving DecidableEq, Repr

/-- ⌊n × 2^(e − F)⌋ (R202). -/
def floorTo (n : Int) (e f : Int) : Int :=
  if f ≤ e then n * 2 ^ (e - f).toNat else n / 2 ^ (f - e).toNat

/-- A value's contribution at floor F; a signalling NaN acts as NaN. -/
def contribOf (v : Val) (f : Int) : Contrib :=
  match v with
  | .nan _ => .sp .nan
  | .inf neg => .sp (if neg then .ninf else .pinf)
  | .fin neg m e _ => .int (floorTo (valInt neg m) e f)

/-- The states' table of R203. -/
def stAdd (a b : Special) : Special :=
  match a, b with
  | .fin, x => x
  | x, .fin => x
  | .pinf, .pinf => .pinf
  | .ninf, .ninf => .ninf
  | _, _ => .nan

/-- FurrowAdd before the range is judged: the sum as an unbounded integer and the state. -/
def furrowAdd (n : Int) (st : Special) (c : Contrib) : Int × Special :=
  match c with
  | .int c => if st = .fin then (n + c, .fin) else (0, st)
  | .sp s => let t := stAdd st s; (if t = .fin then n else 0, t)

/-- N lies in [−2^191, 2^191) (R201). -/
def inRange (n : Int) : Bool := decide (-(2 ^ 191) ≤ n) && decide (n < 2 ^ 191)

/-- The infinity of N's sign. -/
def satState (n : Int) : Special := if n < 0 then .ninf else .pinf

def stCode : Special → BitVec 8
  | .fin => 0 | .pinf => 1 | .ninf => 2 | .nan => 3
def stOfCode (n : Nat) : Special :=
  match n with
  | 0 => .fin | 1 => .pinf | 2 => .ninf | _ => .nan

/-- A furrow value at floor F as an exact value; the furrow has no −0. -/
def furrowVal (n : Int) (st : Special) (f : Int) : Val :=
  match st with
  | .fin => .fin (n < 0) n.natAbs f false
  | .pinf => .inf false
  | .ninf => .inf true
  | .nan => .nan false

/-- The bytes of a number, least significant first. -/
def bytesLE (n : Nat) : Nat → List Byte
  | 0 => []
  | k + 1 => BitVec.ofNat 8 n :: bytesLE (n / 256) k
/-- The number of bytes, least significant first. -/
def ofBytesLE : List Byte → Nat
  | [] => 0
  | b :: bs => b.toNat + 256 * ofBytesLE bs

/-- The 32-byte furrow cell image (R206). -/
def cellImage (n : Int) (st : Special) (floor : BitVec 16) : List Byte :=
  bytesLE (if st = .fin then (n % 2 ^ 192).toNat else 0) 24 ++ bytesLE floor.toNat 2 ++ [stCode st] ++ bytesLE 0 5

/-- N, state and floor of an image; none for a bad one: STATE above 3 or reserved bytes nonzero. -/
def parseCell (bs : List Byte) : Option (Int × Special × BitVec 16) :=
  let st := ofBytesLE ((bs.drop 26).take 1)
  if st > 3 ∨ ofBytesLE (bs.drop 27) ≠ 0 then none
  else some (if st = 0 then (BitVec.ofNat 192 (ofBytesLE (bs.take 24))).toInt else 0, stOfCode st,
    BitVec.ofNat 16 (ofBytesLE ((bs.drop 24).take 2)))

end Sys2Proof.Machine
end

