-- ==== Sys2Proof/Machine/Flags.lean ====
section
/-! DEFINITION. Every flag computation: the floating-point operations on codes, each with its result and the flags it
raises (R80-R85, R164, R230). -/
namespace Sys2Proof.Machine
open Sys2Proof

/-- A result code and the flags raised, in the bit order of scr.fflags (R103). -/
abbrev FRes := Nat × BitVec 5

/-- The format of a class-2 type; integer types are integer formats of their width (R84). -/
def fmtOfFType : FType → Fmt
  | .f32 => fmtF32
  | .f16 => fmtF16
  | .bf16 => fmtBF16
  | .i64 => ⟨true, 0, 63, 0, 0, 0, false, false, false⟩
  | .u64 => ⟨false, 0, 64, 0, 0, 0, false, false, false⟩
  | .i32 => ⟨true, 0, 31, 0, 0, 0, false, false, false⟩
  | .u32 => ⟨false, 0, 32, 0, 0, 0, false, false, false⟩

/-- The format of a class-5 element type (R161). -/
def fmtOfET : ET → Fmt
  | .f32 => fmtF32
  | .bf16 => fmtBF16
  | .f16 => fmtF16
  | .i32 => ⟨true, 0, 31, 0, 0, 0, false, false, false⟩
  | .u32 => ⟨false, 0, 32, 0, 0, 0, false, false, false⟩
  | .i16 => ⟨true, 0, 15, 0, 0, 0, false, false, false⟩
  | .u16 => ⟨false, 0, 16, 0, 0, 0, false, false, false⟩
  | .i8 => ⟨true, 0, 7, 0, 0, 0, false, false, false⟩

/-- The dynamic mode of scr.fctl.RM (R104); 5-7 are reserved and never held. -/
def dynMode (fctl : Word) : Rnd :=
  match (fctl.extractLsb' 0 3).toNat with
  | 0 => .rne | 1 => .rna | 2 => .rz | 3 => .rup | _ => .rdn

/-- The mode an RM field selects (R79, R162, R194). -/
def modeOf (rm : RMode) (fctl : Word) : Rnd :=
  match rm with
  | .dyn => dynMode fctl
  | .rne => .rne | .rna => .rna | .rz => .rz | .rup => .rup | .rdn => .rdn | .sr => .sr

/-- ACCST's and FRRD.M's modes (R125, R233). -/
def accMode : AccRm → Rnd
  | .rne => .rne | .rz => .rz | .rup => .rup | .rdn => .rdn | .sr => .sr

/-- Rounds an exact result, its own flags first. -/
def finish (f : Fmt) (mode : Rnd) (v : Val × BitVec 5) : FRes :=
  let r := roundTo f mode v.1 0
  (r.1, v.2 ||| r.2)

def fpAdd (f : Fmt) (mode : Rnd) (a b : Nat) : FRes := finish f mode (addVal (valueOf f a) (valueOf f b) mode)
def fpSub (f : Fmt) (mode : Rnd) (a b : Nat) : FRes := finish f mode (addVal (valueOf f a) (negVal (valueOf f b)) mode)
def fpMul (f : Fmt) (mode : Rnd) (a b : Nat) : FRes := finish f mode (mulVal (valueOf f a) (valueOf f b))
def fpDiv (f : Fmt) (mode : Rnd) (a b : Nat) : FRes := finish f mode (divVal (valueOf f a) (valueOf f b))
def fpSqrt (f : Fmt) (mode : Rnd) (a : Nat) : FRes := finish f mode (sqrtVal (valueOf f a))
/-- A × B + C (R81, R82). -/
def fpFma (f : Fmt) (mode : Rnd) (a b c : Nat) : FRes :=
  finish f mode (fmaVal (valueOf f a) (valueOf f b) (valueOf f c) mode)
/-- −(A × B) + C. -/
def fpFnma (f : Fmt) (mode : Rnd) (a b c : Nat) : FRes :=
  finish f mode (fmaVal (negVal (valueOf f a)) (valueOf f b) (valueOf f c) mode)

/-- NV for a signalling NaN operand. -/
def snanFlag (x y : Val) : BitVec 5 := if isSnan x || isSnan y then fNV else 0
/-- NV for any NaN operand. -/
def nanFlag (x y : Val) : BitVec 5 := if isNan x || isNan y then fNV else 0

/-- minimumNumber or maximumNumber (R83): a NaN loses to a number, −0 is below +0. -/
def fpMinMax (f : Fmt) (isMax : Bool) (a b : Nat) : FRes :=
  let x := valueOf f a
  let y := valueOf f b
  let fl := snanFlag x y
  if isNan x && isNan y then (nanCode f, fl)
  else if isNan x then (b, fl)
  else if isNan y then (a, fl)
  else
    let less := ltVal x y || (eqVal x y && signOf x && !signOf y)
    (if less != isMax then a else b, fl)

/-- Clears the sign bit (R81). -/
def fpAbs (f : Fmt) (a : Nat) : Nat := a % 2 ^ (f.e + f.m)
/-- Flips the sign bit (R81). -/
def fpNeg (f : Fmt) (a : Nat) : Nat := if a < 2 ^ (f.e + f.m) then a + 2 ^ (f.e + f.m) else a - 2 ^ (f.e + f.m)

/-- FCMP (R83). -/
def fpCmp (f : Fmt) (cc : FCond) (a b : Nat) : Bool × BitVec 5 :=
  let x := valueOf f a
  let y := valueOf f b
  let un := isNan x || isNan y
  match cc with
  | .eq => (eqVal x y, snanFlag x y)
  | .lt => (ltVal x y && !un, nanFlag x y)
  | .le => ((ltVal x y || eqVal x y) && !un, nanFlag x y)
  | .un => (un, snanFlag x y)
  | .ne => (!eqVal x y, snanFlag x y)

/-- A subnormal operand or result (R60). -/
def isSubnormal (f : Fmt) (c : Nat) : Bool := f.fp && c / 2 ^ f.m % 2 ^ f.e = 0 && c % 2 ^ f.m != 0

/-- FCLASS's mask (R83). -/
def fpClass (f : Fmt) (c : Nat) : Nat :=
  match valueOf f c with
  | .inf neg => if neg then 1 else 2 ^ 7
  | .nan sig => if sig then 2 ^ 8 else 2 ^ 9
  | .fin neg m _ _ =>
    if m = 0 then (if neg then 2 ^ 3 else 2 ^ 4)
    else if isSubnormal f c then (if neg then 2 ^ 2 else 2 ^ 5)
    else (if neg then 2 ^ 1 else 2 ^ 6)

/-- A conversion between two formats (R84): RoundTo of the value, `r` the draw SR uses. -/
def fpConvert (dst src : Fmt) (mode : Rnd) (c r : Nat) : FRes := roundTo dst mode (valueOf src c) r

/-- VRCP, VRSQ, VEXP2 and VLOG2: the four functions of R170. -/
inductive VFun where | rcp | rsq | exp2 | log2
deriving DecidableEq, Repr

/-- The function's exact value with DZ or NV (R170). -/
def funVal (fn : VFun) (x : Val) : Val × BitVec 5 :=
  match x with
  | .nan sig => (.nan false, if sig then fNV else 0)
  | .inf neg =>
    match fn with
    | .rcp => (.fin neg 0 0 false, 0)
    | .rsq => if neg then (.nan false, fNV) else (.fin false 0 0 false, 0)
    | .exp2 => if neg then (.fin false 0 0 false, 0) else (.inf false, 0)
    | .log2 => if neg then (.nan false, fNV) else (.inf false, 0)
  | .fin neg m e _ =>
    match fn with
    | .rcp => divVal (.fin false 1 0 false) x
    | .rsq => if m = 0 then (.inf neg, fDZ) else if neg then (.nan false, fNV) else (rsqrtFin m e, 0)
    | .exp2 => (exp2Fin neg m e, 0)
    | .log2 => if m = 0 then (.inf true, fDZ) else if neg then (.nan false, fNV) else (log2Fin m e, 0)

def fpFun (f : Fmt) (fn : VFun) (mode : Rnd) (a : Nat) : FRes := finish f mode (funVal fn (valueOf f a))

/-- The exceptions of `fl` that scr.fctl.TEN enables (R104), in the bit order of scr.fflags. -/
def enabledFlags (fctl : Word) (fl : BitVec 5) : BitVec 5 := fl &&& fctl.extractLsb' 3 5

/-- AMOF (R230): RNE addition, minimumNumber or maximumNumber of FP32 words, without flags. -/
def amofVal (op : AmofOp) (old b : Nat) : Nat :=
  match op with
  | .add => (fpAdd fmtF32 .rne old b).1
  | .min => (fpMinMax fmtF32 false old b).1
  | .max => (fpMinMax fmtF32 true old b).1

end Sys2Proof.Machine
end

