-- ==== Sys2Proof/Machine/Sha.lean ====
section
/-! DEFINITION. SHA-256 (FIPS 180-4), which R352 names for DIGEST, copies with DIGEST and the boot measurements. -/
namespace Sys2Proof.Machine
open Sys2Proof

/-- The round constants. -/
def shaK : List (BitVec 32) :=
  [0x428A2F98, 0x71374491, 0xB5C0FBCF, 0xE9B5DBA5, 0x3956C25B, 0x59F111F1, 0x923F82A4, 0xAB1C5ED5,
   0xD807AA98, 0x12835B01, 0x243185BE, 0x550C7DC3, 0x72BE5D74, 0x80DEB1FE, 0x9BDC06A7, 0xC19BF174,
   0xE49B69C1, 0xEFBE4786, 0x0FC19DC6, 0x240CA1CC, 0x2DE92C6F, 0x4A7484AA, 0x5CB0A9DC, 0x76F988DA,
   0x983E5152, 0xA831C66D, 0xB00327C8, 0xBF597FC7, 0xC6E00BF3, 0xD5A79147, 0x06CA6351, 0x14292967,
   0x27B70A85, 0x2E1B2138, 0x4D2C6DFC, 0x53380D13, 0x650A7354, 0x766A0ABB, 0x81C2C92E, 0x92722C85,
   0xA2BFE8A1, 0xA81A664B, 0xC24B8B70, 0xC76C51A3, 0xD192E819, 0xD6990624, 0xF40E3585, 0x106AA070,
   0x19A4C116, 0x1E376C08, 0x2748774C, 0x34B0BCB5, 0x391C0CB3, 0x4ED8AA4A, 0x5B9CCA4F, 0x682E6FF3,
   0x748F82EE, 0x78A5636F, 0x84C87814, 0x8CC70208, 0x90BEFFFA, 0xA4506CEB, 0xBEF9A3F7, 0xC67178F2]

/-- The initial hash value. -/
def shaH0 : List (BitVec 32) :=
  [0x6A09E667, 0xBB67AE85, 0x3C6EF372, 0xA54FF53A, 0x510E527F, 0x9B05688C, 0x1F83D9AB, 0x5BE0CD19]

def shaBig0 (x : BitVec 32) : BitVec 32 := x.rotateRight 2 ^^^ x.rotateRight 13 ^^^ x.rotateRight 22
def shaBig1 (x : BitVec 32) : BitVec 32 := x.rotateRight 6 ^^^ x.rotateRight 11 ^^^ x.rotateRight 25
def shaSmall0 (x : BitVec 32) : BitVec 32 := x.rotateRight 7 ^^^ x.rotateRight 18 ^^^ x >>> 3
def shaSmall1 (x : BitVec 32) : BitVec 32 := x.rotateRight 17 ^^^ x.rotateRight 19 ^^^ x >>> 10

/-- One round on the eight working variables. -/
def shaRound (s : List (BitVec 32)) (k w : BitVec 32) : List (BitVec 32) :=
  match s with
  | [a, b, c, d, e, f, g, h] =>
    let t1 := h + shaBig1 e + ((e &&& f) ^^^ (~~~e &&& g)) + k + w
    let t2 := shaBig0 a + ((a &&& b) ^^^ (a &&& c) ^^^ (b &&& c))
    [t1 + t2, a, b, c, d + t1, e, f, g]
  | _ => s

/-- The rounds, the message schedule running beside them: `ws` holds W(t)…W(t + 15). -/
def shaRounds : List (BitVec 32) → List (BitVec 32) → List (BitVec 32) → List (BitVec 32)
  | [], _, s => s
  | k :: ks, ws, s =>
    match ws with
    | w :: rest =>
      let next := shaSmall1 (rest.getD 13 0) + rest.getD 8 0 + shaSmall0 (rest.getD 0 0) + w
      shaRounds ks (rest ++ [next]) (shaRound s k w)
    | [] => s

/-- A big-endian 32-bit word. -/
def shaWord (bs : List Byte) : BitVec 32 := BitVec.ofNat 32 (ofBytesLE (bs.take 4).reverse)

/-- Sixteen words of a 64-byte block. -/
def shaWords (bs : List Byte) : List (BitVec 32) := (List.range 16).map (fun i => shaWord (bs.drop (4 * i)))

/-- The hash after each of the first n blocks of bs. -/
def shaBlocks : Nat → List Byte → List (BitVec 32) → List (BitVec 32)
  | 0, _, h => h
  | n + 1, bs, h => shaBlocks n (bs.drop 64) (List.zipWith (· + ·) h (shaRounds shaK (shaWords bs) h))

/-- The message padded to whole blocks: a byte 0x80, zeros, and the length in bits, big-endian. -/
def shaPad (m : List Byte) : List Byte :=
  m ++ [0x80] ++ List.replicate ((119 - m.length % 64) % 64) 0 ++ (bytesLE (8 * m.length) 8).reverse

/-- SHA-256 of a byte string, 32 bytes. -/
def sha256 (m : List Byte) : List Byte :=
  let p := shaPad m
  (shaBlocks (p.length / 64) p shaH0).flatMap (fun w => (bytesLE w.toNat 4).reverse)

/-- The 64-bit digest of R352: byte 0 of the hash in bits [7:0]. -/
def digest64 (m : List Byte) : Word := BitVec.ofNat 64 (ofBytesLE ((sha256 m).take 8))

/-- The SHA-256 engine's blocks for a length (R352). -/
def shaBlockCount (len : Nat) : Nat := (len + 9 + 63) / 64

end Sys2Proof.Machine
end

