-- ==== Sys2Proof/Machine/State.lean ====
section
/-! DEFINITION. The state of one package as plain data: threads, cores, clusters, dies, memory, fabric, host queues, boot
and power; the faults and refusals of a step; and the machine right after reset. Collections indexed by number are sorted
association lists that list only what has been touched (an absent entry is the reset value). -/
namespace Sys2Proof.Machine
open Sys2Proof

/-! ### Threads -/

/-- A register with a presence bit (R143). A window register is named by its absolute index, depth × 32 + i, so that a
load outstanding over a CALL or RET still names its own register (R88, R89). -/
inductive RegId where | g (n : Nat) | w (abs : Nat) | v (n : Nat)
deriving DecidableEq, Repr

/-- A channel register's binding (R237). -/
structure ChBind where
  kind : ChKind
  target : BitVec 5
deriving DecidableEq, Repr

/-- The status and control registers a thread holds (R101); dqspill is per core, cnt, cycle and turns are read from the
counters, the clock and the turn count. -/
structure ScrFile where
  epc : Word
  ecause : Word
  eaddr : Word
  einfo : Word
  tvec : Word
  save : Word
  fflags : Word
  fctl : Word
  waitlim : Word
  wsp : Word
  seed : Word
  step : Word
  watch : Word
  ckpt : Word
deriving DecidableEq, Repr

/-- A translation a thread waits for (R379, R441): the address, what the access needs of the leaf, the opcode that a
refusal reports, and whether it is a home operation. -/
structure Xl where
  root : Nat
  va : Word
  read : Bool
  write : Bool
  home : Bool
  fetch : Bool
  noPerm : Bool
  data : Bool
  opc : Nat
deriving DecidableEq, Repr

/-- Why a thread is parked (R141), with what its wake condition reads. -/
inductive Why where
  | presence (rs : List RegId) (op : Nat)
  | far (q : MemReq)
  | replied (q : MemReq) (r : ReplyData)
  | homeWait (q : MemReq)
  | translation (x : Xl) (leaf : Option (Word × Nat))
  | trapNow (ti : TrapInfo)
  | pageHeld (root : Nat) (va : Word)
  | engine (id : Nat)
  | engineDone (fault : Option TrapInfo)
  | engineQueue
  | copyQueue
  | waitCnt (l s c t : Nat)
  | arrive (pg : Bool) (die g : Nat)
  | bwait (pg : Bool) (die g : Nat) (p : BitVec 32) (arr : Bool)
  | token (n : BitVec 16)
  | frwait (tile n : Nat)
  | chRead (n : Nat)
  | chWrite (n : Nat)
  | counter (i : Nat)
  | align (k : BitVec 16)
  | dequeSpill
  | drain
  | loadsLand (absLo absHi : Nat)
  | framePresent (absLo : Nat)
  | opsDone (ids : List Nat)
  | joinWait (p : Place) (v : Word) (head : Option Frame)
  | until (cycle : Nat)
  | line
  | chkpt (n : BitVec 16)
  | event
deriving DecidableEq, Repr

/-- A park: its reason, the instruction that continues when the wake condition holds (none: the thread simply issues
again or goes on), and the cycle in which it began. -/
structure Park where
  why : Why
  retry : Option Instr
  since : Nat
deriving DecidableEq, Repr

/-- A near load or near atomic still outstanding (R61, R143). -/
structure PendLoad where
  dest : Dest
  data : Line
  flags : BitVec 5
  fault : Option TrapInfo
deriving DecidableEq, Repr

/-- The counter an outstanding operation holds raised (R63); `msg` is a message (FRSEND, NRED, SPAWNAT), which raises st but is no
store, `dec` a join-counter decrement of a QUIT (R99), `part` one of the two requests of a store whose counter another operation
holds (R173). -/
inductive OpKind where | ld | st | msg | cp | tl | dec | part
deriving DecidableEq, Repr

/-- An operation a thread has issued that is not complete (R63, R143, R391): its issuer, the counter it holds, the
register data of a near load, and for a far posted request its tag, resends and last transmission (R391, R393). -/
structure Op where
  id : Nat
  uid : Nat
  t : TId
  launch : BitVec 16
  kind : OpKind
  load : Option PendLoad
  tag : Option Nat
  q : Option MemReq
  resends : Nat
  lastSent : Nat
deriving DecidableEq, Repr

/-- An access of several requests (R68, R91, R173): the number of its operation, the requests not yet answered, the access as a
whole, and what has been answered so far. -/
structure Gather where
  id : Nat
  parts : List MemReq
  q : MemReq
  r : ReplyData
deriving DecidableEq, Repr

/-- An operation held by a release (R222, R225): the earlier operations it waits for, whether it waits for the write-back
of the cluster's dirty lines, the cycle at which that is acknowledged, and the event it then lays down, `delay` cycles ahead. -/
structure HeldOp where
  id : Nat
  uid : Nat
  t : TId
  before : List Nat
  wide : Bool
  wbAck : Option Nat
  delay : Nat
  act : Instr
deriving DecidableEq, Repr

/-- A yoked mate's register set (R302). -/
structure Mate where
  g : Vector Word 16
  w : Vector Word 48
  v : Vector Line 32
  m : Vector Word 8
  p : Vector Bool 8
deriving DecidableEq, Repr

/-- A save that has begun (R322, R323): the entry it uses, STATE of R325, and once the counts are zero the place and length of
its image. -/
structure SavePlan where
  ckent : BitVec 16
  reissue : Bool
  barHalf : Bool
  frwait : Bool
  image : Option (Nat × Nat)
deriving DecidableEq, Repr

/-- A save that is due (R316, R321, R322): whether the thread is then held, whether it is saved in full at the next point, the
cycle of the checkpoint deadline, whether the save pool has refused it until the next balancing step, and its course. -/
structure SaveDue where
  since : Nat
  held : Bool
  full : Bool
  deadline : Nat
  blocked : Bool
  plan : Option SavePlan
deriving DecidableEq, Repr

/-- A thread: its registers, window, control registers, counters and waits (R33, R63, R88, R101, R139-R153). -/
structure Thread where
  uid : Nat
  pc : Word
  checked : Bool
  g : Vector Word 16
  w : Vector Word 48
  lower : List (Vector Word 32)
  depth : Nat
  v : Vector Line 32
  fmt : Vector (BitVec 32) 8
  m : Vector Word 8
  p : Vector Bool 8
  absent : List RegId
  ch : Vector ChBind 8
  scr : ScrFile
  org : Vector Word 4
  ext : Vector Word 4
  stage : Nat
  launch : BitVec 16
  ld : Nat
  st : Nat
  cp : Nat
  tl : Nat
  turns : Nat
  forfeit : Nat
  park : Option Park
  waited : Nat
  deferred : List TrapInfo
  joinAddr : Word
  inlines : List (Nat × Word)
  mate : Option Mate
  saveDue : Option SaveDue
  stopped : Option TrapInfo
  barArr : Option (BitVec 32)
  fetchFault : Option Word
  release : Option Nat
  cont : Nat
  ready : Nat
  latch : Option (List Word)
  pops : List (Fin 8 × Word)     -- the channel words that the instruction in progress has popped
  refetch : Bool
deriving DecidableEq, Repr

/-- What a slot holds (R139); Parked and Forfeiting are read from the thread. -/
inductive Occ where | free | busy (t : Thread) | withheld
deriving DecidableEq, Repr

/-- A slot: its queue-owner field (R314), its occupant, and the request identities it numbers (R391): the sequence bit of
parked requests, the phases of posted tags, and the tags that were resent (R393). `freeAt` is the cycle from which a Free slot takes
work: that after the one in which it became free (R61, R99) or in which a PREEMPT that named it ended (R321). -/
structure Slot where
  owner : Nat
  occ : Occ
  freeAt : Nat
  seqBit : Bool
  phases : BitVec 63
  quiet : List (Nat × Nat)        -- posted tag ↦ cycle until which it is not reused
deriving DecidableEq, Repr

/-! ### Cores -/

/-- One accumulator cell: N with its 8 guard bits, and the special state (R109, R184). -/
structure Cell where
  n : BitVec 200
  st : Special
deriving DecidableEq, Repr

/-- An accumulator tile with its floor and hidden receive state (R109, R184). Unlisted cells are finite zero; `bad` lists the cells
whose parity fails (R109, R405). -/
structure Tile where
  cells : List (Nat × Cell)
  floor : BitVec 16
  sends : Nat
  arr : Nat
  ann : Nat
  mism : Option (BitVec 8 × BitVec 8 × BitVec 16)   -- CELL, TAG, F of the least mismatched message
  bad : List Nat
deriving DecidableEq, Repr

/-- A full operand latch (R114): owner slot, type, format value and row image with its scales. -/
structure Latch where
  slot : Nat
  ty : MmaType
  fmt : BitVec 32
  rows : List (BitVec 256)
  scales : List Byte
deriving DecidableEq, Repr

/-- An engine-queue entry's operation with the operands it captured at issue (R118-R127, R182, R348, R352). -/
inductive EngOp where
  | mma (gather : Option Line) (o : MmaArg) (tile : Nat) (fmtA fmtB : BitVec 32) (descA descB : Line) (mask : Word)
  | latch (sideB l1 : Bool) (ty : MmaType) (fmt : BitVec 32) (desc : Line) (mask : Word)
  | accz (tile : Nat) (floor : BitVec 16)
  | accmv (d a : Nat)
  | accadd (d a : Nat)
  | accst (ty : AccType) (rm : AccRm) (fmt : BitVec 32) (desc : Line) (tile : Nat) (mask : Word) (seed step : Word)
  | accld (ty : AccType) (tile : Nat) (desc : Line) (mask : Word)
  | frsend (dest : Word) (tile : Nat) (tag : BitVec 8) (mask : Word) (stTag : Nat)
  | nred (group : Nat) (round : Nat) (tile : Nat) (tag : BitVec 8) (mask : Word) (stTag : Nat)
  | digest (d : Reg) (tile : Nat)
deriving DecidableEq, Repr

/-- One cell that an ACCST writes or an ACCLD reads (R126). -/
structure Beat where
  cell : Nat
  off : Nat
  bytes : List Byte
  done : Bool
deriving DecidableEq, Repr

/-- One side's fill of an entry (R64, R114): the reads not yet served, the cycle at which it can end, the byte ranges read so far,
and the fault it met. -/
structure Fill where
  left : Nat
  ends : Nat
  image : List (Nat × List Byte)
  fault : Option TrapInfo
deriving DecidableEq, Repr

/-- A matrix-engine entry (R64): its issuer, operation, issue cycle and the FOV in force at issue. After its start it
holds the fault it met, its bank accesses, flags and digest, the messages it has still to inject from `nextInj` on, and the tiles and
latches that it changed as they stood before and after. -/
structure EngEntry where
  id : Nat
  t : TId
  uid : Nat
  op : EngOp
  issued : Nat
  fov : Bool
  launch : BitVec 16
  fillA : Option Fill
  fillB : Option Fill
  fault : Option TrapInfo
  beats : List Beat
  flags : BitVec 5
  msgs : List FurrowMsg
  nextInj : Nat
  value : Word
  started : Option Nat
  undoTiles : List (Nat × Tile × Tile)
  undoLatches : List (Nat × Option Latch × Option Latch)
deriving DecidableEq, Repr

/-- The matrix engine: waiting entries in queue order, started entries, and the times R64 reads. -/
structure Engine where
  queue : List EngEntry
  active : List EngEntry
  freeAt : Nat
  latchFree : Vector Nat 4
deriving DecidableEq, Repr

/-- A line of a core's line buffer (R38, R69). -/
structure LineEnt where
  root : Nat
  va : Word
  data : Line
  lastUse : Nat
deriving DecidableEq, Repr

/-- A cached translation (R381): tag, page size in address bits, the leaf, and for AP=01 nothing more (the peer TLB holds
the peer's answer). -/
structure TlbEnt where
  root : Nat
  vpn : Nat
  bits : Nat
  leaf : Word
  level : Nat
  lastUse : Nat
deriving DecidableEq, Repr

/-- A frame in the deque (R290): unready, or ready from a cycle on. -/
structure DqEnt where
  f : Frame
  ready : Option Nat
deriving DecidableEq, Repr

/-- A core's progress through a launch's move list (R331-R333). -/
structure MoveSt where
  launch : BitVec 16
  used : Nat
  count : Nat
  diverged : Bool
  since : Nat
  stopRec : Bool
deriving DecidableEq, Repr

/-- A k register: its visible value and the writes not yet visible, oldest first (R58, R145). -/
structure KReg where
  val : Word
  pend : List (Nat × Word)
deriving DecidableEq, Repr

/-- A forwarding entry of MIGRATE (R328), taken as the context is sent: the thread, the near loads still outstanding, and whether the
thread has gone. -/
structure Forward where
  uid : Nat
  ops : List Nat
  gone : Bool
deriving DecidableEq, Repr

/-- A word in a channel's queue: the cycle from which it is readable, and the writer's earlier near accesses that must
have completed (R238). -/
structure ChWord where
  at_ : Nat
  after : List Nat
  val : Word
deriving DecidableEq, Repr

/-- One core. -/
structure Core where
  slots : List (Nat × Slot)
  k : Vector KReg 8
  tiles : List (Nat × Tile)
  latches : Vector (Option Latch) 4       -- A0, A1, B0, B1
  engine : Engine
  lines : List LineEnt
  lineReqs : List (Nat × Word)            -- (slot, line address) requested from the fetch port
  tlb : List TlbEnt
  deque : List DqEnt                      -- newest first
  spawnCounts : List (Nat × Nat)          -- launch id ↦ next SEQ
  dqspill : Word
  spilling : List DqEnt
  refilling : Bool
  probePtr : Nat
  probeOut : Option Nat
  claim : Option (Frame × Nat × Nat)      -- frame, cycle landed, victim
  slotQ : List (Nat × List ChWord)        -- slot × 8 + channel ↦ words, oldest first
  inQ : List (Nat × List ChWord)          -- direction × 8 + channel ↦ words
  forwards : List Forward
  moves : List MoveSt
  nredK : List (Nat × Nat)
  dgchkK : List (Nat × Nat)
  retired : Bool
  dqPush : Nat                            -- the cycle after the last push, and after the last removal (R290)
  dqPop : Nat
  chPush : Nat                            -- the cycle after the last channel push, and after the last pop (R238)
  chPop : Nat
deriving DecidableEq, Repr

/-! ### Clusters -/

/-- Bank modes (R148) and OFF (R249). -/
inductive BankMode where | cache | scratch | watch | fifo | shadow | off
deriving DecidableEq, Repr

/-- What a request at a bank's port does when the bank serves it (R68): a near or aperture access; a piece of the access `id`
that reaches several banks, or one bank several times (R173); reads of an operand fill and cells of an ACCST or ACCLD of the
engine entry `id` (R117, R126); the read of a copy's record (R338), and a read or write of a beat of the copy of a cluster (R363);
the read of one block of a DIGEST.N's buffer (R352). -/
inductive PortAct where
  | req (q : MemReq)
  | piece (q : MemReq)
  | fill (id : Nat) (sideB : Bool) (rs : List (Nat × Nat))
  | beat (id : Nat) (cells : List Nat)
  | copyRecord (token : BitVec 16)
  | copyRead (g : Nat) (token : BitVec 16) (beat : Nat)
  | copyWrite (g : Nat) (token : BitVec 16) (beat : Nat)
  | block (t : TId) (uid n : Nat)
deriving DecidableEq, Repr

/-- A request in a bank port's queue (R68, R117): the bank, the port (cores 0-15, copy engines 16 and 17, the message fabric 18),
the cycle from which it is presented, and that of its instruction's issue. None: an engine's access, which has its place from the
issue of its instruction on and is presented when its fill or entry has started. -/
structure PortReq where
  bank : Nat
  port : Nat
  at_ : Option Nat
  issued : Nat
  act : PortAct
deriving DecidableEq, Repr

/-- One bank-map entry, its hold (R255), the group that watches it, on its own die where it is a die group (R278), and the first cycle in
which it may serve a request again (R68). -/
structure Bank where
  mode : BankMode
  slot : Nat
  held : Option Nat            -- completion cycle
  waitStart : Option (TId × BankMode × Nat)   -- a BANKCFG not yet started
  watch : Word
  served : Nat
deriving DecidableEq, Repr

/-- A line of the cluster cache (R262, R272), in the way of bank `way`. -/
structure CacheLine where
  place : Place
  way : Nat
  data : Line
  dirty : BitVec 64
  lastUse : Nat
deriving DecidableEq, Repr

/-- An operation waiting at a home (R224): in the table, or refused and resent. -/
structure Waiter where
  q : MemReq
  arrived : Nat
  refusedAt : Option Nat
deriving DecidableEq, Repr

/-- A token-table entry (R336, R340): state code, fault (kind, cause, address) and digest. -/
structure TokenEnt where
  token : BitVec 16
  state : Nat
  fault : Option (Nat × BitVec 8 × Word)
  digest : Word
deriving DecidableEq, Repr

/-- A beat of a copy (R363): its number, the elements it moves, its places, the cycle in which its read was issued and that at
which its destination's translation is settled, the reads or writes that banks have still to serve, the bytes to write once the
source has been read, and the refusal of its read. -/
structure CopyBeat where
  n : Nat
  first : Nat
  count : Nat
  src : List (Place × Nat)
  dst : List (Place × Nat)
  issued : Nat
  dstAt : Nat
  left : Nat
  data : List Byte
  bad : Option (BitVec 8 × Word)
deriving DecidableEq, Repr

/-- A page that a copy has looked up (R363, R365): its number in units of its size, whether it is a destination and whether its
twin is meant, the cycle from which the translation is settled, its leaf with the peer's export entry, or its refusal, whether the
TLBs have it, and whether it stands for the record or the completion word, whose translation the payload does not use. -/
structure CopyPage where
  vpn : Nat
  bits : Nat
  write : Bool
  twin : Bool
  at_ : Nat
  leaf : Word
  level : Nat
  export_ : Word
  refused : Option (BitVec 8)
  filled : Bool
  fillOnly : Bool
deriving DecidableEq, Repr

/-- A fault of a copy (R339, R367): the beat, KIND, cause and address. -/
structure CopyFlt where
  beat : Nat
  kind : Nat
  cause : BitVec 8
  addr : Word
deriving DecidableEq, Repr

/-- A copy in the queue or in an engine (R338, R363). `op` is the operation its cp counts (0 for a launch's own copy), `arrived` says
that its record has arrived, `back` that the cluster's dirty lines have been written back for it and `ready` when that is
acknowledged, `cycle` that of its next read. A beat is in `reads` until its data has returned, `waiting` names those whose data has
and whose write is not issued, and `sent` holds those whose write a bank has still to serve. `wrote` are the destination bytes
written at global homes, `aux` the translation of the completion word or tag, and `endAt` the cycle at which the copy ends but for
its digest. -/
structure CopyEnt where
  token : BitVec 16
  t : TId
  op : Nat
  root : Nat
  launch : BitVec 16
  addr : Word
  near : Bool
  shape : Option Line
  arrived : Bool
  back : Bool
  sb : Option Word
  db : Option Word
  sh : Bool
  before : List Nat
  ready : Nat
  engine : Option Nat
  cycle : Nat
  beat : Nat
  elem : Nat
  reads : List CopyBeat
  waiting : List Nat
  sent : List CopyBeat
  pages : List CopyPage
  aux : Option (Nat × Option Place × BitVec 8)
  wrote : List (Place × Nat)
  lastAck : Nat
  endAt : Nat
  cancelled : Bool
  ending : Bool
  fault : Option CopyFlt
  bytes : List (Nat × List Byte)
  digest : Word
deriving DecidableEq, Repr

/-- A peer-TLB entry (R381, R384): its root, package and window frame, the peer's export entry, and the 64 KiB pages that it has
translated (R106). `dead` marks one that an invalidation has dropped, kept until the accesses that it translated are complete (R385). -/
structure PeerTlbEnt where
  root : Nat
  pkg : Nat
  frame : Nat
  entry : Word
  pages : List Nat
  lastUse : Nat
  dead : Bool
deriving DecidableEq, Repr

/-- One cluster. -/
structure Cluster where
  banks : Vector Bank 32
  ports : List PortReq          -- in the order in which they took their places
  fifo : List (Nat × List ChWord)
  full : List Nat               -- bank × 16384 + word, of words whose state bit is full
  waiters : List Waiter
  shadow : List (Nat × BitVec 21)   -- bank × 12288 + granule
  cache : List CacheLine
  tlb : List TlbEnt
  peerTlb : List PeerTlbEnt
  nextToken : Nat
  tokens : List (Nat × TokenEnt)    -- token mod 1024
  copies : List CopyEnt             -- queue order
  engFree : List (Nat × Nat)        -- copy engine ↦ cycle from which it is free
deriving DecidableEq, Repr

/-! ### Package-wide units -/

/-- A member of a barrier group (R234, R281). -/
structure Member where
  uid : Nat
  phase : BitVec 32
  completed : BitVec 32
  recorded : BitVec 32
deriving DecidableEq, Repr

/-- A barrier group (R234): its members, the sweeps that its watch homes have not finished, oldest first (R281, R282), and the completions reported to waiters or on their
way (R236). -/
structure Group where
  pg : Bool
  die : Nat
  g : Nat
  members : List Member
  swept : BitVec 32
  sweeping : List (HomeId × BitVec 32)
  announced : BitVec 32
  reported : BitVec 32
  reports : List (Nat × BitVec 32)
deriving DecidableEq, Repr

/-- A byte-ring record that the launch unit has taken and that is not complete (R414): its queue and ring offset, its
bytes, and for a COND the word as it stood when the record was taken (R417); `taken` is that cycle. For a PREEMPT that names
slots, `uids` are the threads that stood there (R321). -/
structure TakenRec where
  rid : Nat
  queue : Nat
  offset : Nat
  bytes : List Byte
  seen : Word
  taken : Nat
  uids : List Nat
deriving DecidableEq, Repr

/-- The fields of a LAUNCH record (R146-R148). -/
structure LaunchRec where
  entry : Word
  ext : Vector Nat 4
  tile : Vector Nat 4
  dieLo : Nat
  dieHi : Nat
  clLo : Nat
  clHi : Nat
  posLo : Nat
  posHi : Nat
  nthreads : Nat
  nstages : Nat
  stages : Vector Nat 7
  queue : Nat
  flags : Byte
  preload : Word
  writeback : Word
  npre : Nat
  nwb : Nat
  watch : BitVec 16
  doneAddr : Word
  doneVal : Word
  seed : Word
  step : BitVec 32
  moveList : Word
  bankMap : Vector Byte 32
  nearImg : Word
  nearLen : Nat
  ckptTab : Word
  args : Vector Word 8
deriving DecidableEq, Repr

/-- The stage each cluster of a launch has reached (R155). While copies run: the next shape's index, and the index and token of
each copy that has not settled. -/
inductive ClPhase where
  | waitMap | mapped
  | preloading (next : Nat) (out : List (Nat × Nat)) | preloaded
  | writing (next : Nat) (out : List (Nat × Nat)) | written
deriving DecidableEq, Repr

/-- A launch that the launch unit has accepted and that is not complete (R155, R157). `starts` gives, for a die, the cycle from
which its next core may start. -/
structure Launch where
  lid : Nat
  rid : Nat
  queue : Nat
  id : BitVec 16
  lrec : LaunchRec
  clusters : List (Nat × ClPhase)
  startedCores : List Nat
  starts : List (Nat × Nat)
  waiting : Bool
  ended : Bool
  threadsDone : Bool
deriving DecidableEq, Repr

/-- A saved thread (R323-R327) with the hidden state its image does not hold. -/
structure Saved where
  uid : Nat
  queue : Nat
  thread : Thread
  home : TId
  ckent : BitVec 16
  vec : Bool
  cpAt : Nat
  frwait : Bool
  tiles : List (Nat × Tile)
  ranges : List (Nat × List Byte × List Bool)
  image : Nat
  length : Nat
  held : Bool
  doneAt : Nat
deriving DecidableEq, Repr

/-- A notification waiting for room in its ring (R421, R422). -/
structure Note where
  kind : Byte
  body : List Byte
deriving DecidableEq, Repr

/-- A host queue: its descriptor (R410), launch count (R154), the launch unit's CONS and its taken records (R413, R414). -/
structure Queue where
  ring : Word
  root : Word
  savepool : Word
  savelen : Nat
  deadline : Nat
  weight : Nat
  cls : Nat
  enable : Bool
  eschold : Bool
  disabling : Bool
  msix : Byte
  notify : Word
  stopped : Bool
  err : Byte
  detail : BitVec 16
  offset : BitVec 32
  cons : Nat
  prod : Nat
  launches : Nat
  skip : Nat
  notes : List Note
  msixRaised : Nat
  poolUsed : List (Nat × Nat)
deriving DecidableEq, Repr

/-- A flit in flight (R387, R388): its plane, the router it stands at, the port it arrived on, the cycle at which that
router ranks it, and the event its ejection delivers. Ports: 0 N, 1 E, 2 S, 3 W, 4 local injection. -/
structure Flit where
  id : Nat
  reply : Bool
  hdr : FlitHdr
  router : Nat
  inPort : Nat
  readyAt : Nat
  waiting : Nat
  deliver : Instr
  delay : Nat
deriving DecidableEq, Repr

/-- A transfer waiting at a die boundary or the host link (R261, R264). -/
structure Transfer where
  at_ : Nat × Nat
  ready : Nat
  path : List Nat
  src : Nat
  then_ : Instr
  delay : Nat
deriving DecidableEq, Repr

/-- What an HBM channel serves: a thread's request, or a host access to one 64-byte range, with no bytes for a read (R266). -/
inductive ChanAct where
  | req (q : MemReq)
  | host (addr : Nat) (data : List Byte)
deriving DecidableEq, Repr

/-- A request queued at an HBM channel (R260). -/
structure ChanReq where
  ch : Nat
  act : ChanAct
  arrived : Nat
deriving DecidableEq, Repr

/-- What a target unit remembers of one source thread (R392): the last parked id with its reply, and the phases last applied.
DEDUCED: since a thread's bits count across units (R391), an id is a request's own: beside its bit or phase the unit keeps the
request's number (`lastParked`'s second part, `applied` by tag), so that only a resend equals it. -/
structure UnitEnt where
  unit : HomeId
  src : TId
  lastParked : Option (Bool × Nat × ReplyData)
  phases : BitVec 63
  applied : List (Nat × Nat)
  lastUse : Nat
deriving DecidableEq, Repr

/-- A peer package as its pages are seen from here: memory, export table and full/empty words (R223, R383, R384). -/
structure Peer where
  mem : List Host.Cell
  exports : List (Nat × Word)
  full : List Nat
deriving DecidableEq, Repr

/-- An external link's direction (R398). -/
structure LinkDir where
  key : Option (BitVec 256)
  counter : Nat
  failures : Nat
  down : Bool
deriving DecidableEq, Repr

/-- One reduction or digest round in flight at the root (R349, R350, R403, R404). -/
structure Round where
  group : Nat
  round : BitVec 20
  digest : Bool
  arrivals : List NredMsg
  digests : List (Nat × Word × Nat)
deriving DecidableEq, Repr

/-- A member that has issued a round and whose result is not delivered (R397). -/
structure InFlight where
  group : Nat
  round : Nat
  digest : Bool
  t : TId
  uid : Nat
  launch : BitVec 16
  tag : BitVec 8
deriving DecidableEq, Repr

/-- A message sent to another package: the cycle, the external port (R394), the package, and the event there. -/
structure Egress where
  at_ : Nat
  port : Nat
  pkg : Nat
  ev : Instr
deriving DecidableEq, Repr

/-- Boot and mailbox state (R427-R430). -/
structure Boot where
  imageLen : Option Nat
  image : List (Nat × Byte)
  step : Nat
  ready : Bool
  attest : Bool
  degraded : Bool
  fail : Nat
  diesok : BitVec 8
  bootcnt : Nat
  evlost : Nat
  leafUsed : Nat
  measLog : List (Nat × List Byte)
  logRing : Word
  mailbox : Nat
  busy : Bool
deriving DecidableEq, Repr

/-- Power state (R431-R434). -/
structure Power where
  cap : Nat
  force : Bool
  fGate : Nat
  fMduty : Nat
  gate : Nat
  mduty : Nat
  thermal : Bool
  power : Nat
  temp : Nat
  icore : Nat
deriving DecidableEq, Repr

/-- Trust-domain state (R396-R400). -/
structure Trust where
  session : Bool
  handshake : Bool                  -- KEY_EXCHANGE answered, FINISH not yet
  answer : Nat                      -- the responder's last answer: 0 none, 1 a response, 2 Busy, 3 an error
  key : Option (BitVec 256 × BitVec 16)
  sealCnt : Nat
  links : List (Nat × LinkDir)      -- port × 2 + direction (1 = transmit)
  groups : List (Nat × Line)        -- the dies' copies of the group table
  members : List (Nat × List (Nat × Nat))   -- group ↦ this package's members, (core, member index)
  groupAddr : Nat
  rounds : List Round
  inflight : List InFlight
deriving DecidableEq, Repr

/-- A unit under self-test or retired (R436, R437). -/
structure UnitTest where
  u : UnitKind
  die : Nat
  cluster : Nat
  index : Nat
  busyUntil : Nat
  postponed : Bool
  syndrome : Word
deriving DecidableEq, Repr

/-- Who waits for a digest (R352): a thread, an engine's entry, or a copy. -/
inductive ShaWho where
  | thread (uid : Nat)
  | entry (core id : Nat)
  | copy (g : Nat) (token : BitVec 16)
deriving DecidableEq, Repr

/-- A request in the queue of a die's SHA-256 engine (R352): its cluster, the cycle in which it joined, and its blocks. -/
structure ShaReq where
  die : Nat
  cluster : Nat
  joined : Nat
  blocks : Nat
  who : ShaWho
deriving DecidableEq, Repr

/-- A holder record of the translation agent (R384, R385). -/
structure Holder where
  pkg : Nat
  cluster : Nat
  frame : Nat
  granted : Nat
deriving DecidableEq, Repr

/-- A pair's second instruction reads the registers as they stood before the pair (R24), also when it parks and continues
at its wake. -/
structure PairView where
  t : TId
  old : Thread
deriving DecidableEq, Repr

/-- A walk in progress or waiting for a walker (R380): its die, completion, root and 64 KiB page. -/
structure Walk where
  die : Nat
  done : Nat
  root : Nat
  page : Nat
deriving DecidableEq, Repr

/-- An escalation that is not yet written to its notification ring (R422, R423). -/
structure Escal where
  t : TId
  uid : Nat
  cycle : Nat
  pc : Word
  ti : TrapInfo
  launch : BitVec 16
deriving DecidableEq, Repr

/-- The pages that a PUBLISH.G holds at translation (R346). -/
structure PageHold where
  uid : Nat
  root : Nat
  lo : Nat
  hi : Nat
deriving DecidableEq, Repr

/-- The package. `now` is the cycle number t of R57; `cur` the thread whose instruction exec runs; `agenda` the events due
at later cycles in the order they were laid down; `scan` the next core to be offered the current cycle; `resume` an
instruction that continues at its wake; `draw` counts the free values drawn. -/
structure State where
  now : Nat
  cur : TId
  views : List PairView
  resume : Option (TId × Instr)
  agenda : List (Nat × Instr)
  scan : Nat
  draw : Nat
  nextUid : Nat
  nextId : Nat
  pkg : Nat
  cores : List (Nat × Core)
  clusters : List (Nat × Cluster)
  groups : List Group
  hbm : List Host.Cell
  sram : List Host.Cell
  host : List Host.Cell
  peers : List (Nat × Peer)
  homeWaiters : List Waiter
  wtGroup : Option (Word × Nat)      -- WATCH bits, and the die of a die group
  wtShadow : List (Nat × BitVec 21)
  queues : List (Nat × Queue)
  ops : List Op
  gathers : List Gather
  held : List HeldOp
  taken : List TakenRec
  launches : List Launch
  saved : List Saved
  flits : List Flit
  starved : Option Nat
  bridges : List Transfer
  hostLink : List Transfer
  channels : List ChanReq
  units : List UnitEnt
  walks : List Walk
  escal : List Escal
  pageHolds : List PageHold
  shaQ : List ShaReq
  shaFree : List (Nat × Nat)         -- die ↦ cycle at which its SHA-256 engine is free
  exportTable : Word
  holders : List Holder
  inval : Option (Nat × Nat)         -- the frame range of the AGENT_INVAL in progress (R412)
  outbox : List Egress               -- messages sent to peers' agents (R384, R385)
  boot : Boot
  power : Power
  trust : Trust
  tests : List UnitTest
  spared : List Nat
  spares : List (Nat × Nat)          -- HBM channel ↦ spare rows in use (R436)
  sramErr : List Nat                 -- SRAM words of 8 bytes, and HBM lines of 64, that read with an uncorrectable error (R405)
  hbmErr : List Nat
deriving DecidableEq, Repr

/-! ### Faults and refusals -/

/-- Why the machine stops. -/
inductive Fault where
  /-- Raised by every meaning of an instruction (not an event) when the current slot holds no thread. The step never
  issues from such a slot, so no run raises it. Safe. -/
  | noThread
deriving DecidableEq, Repr

/-- Why a step has no meaning in this model. -/
inductive Refusal where
  /-- An instruction whose meaning is not written; raised by no meaning. Safe. -/
  | notModelled (mnemonic : String)
deriving DecidableEq, Repr

/-! ### Reset values -/

/-- A status file at thread start (R101), before the launch sets seed, step, watch and ckpt. -/
def scrReset : ScrFile :=
  ⟨0, 0, 0, 0, 0, 0, 0, 0, 0, 0, 0, 0, 0, 0⟩

/-- A thread at its start (R153), before its launch or frame sets its place. -/
def threadReset : Thread :=
  { uid := 0, pc := 0, checked := true, g := Vector.replicate 16 0, w := Vector.replicate 48 0, lower := [], depth := 0
    v := Vector.replicate 32 0, fmt := Vector.replicate 8 0, m := Vector.replicate 8 0, p := Vector.replicate 8 false
    absent := [], ch := Vector.replicate 8 ⟨.none, 0⟩, scr := scrReset, org := Vector.replicate 4 0
    ext := Vector.replicate 4 0, stage := 0, launch := 0, ld := 0, st := 0, cp := 0, tl := 0, turns := 0, forfeit := 0
    park := none, waited := 0, deferred := []
    joinAddr := 0, inlines := [], mate := none, saveDue := none, stopped := none, barArr := none, fetchFault := none
    release := none, cont := 0, ready := 0, latch := none, pops := [], refetch := false }

/-- A slot at core reset (R314): Free, owner 0. -/
def slotReset : Slot := ⟨0, .free, 0, false, 0, []⟩

/-- A tile at core reset (R109, R184). -/
def tileReset : Tile := ⟨[], 0, 0, 0, 0, none, []⟩

/-- A cell at core reset (R109). -/
def cellReset : Cell := ⟨0, .fin⟩

/-- The matrix engine at core reset. -/
def engineReset : Engine := ⟨[], [], 0, Vector.replicate 4 0⟩

/-- A core at reset (R109, R115, R145, R237, R314). -/
def coreReset : Core :=
  { slots := [], k := Vector.replicate 8 ⟨0, []⟩, tiles := [], latches := Vector.replicate 4 none, engine := engineReset
    lines := [], lineReqs := [], tlb := [], deque := [], spawnCounts := [], dqspill := 0, spilling := []
    refilling := false, probePtr := 0, probeOut := none, claim := none, slotQ := [], inQ := [], forwards := []
    moves := [], nredK := [], dgchkK := [], retired := false, dqPush := 0, dqPop := 0
    chPush := 0, chPop := 0 }

/-- A bank at device reset (R249): CACHE, slot 0. -/
def bankReset : Bank := ⟨.cache, 0, none, none, 0, 0⟩

/-- A cluster at device reset (R249, R336). -/
def clusterReset : Cluster :=
  { banks := Vector.replicate 32 bankReset, ports := [], fifo := [], full := [], waiters := [], shadow := [], cache := [], tlb := []
    peerTlb := [], nextToken := 1, tokens := [], copies := [], engFree := [] }

/-- A queue descriptor at reset (R410, R154). -/
def queueReset : Queue :=
  { ring := 0, root := 0, savepool := 0, savelen := 0, deadline := 262144, weight := 1, cls := 0, enable := false
    eschold := false, disabling := false, msix := 0, notify := 0, stopped := false, err := 0, detail := 0, offset := 0
    cons := 0, prod := 0, launches := 0, skip := 0, notes := [], msixRaised := 0, poolUsed := [] }

/-- A link direction before its key is installed (R398). -/
def linkReset : LinkDir := ⟨none, 0, 0, false⟩

/-- Boot state at reset (R430). -/
def bootReset : Boot :=
  { imageLen := none, image := [], step := 0, ready := false, attest := false, degraded := false, fail := 0, diesok := 0
    bootcnt := 0, evlost := 0, leafUsed := 0, measLog := [], logRing := 0, mailbox := 0, busy := false }

/-- Power state at reset (R433). -/
def powerReset : Power := ⟨4500, false, 0, 0, 0, 0, false, 0, 0, 0⟩

/-- Trust state at reset (R396-R400): no session, no key, no link key, no group. -/
def trustReset : Trust := ⟨false, false, 0, none, 0, [], [], [], 0, [], []⟩

/-- The package right after reset: no thread, every bank CACHE, every queue disabled, boot step 0. -/
def State.reset : State :=
  { now := 0, cur := ⟨0, 1⟩, views := [], resume := none, agenda := [], scan := 0, draw := 0, nextUid := 1, nextId := 1
    pkg := 0, cores := [], clusters := [], groups := [], hbm := [], sram := [], host := [], peers := []
    homeWaiters := [], wtGroup := none, wtShadow := [], queues := [], ops := [], gathers := [], held := [], taken := [], launches := [], saved := []
    flits := [], starved := none, bridges := [], hostLink := [], channels := [], units := [], walks := [], escal := [], pageHolds := []
    shaQ := [], shaFree := [], exportTable := 0, holders := [], inval := none, outbox := [], boot := bootReset, power := powerReset, trust := trustReset
    tests := [], spared := [], spares := [], sramErr := [], hbmErr := [] }

end Sys2Proof.Machine
end

