-- ==== Sys2Proof/Machine/Ops.lean ====
section
/-! DEFINITION. The named operations over the state: sparse maps, memory in its canonical form, the places of the package,
threads and their registers, the agenda, taking and leaving a trap, parking, and outstanding operations. -/
namespace Sys2Proof.Machine
open Sys2Proof

/-- What a meaning answers. -/
abbrev Out := Host.Outcome State Fault Refusal

/-! ### Sparse maps -/

/-- The entry at a key. -/
def look {α : Type} (k : Nat) : List (Nat × α) → Option α
  | [] => none
  | (i, v) :: r => if i = k then some v else look k r

/-- Sets the entry at a key; the keys stay in rising order. -/
def put {α : Type} (k : Nat) (v : α) : List (Nat × α) → List (Nat × α)
  | [] => [(k, v)]
  | (i, w) :: r => if k < i then (k, v) :: (i, w) :: r else if i = k then (k, v) :: r else (i, w) :: put k v r

/-- Removes a key. -/
def del {α : Type} (k : Nat) (l : List (Nat × α)) : List (Nat × α) := l.filter (fun x => x.1 != k)

/-! ### Memory (R16: little-endian bytes; an unlisted byte reads as 0) -/

/-- One byte of memory. -/
def memGet : List Host.Cell → Nat → Byte
  | [], _ => 0
  | (i, b) :: r, a => if i = a then b else memGet r a

/-- Writes one byte; a zero byte is not listed. -/
def memPut (m : List Host.Cell) (a : Nat) (b : Byte) : List Host.Cell := if b = 0 then del a m else put a b m

/-- Every listed address is above `lo` and rising, and no listed byte is 0. -/
def memSorted : Nat → List Host.Cell → Bool
  | _, [] => true
  | lo, (a, b) :: r => decide (lo ≤ a) && b != 0 && memSorted (a + 1) r

/-- The canonical form of a memory. -/
def Memory.wf (m : List Host.Cell) : Bool := memSorted 0 m

/-- The `n` bytes from an address. -/
def memBytes (m : List Host.Cell) (a : Nat) : Nat → List Byte
  | 0 => []
  | n + 1 => memGet m a :: memBytes m (a + 1) n

/-- Writes bytes at rising addresses. -/
def memPutBytes (m : List Host.Cell) (a : Nat) : List Byte → List Host.Cell
  | [] => m
  | b :: r => memPutBytes (memPut m a b) (a + 1) r

/-- A word of up to 8 bytes. -/
def wordLE (bs : List Byte) : Word := BitVec.ofNat 64 (ofBytesLE bs)

/-- The low `n` bytes of a word. -/
def leBytes (n : Nat) (v : Word) : List Byte := bytesLE v.toNat n

/-! ### Places of the package (R3-R6) -/

def clusterOf (core : Nat) : Nat := core / 16
def dieOf (core : Nat) : Nat := core / 256
def posOf (core : Nat) : Nat := core % 16

/-- Distance between two dies on the 4 × 2 grid (R62). -/
def dieDist (a b : Nat) : Nat := (max (a % 4) (b % 4) - min (a % 4) (b % 4)) + (max (a / 4) (b / 4) - min (a / 4) (b / 4))

/-- A cluster's router (R6). -/
def routerX (g : Nat) : Nat := (g / 16) % 4 * 4 + g % 16 % 4
def routerY (g : Nat) : Nat := (g / 16) / 4 * 4 + g % 16 / 4
def routerOf (g : Nat) : Nat := routerY g * 16 + routerX g

/-- Distance around a ring of `n`. -/
def ringDist (a b n : Nat) : Nat := let x := max a b - min a b; min x (n - x)

/-- Shortest torus hops between two clusters' routers (R62). -/
def hops (g1 g2 : Nat) : Nat := ringDist (routerX g1) (routerX g2) 16 + ringDist (routerY g1) (routerY g2) 8

/-- The die of an HBM address (R259): two stacks of 2^36 bytes per die. -/
def hbmDie (a : Nat) : Nat := a / 2 ^ 37

/-- The base-die unit of an HBM address (R259): stack × 32 + channel. -/
def hbmUnit (a : Nat) : Nat := a / 2 ^ 36 * 32 + a / 256 % 32

/-- The time of a far access from a cluster (R62). -/
def farTime (g : Nat) (p : Place) (atomic : Bool) : Nat :=
  let x := if atomic then 8 else 0
  match p with
  | .hbm a => 420 + 60 * dieDist (g / 16) (hbmDie a) + x
  | .near g' _ => 48 + 4 * hops g g' + x / 2
  | .host _ => 2200 + x
  | .peer _ _ => 3000 + x

/-! ### Cores, clusters, threads -/

def coreAt (s : State) (c : Nat) : Core := (look c s.cores).getD coreReset
def setCore (s : State) (c : Nat) (k : Core) : State := { s with cores := put c k s.cores }
def modCore (s : State) (c : Nat) (f : Core → Core) : State := setCore s c (f (coreAt s c))
def clusterAt (s : State) (g : Nat) : Cluster := (look g s.clusters).getD clusterReset
def setCluster (s : State) (g : Nat) (k : Cluster) : State := { s with clusters := put g k s.clusters }
def modCluster (s : State) (g : Nat) (f : Cluster → Cluster) : State := setCluster s g (f (clusterAt s g))
def slotAt (k : Core) (n : Nat) : Slot := (look n k.slots).getD slotReset
def setSlot (k : Core) (n : Nat) (x : Slot) : Core := { k with slots := put n x k.slots }
def queueAt (s : State) (q : Nat) : Queue := (look q s.queues).getD queueReset
def setQueue (s : State) (q : Nat) (k : Queue) : State := { s with queues := put q k s.queues }
def modQueue (s : State) (q : Nat) (f : Queue → Queue) : State := setQueue s q (f (queueAt s q))
def tileAt (k : Core) (n : Nat) : Tile := (look n k.tiles).getD tileReset
def setTile (k : Core) (n : Nat) (x : Tile) : Core := { k with tiles := put n x k.tiles }
def cellAt (t : Tile) (n : Nat) : Cell := (look n t.cells).getD cellReset

/-- The thread in a slot. -/
def threadIn (x : Slot) : Option Thread :=
  match x.occ with
  | .busy th => some th
  | _ => none
def thread? (s : State) (t : TId) : Option Thread := threadIn (slotAt (coreAt s t.core) t.slot)

/-- Puts a thread into a slot, whose owner field stays. -/
def setThread (s : State) (t : TId) (th : Thread) : State :=
  let k := coreAt s t.core
  setCore s t.core (setSlot k t.slot { slotAt k t.slot with occ := .busy th })

/-- Changes the thread in a slot, if there is one. -/
def modThread (s : State) (t : TId) (f : Thread → Thread) : State :=
  match thread? s t with
  | none => s
  | some th => setThread s t (f th)

/-- The threads of a core, with their slots, lowest slot first. -/
def coreThreads (c : Nat) (k : Core) : List (TId × Thread) :=
  k.slots.filterMap (fun x => (threadIn x.2).map (fun th => (⟨c, x.1⟩, th)))

/-- Every thread of the package, in core and slot order. -/
def allThreads (s : State) : List (TId × Thread) := s.cores.flatMap (fun x => coreThreads x.1 x.2)

/-- Where the thread of an identity now is. -/
def findUid (s : State) (uid : Nat) : Option (TId × Thread) := (allThreads s).find? (fun x => x.2.uid = uid)

/-- A program thread of slots 1-15 occupies the core (R145). -/
def hasProgram (k : Core) : Bool := k.slots.any (fun x => x.1 != 0 && (threadIn x.2).isSome)

/-- The queue of a launch id (R153). -/
def queueOfLaunch (l : BitVec 16) : Nat := l.toNat / 1024

/-! ### Registers (R33, R72, R145) -/

/-- A k register's value as the current cycle sees it (R58). -/
def kVal (now : Nat) (k : KReg) : Word := k.pend.foldl (fun v x => if x.1 ≤ now then x.2 else v) k.val

/-- A k write becomes visible 8 cycles after its issue (R145). -/
def kWrite (now : Nat) (k : KReg) (v : Word) : KReg :=
  ⟨kVal now k, k.pend.filter (fun x => now < x.1) ++ [(now + 8, v)]⟩

/-- The k result of an instruction that has parked is seen from its wake on (R61); writes issued since then follow (R145). -/
def kWake (now : Nat) (k : KReg) (v : Word) : KReg := ⟨v, k.pend.filter (fun x => now < x.1)⟩

/-- The identity registers (R33, R153). -/
def identVal (s : State) (t : TId) (th : Thread) (n : Nat) : Word :=
  if n < 4 then th.org.toList.getD n 0
  else if n < 8 then th.ext.toList.getD (n - 4) 0
  else BitVec.ofNat 64 (match n with
    | 8 => t.core | 9 => posOf t.core | 10 => clusterOf t.core % 16 | 11 => dieOf t.core | 12 => s.pkg
    | 13 => th.stage | 14 => t.slot | _ => th.launch.toNat)

/-- A scalar, mask or predicate register as 64 bits (R72). Channels are popped by the operand reader. -/
def readReg (s : State) (t : TId) (th : Thread) : Reg → Word
  | .g n => if n = 0 then 0 else th.g[n]
  | .w n => th.w[n]
  | .k n => kVal s.now (coreAt s t.core).k[n]
  | .ident n => identVal s t th n
  | .m n => if n = 0 then BitVec.allOnes 64 else th.m[n]
  | .p n => if n = 0 then 1 else BitVec.ofBool th.p[n] |>.setWidth 64
  | _ => 0

/-- Writes a thread's own register; g0, m0 and p0 lose the write (R35). -/
def writeOwn (th : Thread) (r : Reg) (v : Word) : Thread :=
  match r with
  | .g n => if n = 0 then th else { th with g := th.g.set n v }
  | .w n => { th with w := th.w.set n v }
  | .m n => if n = 0 then th else { th with m := th.m.set n v }
  | .p n => if n = 0 then th else { th with p := th.p.set n (v.getLsbD 0) }
  | _ => th

/-- Writes a register of any kind but a channel. -/
def writeReg (s : State) (t : TId) (r : Reg) (v : Word) : State :=
  match r with
  | .k n => modCore s t.core (fun c => { c with k := c.k.set n (kWrite s.now c.k[n] v) })
  | r => modThread s t (fun th => writeOwn th r v)

/-- The same for an instruction that has parked and completes at its wake (R61). -/
def writeAtWake (s : State) (t : TId) (r : Reg) (v : Word) : State :=
  match r with
  | .k n => modCore s t.core (fun c => { c with k := c.k.set n (kWake s.now c.k[n] v) })
  | r => modThread s t (fun th => writeOwn th r v)

def readV (th : Thread) : Reg → Line
  | .v n => th.v[n]
  | _ => 0
def writeV (th : Thread) (r : Reg) (v : Line) : Thread :=
  match r with
  | .v n => { th with v := th.v.set n v }
  | _ => th
def readFmt (th : Thread) : Reg → BitVec 32
  | .fmt n => th.fmt[n]
  | _ => 0

/-- The predicate of an instruction holds (R32). -/
def predOk (th : Thread) (p : Pred) : Bool := (if p.n = 0 then true else th.p[p.n]) != p.neg

/-- The registers that the running instruction reads: those before its pair, for a pair's second (R24). -/
def viewOf (s : State) (t : TId) (th : Thread) : Thread :=
  match s.views.find? (fun x => x.t = t) with
  | some x => x.old
  | none => th

/-- The absolute name of a register with a presence bit (R88, R143); g0 has none. -/
def regId (th : Thread) : Reg → Option RegId
  | .g n => if n = 0 then none else some (.g n)
  | .w n => some (.w (th.depth * 32 + n))
  | .v n => some (.v n)
  | _ => none

/-- ORs raised flags into scr.fflags (R82). -/
def orFlags (th : Thread) (fl : BitVec 5) : Thread := { th with scr := { th.scr with fflags := th.scr.fflags ||| fl.setWidth 64 } }

/-- The resident-frame count (R88). -/
def nres (th : Thread) : Nat := th.lower.length + 1

/-! ### Channel queues (R237) -/

/-- The neighbour in a direction, 0 N, 1 E, 2 S, 3 W (R237). -/
def neighbour (core dir : Nat) : Option Nat :=
  let p := posOf core
  match dir with
  | 0 => if p / 4 = 0 then none else some (core - 4)
  | 1 => if p % 4 = 3 then none else some (core + 1)
  | 2 => if p / 4 = 3 then none else some (core + 4)
  | _ => if p % 4 = 0 then none else some (core - 1)

/-- Where a channel's words lie: a slot queue or an inbound queue of a core, or a FIFO bank of a cluster. -/
inductive ChQueue where
  | slot (core idx : Nat)
  | inb (core idx : Nat)
  | fifo (g bank : Nat)
deriving DecidableEq, Repr

def fifoBank (cl : Cluster) (slot : Nat) : Option Nat := cl.banks.toList.findIdx? (fun b => b.mode = .fifo && b.slot = slot)

/-- The queue that channel `n` pops, or that it pushes (R237). -/
def chQueue (s : State) (t : TId) (th : Thread) (n : Fin 8) (write : Bool) : Option ChQueue :=
  let b := th.ch[n]
  match b.kind with
  | .none => none
  | .slot => some (.slot t.core ((if write then b.target.toNat else t.slot) * 8 + n))
  | .nbr =>
    if write then (neighbour t.core b.target.toNat).map (fun c => .inb c ((b.target.toNat + 2) % 4 * 8 + n))
    else some (.inb t.core (b.target.toNat * 8 + n))
  | .fifo => (fifoBank (clusterAt s (clusterOf t.core)) b.target.toNat).map (fun k => .fifo (clusterOf t.core) k)

def chWords (s : State) : ChQueue → List ChWord
  | .slot c i => (look i (coreAt s c).slotQ).getD []
  | .inb c i => (look i (coreAt s c).inQ).getD []
  | .fifo g b => (look b (clusterAt s g).fifo).getD []
/-- Sets a queue's words; the inbound queues of a core without a program thread stay empty (R237). -/
def setChWords (s : State) (q : ChQueue) (l : List ChWord) : State :=
  match q with
  | .slot c i => modCore s c (fun k => { k with slotQ := if l = [] then del i k.slotQ else put i l k.slotQ })
  | .inb c i => modCore s c (fun k => { k with inQ := if l = [] || !hasProgram k then del i k.inQ else put i l k.inQ })
  | .fifo g b => modCluster s g (fun k => { k with fifo := if l = [] then del b k.fifo else put b l k.fifo })

/-- Gives back the words that an instruction popped, when it ends in a trap or in a save with no effect. -/
def unpop (s : State) (t : TId) : State :=
  match thread? s t with
  | none => s
  | some th =>
    if th.pops = [] then s
    else
      let s := setThread s t { th with pops := [] }
      th.pops.foldr (fun x s => match chQueue s t th x.1 false with
        | some q => setChWords s q (⟨s.now, [], x.2⟩ :: chWords s q)
        | none => s) s

/-! ### The agenda and the program counter -/

/-- Inserts an event after those of its cycle. -/
def agendaPut : List (Nat × Instr) → Nat → Instr → List (Nat × Instr)
  | [], c, e => [(c, e)]
  | (c', e') :: r, c, e => if c < c' then (c, e) :: (c', e') :: r else (c', e') :: agendaPut r c e

/-- Lays down an event `d` cycles from now. -/
def later (s : State) (d : Nat) (e : Instr) : State := { s with agenda := agendaPut s.agenda (s.now + d) e }

/-- The sequential successor of an instruction (R20). -/
def succPc (pc : Word) : Word := if pc.toNat % 64 = 52 then pc + 16 else pc + 12

/-- The instruction is over and the thread stands at `pc`; `chk` marks a checked target (R21). -/
def finishAt (s : State) (t : TId) (pc : Word) (chk : Bool) : State :=
  let s := { s with views := s.views.filter (fun x => x.t != t) }
  modThread s t (fun th => { th with pc := pc, checked := chk, park := none, cont := 0, release := none, latch := none
                                     pops := [], refetch := false })

/-- The instruction is over; flow continues sequentially (R20). -/
def advance (s : State) (t : TId) : State :=
  match thread? s t with
  | none => s
  | some th => finishAt s t (succPc th.pc) false

/-! ### Traps (R93-R96) -/

/-- Adds a notification to a queue's ring (R421); it is written as the ring has room. -/
def addNote (s : State) (q : Nat) (kind : Byte) (body : List Byte) : State :=
  later (modQueue s q (fun k => { k with notes := k.notes ++ [⟨kind, body⟩] })) 0 (.notificationWrite q)

/-- Escalation (R94): the thread stops in its slot and the steward is handed the cause; its record is written when the
core's collection window ends (R423). -/
def escalate (s : State) (t : TId) (ti : TrapInfo) : State :=
  let s := unpop s t
  match thread? s t with
  | none => s
  | some th =>
    let s := { s with views := s.views.filter (fun x => x.t != t) }
    let s := setThread s t { th with stopped := some ti, park := none, cont := 0, release := none, latch := none, pops := [] }
    let s := { s with escal := s.escal ++ [⟨t, th.uid, s.now, th.pc, ti, th.launch⟩] }
    later s (16 - s.now % 16) (.notificationWrite (queueOfLaunch th.launch))

/-- IN, bit 8 of scr.ecause (R102). -/
def inTrap (th : Thread) : Bool := th.scr.ecause.getLsbD 8

/-- Taking a trap (R93): scr.epc is the instruction's own pc, IN and the cause, address and information are recorded, and
the pc goes to scr.tvec as a checked target; with IN set or no handler, the trap escalates. -/
def trap (s : State) (t : TId) (ti : TrapInfo) : State :=
  let s := unpop s t
  match thread? s t with
  | none => s
  | some th =>
    if inTrap th || th.scr.tvec = 0 then escalate s t ti
    else
      let scr := { th.scr with epc := th.pc, ecause := 256 ||| ti.cause.setWidth 64, eaddr := ti.addr, einfo := ti.info }
      finishAt (setThread s t { th with scr := scr }) t th.scr.tvec true

/-- The return from a trap (R96): the pc goes to `pc`, of which only the offset is checked, and IN is cleared. -/
def trapReturn (s : State) (t : TId) (pc : Word) : State :=
  let s := modThread s t (fun th => { th with scr := { th.scr with ecause := th.scr.ecause &&& 0xFF } })
  finishAt s t pc false

/-- scr.einfo of an illegal instruction (R55). -/
def illegalInfo (op reason field : Nat) : TrapInfo := ⟨0x01, 0, BitVec.ofNat 64 (op + reason * 1024 + field * 16384)⟩
/-- The layout of R132, R187, R307 and R343: OP in [27:18], REASON in [15:12]. -/
def info18 (op reason part low : Nat) : Word := BitVec.ofNat 64 (op * 2 ^ 18 + part * 2 ^ 16 + reason * 2 ^ 12 + low)
/-- Trap 0x14 (R254). -/
def info14 (off : Nat) (mode slot reason op : Nat) : TrapInfo :=
  ⟨0x14, BitVec.ofNat 64 off, BitVec.ofNat 64 (mode * 2 ^ 21 + slot * 2 ^ 16 + reason * 2 ^ 12 + op)⟩
/-- Trap 0x13 (R219). -/
def misaligned (a : Word) (size : Nat) : TrapInfo := ⟨0x13, a, BitVec.ofNat 64 size⟩
/-- DEF: bit 31 of the layouts that have it, bit 28 for cause 0x60. -/
def deferredInfo (ti : TrapInfo) : TrapInfo :=
  if ti.cause = 0x31 || ti.cause = 0x32 || ti.cause = 0x11 || ti.cause = 0x23 || ti.cause = 0x70
  then { ti with info := ti.info ||| 0x80000000 }
  else if ti.cause = 0x60 then { ti with info := ti.info ||| 0x10000000 } else ti

/-! ### Parking (R141) -/

/-- Parks a thread; the instruction `retry` continues when the wake condition holds. The wait count starts at 0. -/
def park (s : State) (t : TId) (why : Why) (retry : Option Instr) : State :=
  modThread s t (fun th => { th with park := some ⟨why, retry, s.now⟩, waited := 0 })

/-- Parks again within one wait: the wait count goes on (R142). -/
def repark (s : State) (t : TId) (why : Why) (retry : Option Instr) : State :=
  modThread s t (fun th => { th with park := some ⟨why, retry, s.now⟩ })

/-- Unparks a thread, which is eligible from the next cycle (R59). -/
def unpark (s : State) (t : TId) : State := modThread s t (fun th => { th with park := none, ready := s.now + 1 })

/-- Holds the operand values that a parking instruction has read, so that its continuation reads them. -/
def keeping (s : State) (vs : List Word) : State := modThread s s.cur (fun th => { th with latch := some vs })

/-- Runs a meaning on the current thread. -/
def onThread (s : State) (f : Thread → State) : Out :=
  match thread? s s.cur with
  | none => .fault .noThread
  | some th => .next (f th)

/-- An instruction whose predicate is false only uses its turn (R32). -/
def guarded (p : Pred) (s : State) (f : Thread → State) : Out :=
  onThread s (fun th => if predOk (viewOf s s.cur th) p then f th else advance s s.cur)

/-! ### Outstanding operations (R63) -/

def addCount (k : OpKind) (th : Thread) : Thread :=
  match k with
  | .ld => { th with ld := th.ld + 1 }
  | .st | .msg => { th with st := th.st + 1 }
  | .cp => { th with cp := th.cp + 1 }
  | .tl => { th with tl := th.tl + 1 }
  | .dec | .part => th
def subCount (k : OpKind) (th : Thread) : Thread :=
  match k with
  | .ld => { th with ld := th.ld - 1 }
  | .st | .msg => { th with st := th.st - 1 }
  | .cp => { th with cp := th.cp - 1 }
  | .tl => { th with tl := th.tl - 1 }
  | .dec | .part => th

/-- Records an operation of the thread and raises its counter. -/
def addOp (s : State) (t : TId) (kind : OpKind) (load : Option PendLoad) : State × Nat :=
  match thread? s t with
  | none => (s, 0)
  | some th =>
    let id := s.nextId
    let s := setThread s t (addCount kind th)
    ({ s with nextId := id + 1, ops := s.ops ++ [⟨id, th.uid, t, th.launch, kind, load, none, none, 0, s.now⟩] }, id)

/-- Changes the thread of an identity, wherever it runs or is saved. -/
def modUid (s : State) (uid : Nat) (f : Thread → Thread) : State :=
  match findUid s uid with
  | some (t, th) => setThread s t (f th)
  | none => { s with saved := s.saved.map (fun x => if x.uid = uid then { x with thread := f x.thread } else x) }

/-- An operation is complete: its counter falls. -/
def endOp (s : State) (id : Nat) : State :=
  match s.ops.find? (fun o => o.id = id) with
  | none => s
  | some o => modUid { s with ops := s.ops.filter (fun x => x.id != id) } o.uid (subCount o.kind)

/-- The layout of an ESCALATION record after its header (R422). -/
def escalBody (t : TId) (cycle : Nat) (pc : Word) (ti : TrapInfo) (launch : BitVec 16) (flags : Nat) : List Byte :=
  leBytes 8 pc ++ leBytes 8 ti.addr ++ leBytes 8 ti.info ++ bytesLE t.core 2 ++ bytesLE t.slot 1 ++ [ti.cause]
    ++ bytesLE launch.toNat 2 ++ bytesLE (cycle % 16) 1 ++ bytesLE flags 1 ++ bytesLE (cycle / 16) 8 ++ bytesLE 0 16

/-- A fault of an operation that no longer has a thread to trap goes to the steward (R158, R421). -/
def noteDeferred (s : State) (t : TId) (launch : BitVec 16) (ti : TrapInfo) : State :=
  addNote s (queueOfLaunch launch) 0x24 (escalBody t s.now 0 ti launch 0)

/-- Defers a fault to the thread's next issue or wake (R131). -/
def deferTo (s : State) (uid : Nat) (t : TId) (launch : BitVec 16) (ti : TrapInfo) : State :=
  match findUid s uid with
  | some (t', th) => setThread s t' { th with deferred := th.deferred ++ [deferredInfo ti] }
  | none =>
    if s.saved.any (fun x => x.uid = uid) then
      { s with saved := s.saved.map (fun x =>
          if x.uid = uid then { x with thread := { x.thread with deferred := x.thread.deferred ++ [deferredInfo ti] } } else x) }
    else noteDeferred s t launch (deferredInfo ti)

/-- The outstanding loads and stores of a thread: those a release waits for (R222). -/
def earlier (s : State) (uid : Nat) : List Nat :=
  (s.ops.filter (fun o => o.uid = uid && (o.kind = .ld || o.kind = .st))).map (fun o => o.id)

/-- Every one of these operations is complete. -/
def allDone (s : State) (ids : List Nat) : Bool := ids.all (fun i => s.ops.all (fun o => o.id != i))

/-- Sets or clears a presence bit (R143). -/
def clearPresence (th : Thread) (r : RegId) : Thread := { th with absent := if r ∈ th.absent then th.absent else r :: th.absent }
def setPresence (th : Thread) (r : RegId) : Thread := { th with absent := th.absent.filter (fun x => x ≠ r) }

end Sys2Proof.Machine
end

