-- ==== Sys2Proof/Machine/Memory.lean ====
section
/-! DEFINITION. The package's memory: near space and its bank map, homes and their bytes, the cluster caches, page walks and
TLBs, and race watch (R219, R220, R249-R263, R278-R285, R376-R384). -/
namespace Sys2Proof.Machine
open Sys2Proof

/-! ### Near space (R249, R250) -/

/-- The bank whose entry satisfies a test, lowest first. -/
def bankWhere (cl : Cluster) (f : Bank → Bool) : Option Nat := cl.banks.toList.findIdx? f

/-- The bank that serves a logical slot (R249). -/
def liveBank (cl : Cluster) (slot : Nat) : Option Nat :=
  bankWhere cl (fun b => b.slot = slot && (b.mode = .scratch || b.mode = .watch || b.mode = .fifo))

/-- The twin of a logical slot (R253). -/
def twinBank (cl : Cluster) (slot : Nat) : Option Nat := bankWhere cl (fun b => b.mode = .shadow && b.slot = slot)

def bankAt (cl : Cluster) (b : Nat) : Bank := cl.banks.toList.getD b bankReset
def modBank (cl : Cluster) (b : Nat) (f : Bank → Bank) : Cluster :=
  if h : b < 32 then { cl with banks := cl.banks.set b (f cl.banks[b]) } else cl

/-- MODE of R148 and R254. -/
def modeCode : BankMode → Nat
  | .cache => 0 | .scratch => 1 | .watch => 2 | .fifo => 3 | .shadow => 4 | .off => 7

/-- Kinds of near access that R250 tells apart: a plain load or store of `n` bytes, and the others, which a FIFO bank refuses
(LDA, STL, vector lanes and frame words among them). -/
inductive NearKind where | data (n : Nat) (write : Bool) | sync | home | engine | copy
deriving DecidableEq, Repr

/-- R250's check of one near byte range that lies in one logical slot: REASON and MODE of trap 0x14, or none. -/
def nearFault (cl : Cluster) (off : Nat) (k : NearKind) : Option (Nat × Nat) :=
  if 2 ^ 22 ≤ off then some (0, 7)
  else match liveBank cl (off / 2 ^ 17) with
    | none => some (1, 7)
    | some b =>
      match (bankAt cl b).mode with
      | .scratch => none
      | .watch => if off % 2 ^ 17 < 0x18000 then none else some (2, 2)
      | .fifo =>
        match k with
        | .data n w =>
          if off % 2 ^ 17 != 0 && off % 2 ^ 17 != 8 then some (4, 3)
          else if n = 8 && w = (off % 2 ^ 17 = 0) then none else some (3, 3)
        | _ => some (3, 3)
      | _ => some (1, 7)

/-- Trap 0x14 of a near access that R250 refuses. -/
def nearTrap (cl : Cluster) (off : Nat) (k : NearKind) (op : Nat) : Option TrapInfo :=
  (nearFault cl off k).map (fun x => info14 off x.2 (off / 2 ^ 17 % 32) x.1 op)

/-- A FIFO bank serves this offset. -/
def isFifo (cl : Cluster) (off : Nat) : Option Nat :=
  match liveBank cl (off / 2 ^ 17) with
  | some b => if (bankAt cl b).mode = .fifo then some b else none
  | none => none

/-- The byte of the SRAM that holds a bank's byte. -/
def sramAddr (g b byte : Nat) : Nat := (g * 32 + b) * 2 ^ 17 + byte

/-- The SRAM byte of a near offset; an offset no bank holds has none. -/
def nearAddr (s : State) (g off : Nat) : Option Nat :=
  (liveBank (clusterAt s g) (off / 2 ^ 17)).map (fun b => sramAddr g b (off % 2 ^ 17))

/-! ### Bytes at their homes (R220, R257) -/

def peerAt (s : State) (pkg : Nat) : Peer := (look pkg s.peers).getD ⟨[], [], []⟩

/-- One byte at its home. -/
def placeGet (s : State) : Place → Byte
  | .hbm a => memGet s.hbm a
  | .near g off => match nearAddr s g off with
    | some a => memGet s.sram a
    | none => 0
  | .host a => memGet s.host a
  | .peer p a => memGet (peerAt s p).mem a

/-- Writes one byte at its home. -/
def placePut (s : State) (p : Place) (b : Byte) : State :=
  match p with
  | .hbm a => { s with hbm := memPut s.hbm a b }
  | .near g off => match nearAddr s g off with
    | some a => { s with sram := memPut s.sram a b }
    | none => s
  | .host a => { s with host := memPut s.host a b }
  | .peer p a => { s with peers := put p { peerAt s p with mem := memPut (peerAt s p).mem a b } s.peers }

/-- A place `n` bytes further. -/
def placeAdd (p : Place) (n : Nat) : Place :=
  match p with
  | .hbm a => .hbm (a + n)
  | .near g off => .near g (off + n)
  | .host a => .host (a + n)
  | .peer k a => .peer k (a + n)

def placeRead (s : State) (p : Place) : Nat → List Byte
  | 0 => []
  | n + 1 => placeGet s p :: placeRead s (placeAdd p 1) n
def placeWrite (s : State) (p : Place) : List Byte → State
  | [] => s
  | b :: r => placeWrite (placePut s p b) (placeAdd p 1) r

/-- An address of the scratchpad apertures (R257). -/
def apertureAddr (a : Nat) : Bool := decide (2 ^ 42 ≤ a) && decide (a < 2 ^ 42 + 2 ^ 29)

/-- The home unit of a place (R220, R259); a peer's homes by the same rules. -/
def homeOf (s : State) : Place → HomeId
  | .hbm a => .channel (hbmUnit a)
  | .near g off => .bank g ((liveBank (clusterAt s g) (off / 2 ^ 17)).getD 32)
  | .host _ => .hostUnit
  | .peer p a =>
    if apertureAddr a then .peerBank p ((a - 2 ^ 42) / 2 ^ 22) ((a - 2 ^ 42) % 2 ^ 22 / 2 ^ 17) else .peerChannel p (hbmUnit a)

/-- The line of a place. -/
def lineOf : Place → Place
  | .hbm a => .hbm (a / 64 * 64)
  | .near g off => .near g (off / 64 * 64)
  | .host a => .host (a / 64 * 64)
  | .peer k a => .peer k (a / 64 * 64)
def placeNum : Place → Nat
  | .hbm a => a
  | .near _ off => off
  | .host a => a
  | .peer _ a => a
def isAperture : Place → Bool
  | .near _ _ => true
  | _ => false
/-- Scratchpad lines, here or at a peer, are never cached (R258, R262). -/
def neverCached : Place → Bool
  | .near _ _ => true
  | .peer _ a => apertureAddr a
  | _ => false

/-- A change at a home lets it judge the operations that wait there (R224); one that has served in this cycle does so in the
next. -/
def pokeHome (s : State) (h : HomeId) : State :=
  let waiting := match h with
    | .bank g _ => (clusterAt s g).waiters
    | _ => s.homeWaiters
  if waiting.isEmpty || s.agenda.any (fun x => decide (x.1 ≤ s.now + 1) && x.2 = .homeWaiterServe h) then s
  else later s 0 (.homeWaiterServe h)

/-! ### Uncorrectable errors (R405, R407) -/

/-- Some byte of a range lies in an SRAM word or HBM line that reads with an uncorrectable error. -/
def placeErr (s : State) (p : Place) (n : Nat) : Bool :=
  match p with
  | .near g off => match nearAddr s g off with
    | some a => s.sramErr.any (fun w => decide (a / 8 ≤ w) && decide (8 * w < a + n))
    | none => false
  | .hbm a => s.hbmErr.any (fun w => decide (a / 64 ≤ w) && decide (64 * w < a + n))
  | _ => false
/-- A write of a whole word or line ends its error. -/
def clearErr (s : State) (p : Place) (n : Nat) : State :=
  match p with
  | .near g off => match nearAddr s g off with
    | some a => { s with sramErr := s.sramErr.filter (fun w => !(decide (a ≤ 8 * w) && decide (8 * w + 8 ≤ a + n))) }
    | none => s
  | .hbm a => { s with hbmErr := s.hbmErr.filter (fun w => !(decide (a ≤ 64 * w) && decide (64 * w + 64 ≤ a + n))) }
  | _ => s
/-- scr.einfo of trap 0x70 (R408): SITE, the opcode and WHERE. -/
def info408 (site op loc : Nat) : Word := BitVec.ofNat 64 (site * 2 ^ 32 + op * 2 ^ 18 + loc * 2 ^ 8)
/-- SITE and WHERE of a place: an SRAM bank, or an HBM stack ‖ channel. -/
def errSite (s : State) : Place → Nat × Nat
  | .near g off => (2, (liveBank (clusterAt s g) (off / 2 ^ 17)).getD 0)
  | .hbm a => (4, hbmUnit a)
  | _ => (9, 0)
/-- Trap 0x70 of the access at `va` that reads a place. -/
def errTrap (s : State) (p : Place) (va : Word) (op : Nat) : TrapInfo := ⟨0x70, va, info408 (errSite s p).1 op (errSite s p).2⟩

/-- A write performed at its home. -/
def homeWrite (s : State) (p : Place) (bs : List Byte) : State :=
  pokeHome (clearErr (placeWrite s p bs) p bs.length) (homeOf s p)

/-! ### The cluster cache (R262, R263, R272) -/

/-- The ways: the banks in CACHE mode. -/
def cacheWays (cl : Cluster) : List Nat := (List.range 32).filter (fun b => (bankAt cl b).mode = .cache)
def cacheSet (p : Place) : Nat := placeNum p / 64 % 2048
def findLine (cl : Cluster) (p : Place) : Option CacheLine := cl.cache.find? (fun l => l.place = lineOf p)
def lineByte (d : Line) (i : Nat) : Byte := d.extractLsb' (8 * i) 8
def setLineByte (d : Line) (i : Nat) (b : Byte) : Line :=
  (d &&& ~~~((0xFF : Line) <<< (8 * i))) ||| (b.setWidth 512 <<< (8 * i))
def lineBytes (d : Line) : List Byte := (List.range 64).map (lineByte d)
def bytesLine (bs : List Byte) : Line := BitVec.ofNat 512 (ofBytesLE bs)

/-- Replaces the cached copy of a line's place by `f`'s answer; none drops it. -/
def mapLine (cl : Cluster) (p : Place) (f : CacheLine → Option CacheLine) : Cluster :=
  { cl with cache := cl.cache.filterMap (fun l => if l.place = lineOf p then f l else some l) }

/-- The dirty bytes of a line go to its home (R272). -/
def storeDirty (s : State) (l : CacheLine) : State :=
  let s' := (List.range 64).foldl (fun s i =>
    if l.dirty.getLsbD i then placePut s (placeAdd l.place i) (lineByte l.data i) else s) s
  let s' := if l.dirty = BitVec.allOnes 64 then clearErr s' l.place 64 else s'
  if l.dirty = 0 then s else pokeHome s' (homeOf s l.place)

/-- Writes one line back, keeping it clean or dropping it. -/
def writeBack (s : State) (g : Nat) (p : Place) (drop : Bool) : State :=
  match findLine (clusterAt s g) p with
  | none => s
  | some l => modCluster (storeDirty s l) g (fun cl => mapLine cl p (fun l => if drop then none else some { l with dirty := 0 }))

/-- The time at which the write-back of a line is acknowledged (R62). -/
def backTime (g : Nat) (l : CacheLine) : Nat := farTime g l.place false

/-- Writes every dirty line of a cluster back (R225): the state, and the longest acknowledgement, 0 with nothing dirty. -/
def writeBackAll (s : State) (g : Nat) : State × Nat :=
  let dirty := (clusterAt s g).cache.filter (fun l => l.dirty != 0)
  let s := dirty.foldl storeDirty s
  (modCluster s g (fun cl => { cl with cache := cl.cache.map (fun l => { l with dirty := 0 }) }),
   dirty.foldl (fun n l => max n (backTime g l)) 0)

/-- An acquire at DIE scope or wider drops the clean lines of the cluster (R268). -/
def invalidateClean (s : State) (g : Nat) : State :=
  modCluster s g (fun cl => { cl with cache := cl.cache.filter (fun l => l.dirty != 0) })

/-- DIE, PACKAGE and SYSTEM have cache actions (R268). -/
def Scope.wide : Scope → Bool
  | .sys | .pkg | .die => true
  | _ => false
def acquireAt (s : State) (g : Nat) (sc : Scope) : State := if Scope.wide sc then invalidateClean s g else s

/-- Brings a line into the cache (R262): the lowest free way, else that of the least recently accessed line of the set,
ties to the lowest bank; a dirty victim goes home first. -/
def fillLine (s : State) (g : Nat) (p : Place) : State :=
  let cl := clusterAt s g
  let inSet := cl.cache.filter (fun l => cacheSet l.place = cacheSet p)
  match (cacheWays cl).find? (fun b => inSet.all (fun l => l.way != b)) with
  | some b => modCluster s g (fun cl => { cl with cache := cl.cache ++ [⟨lineOf p, b, bytesLine (placeRead s (lineOf p) 64), 0, s.now⟩] })
  | none =>
    let worse (a b : CacheLine) : CacheLine :=
      if b.lastUse < a.lastUse || (b.lastUse = a.lastUse && b.way < a.way) then b else a
    match inSet with
    | [] => s
    | l :: r =>
      let v := r.foldl worse l
      let s := writeBack s g v.place true
      modCluster s g (fun cl => { cl with cache := cl.cache ++ [⟨lineOf p, v.way, bytesLine (placeRead s (lineOf p) 64), 0, s.now⟩] })

/-- A cached access is possible: the line's place is cacheable and the cache has a way (R262). -/
def cached (s : State) (g : Nat) (p : Place) (ms : Bool) : Bool :=
  !ms && !neverCached p && !(cacheWays (clusterAt s g)).isEmpty

/-- Makes a line present and marks it accessed; answers whether it was a hit. -/
def touchLine (s : State) (g : Nat) (p : Place) : State × Bool :=
  let hit := (findLine (clusterAt s g) p).isSome
  let s := if hit then s else fillLine s g p
  (modCluster s g (fun cl => mapLine cl p (fun l => some { l with lastUse := s.now })), hit)

/-- A line whose way's bank is held adds the held cycles to its access (R255). -/
def wayHeld (s : State) (g : Nat) (p : Place) : Nat :=
  match findLine (clusterAt s g) p with
  | some l => ((bankAt (clusterAt s g) l.way).held.getD s.now) - s.now
  | none => 0
/-- The time of an access to a line that `touchLine` has made present: R62's, and what its held bank adds. -/
def lineTime (s : State) (g : Nat) (p : Place) (hit : Bool) : Nat := wayHeld s g p + (if hit then 64 else farTime g p false)

/-- Reads bytes of one line from the cache. -/
def cacheBytes (s : State) (g : Nat) (p : Place) (n : Nat) : List Byte :=
  match findLine (clusterAt s g) p with
  | none => placeRead s p n
  | some l => (List.range n).map (fun i => lineByte l.data (placeNum p % 64 + i))

/-- Writes bytes of one line in the cache, marking them dirty. -/
def cachePut (s : State) (g : Nat) (p : Place) (bs : List Byte) : State :=
  modCluster s g (fun cl => mapLine cl p (fun l =>
    some { l with
      data := (List.range bs.length).foldl (fun d i => setLineByte d (placeNum p % 64 + i) (bs.getD i 0)) l.data
      dirty := (List.range bs.length).foldl (fun d i => d ||| (1 : BitVec 64) <<< (placeNum p % 64 + i)) l.dirty }))

/-- A home operation on a global address first writes back and drops the issuing cluster's line (R220): the state and the
added time, one far store when the line was dirty. -/
def homePre (s : State) (g : Nat) (p : Place) : State × Nat :=
  match findLine (clusterAt s g) p with
  | none => (s, 0)
  | some l => (writeBack s g p true, if l.dirty = 0 then 0 else backTime g l)

/-! ### Page walks (R376-R380) -/

/-- What a walk finds: a leaf, or the entry that refuses. -/
inductive Walked where
  | leaf (e : Word) (lvl : Nat)
  | bad (reason : Nat) (e : Word) (lvl : Nat)
deriving DecidableEq, Repr

/-- The address bits below a level's index (R377). -/
def lvlShift (lvl : Nat) : Nat := 16 + 10 * lvl
def lvlIndex (va : Word) (lvl : Nat) : Nat := va.toNat / 2 ^ lvlShift lvl % (if lvl = 3 then 2048 else 1024)
def entLevel (e : Word) : Nat := (e.extractLsb' 10 2).toNat
def entAp (e : Word) : Nat := (e.extractLsb' 8 2).toNat
def entFrame (e : Word) : Nat := (e.extractLsb' 16 27).toNat
def entPkg (e : Word) : Nat := (e.extractLsb' 43 21).toNat
/-- The table that a table entry names. -/
def entTable (e : Word) : Nat := (e.extractLsb' 13 30).toNat * 8192
/-- A well-formed table entry at a level (R378). -/
def tableOk (e : Word) (lvl : Nat) : Bool :=
  e.extractLsb' 1 9 = 0 && !e.getLsbD 12 && e.extractLsb' 43 21 = 0 && decide (entTable e < 2 ^ 40)
    && !(lvl = 3 && e.getLsbD 13)
/-- A well-formed leaf (R378, REASON 1 of R379). -/
def leafOk (e : Word) : Bool :=
  e.extractLsb' 12 4 = 0 && entAp e != 3 && (entAp e = 1 || entPkg e = 0)
    && entFrame e % (2 ^ (10 * entLevel e)) = 0

/-- The walk from a level's table downwards. -/
def walkFrom (s : State) (va : Word) (tbl : Nat) : Nat → Walked
  | 0 =>
    let e := wordLE (memBytes s.hbm (tbl + 8 * lvlIndex va 0) 8)
    if !e.getLsbD 0 then .bad 0 e 0
    else if entLevel e = 0 && leafOk e then .leaf e 0 else .bad 1 e 0
  | lvl + 1 =>
    let e := wordLE (memBytes s.hbm (tbl + 8 * lvlIndex va (lvl + 1)) 8)
    if !e.getLsbD 0 then .bad 0 e (lvl + 1)
    else if entLevel e = 3 then (if tableOk e (lvl + 1) then walkFrom s va (entTable e) lvl else .bad 1 e (lvl + 1))
    else if lvl + 1 < 3 && entLevel e = lvl + 1 && leafOk e then .leaf e (lvl + 1) else .bad 1 e (lvl + 1)

/-- The HBM time of the walk's reads from a die (R380). -/
def walkCost (s : State) (die : Nat) (va : Word) (tbl : Nat) : Nat → Nat
  | 0 => 420 + 60 * dieDist die (hbmDie tbl)
  | lvl + 1 =>
    let e := wordLE (memBytes s.hbm (tbl + 8 * lvlIndex va (lvl + 1)) 8)
    420 + 60 * dieDist die (hbmDie tbl) +
      (if e.getLsbD 0 && entLevel e = 3 && tableOk e (lvl + 1) then walkCost s die va (entTable e) lvl else 0)

/-- The whole walk of a root (R376, R378). -/
def walk (s : State) (root : Nat) (va : Word) : Walked :=
  if root < 2 ^ 40 && root % 16384 = 0 then walkFrom s va root 3 else .bad 1 0 3
def walkTime (s : State) (die root : Nat) (va : Word) : Nat :=
  (if root < 2 ^ 40 && root % 16384 = 0 then walkCost s die va root 3 else 0) + 8

/-- Bits [63:57] equal bit 56 (R377). -/
def canonical (va : Word) : Bool := va.extractLsb' 56 8 = 0 || va.extractLsb' 56 8 = 0xFF

/-! ### Judging a translation (R379, R382) -/

/-- scr.einfo of causes 0x06, 0x10, 0x11 and 0x12. -/
def xlInfo (x : Xl) (reason entry lvl : Nat) : Word :=
  BitVec.ofNat 64 (entry * 2 ^ 32 + (boolNat x.read + 2 * boolNat x.write + 4 * boolNat x.fetch + 8 * boolNat x.home) * 2 ^ 16
    + reason * 2 ^ 12 + lvl * 2 ^ 10 + x.opc)
def xlTrap (x : Xl) (cause : BitVec 8) (reason entry lvl : Nat) : TrapInfo :=
  ⟨if x.fetch then 0x06 else cause, x.va, xlInfo x reason entry lvl⟩

/-- The local physical address that an AP=00 leaf gives, as a place (R257). -/
def localPlace (a : Nat) : Option Place :=
  if a < 2 ^ 40 then some (.hbm a)
  else if 2 ^ 42 ≤ a && a < 2 ^ 42 + 2 ^ 29 then some (.near ((a - 2 ^ 42) / 2 ^ 22) (a % 2 ^ 22))
  else none
/-- The frame address of a page plus the offset of `va` in it. -/
def leafAddr (e : Word) (lvl : Nat) (va : Word) : Nat := entFrame e * 65536 + va.toNat % 2 ^ lvlShift lvl

/-- Refusals of a leaf by its own bits (R379): cause and REASON. -/
def leafJudge (x : Xl) (e : Word) (lvl : Nat) : Option TrapInfo :=
  let low := e.toNat % 65536
  if entAp e = 0 && (localPlace (leafAddr e lvl x.va)).isNone then some (xlTrap x 0x10 3 low lvl)
  else if !x.noPerm && ((x.read && !e.getLsbD 1) || (x.write && !e.getLsbD 2) || (x.fetch && (!e.getLsbD 3 || entAp e = 1)))
  then some (xlTrap x 0x11 4 low lvl)
  else if x.data && e.getLsbD 5 && !e.getLsbD 4 then some (xlTrap x 0x11 5 low lvl)
  else if x.home && entAp e = 1 && !e.getLsbD 7 then some (xlTrap x 0x12 7 low lvl)
  else none

/-- Refusals by the peer's export entry (R383, R384); CFLUSH needs REASONs 0-3 alone (R240). -/
def exportJudge (x : Xl) (ent : Word) (e : Word) (lvl : Nat) : Option TrapInfo :=
  let low := e.toNat % 65536
  if x.noPerm then none
  else if !ent.getLsbD 0 then some (xlTrap x 0x10 6 low lvl)
  else if (x.read && !ent.getLsbD 1) || (x.write && !ent.getLsbD 2) || (x.home && !ent.getLsbD 3)
  then some (xlTrap x 0x11 6 low lvl)
  else none

/-! ### TLBs (R381) -/

def tlbHit (l : List TlbEnt) (root : Nat) (va : Word) : Option TlbEnt :=
  l.find? (fun e => e.root = root && va.toNat % 2 ^ 57 / 2 ^ e.bits = e.vpn)

/-- The first entry with the least use time. -/
def oldest {α : Type} (use : α → Nat) : List α → Option α
  | [] => none
  | a :: r => match oldest use r with
    | none => some a
    | some b => if use b < use a then some b else some a

/-- Adds an entry to the entries that pass `same`, which hold at most `cap`: the least recently used one is replaced in
its place. -/
def tlbAdd (l : List TlbEnt) (same : TlbEnt → Bool) (cap : Nat) (n : TlbEnt) : List TlbEnt :=
  if (l.filter same).length < cap then l ++ [n]
  else match oldest TlbEnt.lastUse (l.filter same) with
    | some v => l.map (fun e => if e = v then n else e)
    | none => l
def tlbTouch (l : List TlbEnt) (root : Nat) (va : Word) (now : Nat) : List TlbEnt :=
  l.map (fun e => if e.root = root && va.toNat % 2 ^ 57 / 2 ^ e.bits = e.vpn then { e with lastUse := now } else e)

def peerHit (cl : Cluster) (root pkg frame : Nat) : Option PeerTlbEnt :=
  cl.peerTlb.find? (fun e => !e.dead && e.root = root && e.pkg = pkg && e.frame = frame)

/-- The answer of a translation. -/
inductive XRes where
  | ok (p : Place) (leaf : Word) (lvl : Nat)
  | refuse (ti : TrapInfo)
  | wait (d : Nat)              -- settled by a WALK_COMPLETE in `d` cycles
  | peerMiss (pkg frame : Nat)
  | held
deriving DecidableEq, Repr

/-- The window frame of an AP=01 page that holds an address (R384). -/
def windowFrame (e : Word) (lvl : Nat) (va : Word) : Nat := leafAddr e lvl va / 65536

/-- A granted leaf: its place, through the peer TLB for AP=01. -/
def settle (s : State) (g : Nat) (x : Xl) (e : Word) (lvl : Nat) : XRes :=
  match leafJudge x e lvl with
  | some ti => .refuse ti
  | none =>
    match entAp e with
    | 0 => match localPlace (leafAddr e lvl x.va) with
      | some p => .ok p e lvl
      | none => .refuse (xlTrap x 0x10 3 (e.toNat % 65536) lvl)
    | 1 => match peerHit (clusterAt s g) x.root (entPkg e) (windowFrame e lvl x.va) with
      | none => .peerMiss (entPkg e) (windowFrame e lvl x.va)
      | some pe => match exportJudge x pe.entry e lvl with
        | some ti => if pe.entry.getLsbD 0 then .refuse ti else .peerMiss (entPkg e) (windowFrame e lvl x.va)
        | none => .ok (.peer (entPkg e) (entFrame pe.entry * 65536 + x.va.toNat % 65536)) e lvl
    | _ => .ok (.host (leafAddr e lvl x.va)) e lvl

/-- Sorts by a key, equal keys in their order. -/
def insertBy {α : Type} (key : α → Nat) (a : α) : List α → List α
  | [] => [a]
  | b :: r => if key a < key b then a :: b :: r else b :: insertBy key a r
def sortBy {α : Type} (key : α → Nat) (l : List α) : List α := l.foldl (fun acc a => insertBy key a acc) []

/-- The walk of a page that is in progress or waiting on a die: requests for one page merge into it (R380). -/
def walkOf (s : State) (die root : Nat) (va : Word) : Option Walk :=
  s.walks.find? (fun w => w.die = die && w.root = root && w.page = va.toNat / 65536 && s.now < w.done)
/-- The cycles until a page's walk is complete. A die's 512 walkers take requests in order of arrival: with `k` walks before it,
a request starts when all but 511 of them have ended. -/
def walkDelay (s : State) (die root : Nat) (va : Word) : Nat :=
  match walkOf s die root va with
  | some w => w.done - s.now
  | none =>
    let busy := sortBy id ((s.walks.filter (fun w => w.die = die && s.now < w.done)).map Walk.done)
    let wait := if busy.length < 512 then 0 else busy.getD (busy.length - 512) 0 - s.now
    wait + walkTime s die root va
/-- Records the request of a walk that takes `d` cycles; walks that have ended leave. -/
def addWalk (s : State) (die root : Nat) (va : Word) (d : Nat) : State :=
  if (walkOf s die root va).isSome then s
  else { s with walks := s.walks.filter (fun w => s.now < w.done) ++ [⟨die, s.now + d, root, va.toNat / 65536⟩] }

/-- A PUBLISH.G holds the page at translation (R346). -/
def pageHeld (s : State) (root : Nat) (va : Word) : Bool :=
  s.pageHolds.any (fun h => h.root = root && decide (h.lo ≤ va.toNat % 2 ^ 57) && decide (va.toNat % 2 ^ 57 < h.hi))

/-- Translates for a core (R379, R381, R441). -/
def xlate (s : State) (core : Nat) (x : Xl) : XRes :=
  let g := clusterOf core
  if !canonical x.va then .refuse (xlTrap x 0x10 2 0 0)
  else if pageHeld s x.root x.va then .held
  else match tlbHit (coreAt s core).tlb x.root x.va with
    | some e => settle s g x e.leaf e.level
    | none => match tlbHit (clusterAt s g).tlb x.root x.va with
      | some _ => .wait 12
      | none => .wait (walkDelay s (dieOf core) x.root x.va)

/-- The peer TLB's entry translates a page. -/
def usePeer (now : Nat) (va : Word) (p : PeerTlbEnt) : PeerTlbEnt :=
  let x := va.toNat % 2 ^ 57 / 65536
  { p with lastUse := now, pages := if x ∈ p.pages then p.pages else x :: p.pages }
/-- Marks the peer TLB's entry of an AP=01 page used. -/
def touchPeer (s : State) (g : Nat) (x : Xl) (e : Word) (lvl : Nat) : State :=
  if entAp e = 1 then modCluster s g (fun cl => { cl with peerTlb := cl.peerTlb.map (fun p =>
    if !p.dead && p.root = x.root && p.pkg = entPkg e && p.frame = windowFrame e lvl x.va then usePeer s.now x.va p else p) })
  else s
/-- Marks the core's TLB entry used, and on an AP=01 page the peer TLB's. -/
def touchTlb (s : State) (core : Nat) (x : Xl) : State :=
  let s' := modCore s core (fun c => { c with tlb := tlbTouch c.tlb x.root x.va s.now })
  match tlbHit (coreAt s core).tlb x.root x.va with
  | some e => touchPeer s' (clusterOf core) x e.leaf e.level
  | none => s'

/-- Fills the core TLB, and the cluster TLB's set, with a leaf (R381). -/
def fillTlb (s : State) (core : Nat) (root : Nat) (va : Word) (e : Word) (lvl : Nat) : State :=
  let n : TlbEnt := ⟨root, va.toNat % 2 ^ 57 / 2 ^ lvlShift lvl, lvlShift lvl, e, lvl, s.now⟩
  let s := modCore s core (fun c => if (tlbHit c.tlb root va).isSome then c else { c with tlb := tlbAdd c.tlb (fun _ => true) 32 n })
  modCluster s (clusterOf core) (fun cl =>
    if (tlbHit cl.tlb root va).isSome then { cl with tlb := tlbTouch cl.tlb root va s.now }
    else { cl with tlb := tlbAdd cl.tlb (fun m => m.vpn % 512 = n.vpn % 512) 8 n })

/-- The page-table root of a thread's queue (R376). -/
def rootOf (s : State) (th : Thread) : Nat := (queueAt s (queueOfLaunch th.launch)).root.toNat

/-- A core's miss asks for a walk, unless its cluster's TLB holds the page. -/
def walkFor (s : State) (core : Nat) (x : Xl) (d : Nat) : State :=
  if (tlbHit (clusterAt s (clusterOf core)).tlb x.root x.va).isSome then s else addWalk s (dieOf core) x.root x.va d

/-! ### Barrier groups (R234) and race watch (R278-R285) -/

def findGroup (s : State) (pg : Bool) (die g : Nat) : Option Group :=
  s.groups.find? (fun x => x.pg = pg && (pg || x.die = die) && x.g = g)
def member? (gr : Group) (uid : Nat) : Option Member := gr.members.find? (fun m => m.uid = uid)
/-- A comes before or at B in phases modulo 2^32. -/
def phaseLe (a b : BitVec 32) : Bool := decide ((b - a).toNat < 2 ^ 31)
/-- The least phase (R234). -/
def groupMin (gr : Group) : BitVec 32 :=
  match gr.members with
  | [] => 0
  | m :: r => r.foldl (fun a x => if phaseLe a x.phase then a else x.phase) m.phase
/-- The least recorded phase: what the homes and the barrier's completion see (R236). -/
def groupRec (gr : Group) : BitVec 32 :=
  match gr.members with
  | [] => 0
  | m :: r => r.foldl (fun a x => if phaseLe a x.recorded then a else x.recorded) m.recorded

/-- A watched granule: where its shadow entry lies and the address that a trap reports. -/
structure Granule where
  bank : Option (Nat × Nat)      -- cluster and bank; none: the base die's line metadata
  idx : Nat
  addr : Word
deriving DecidableEq, Repr

def shadowGet (s : State) (x : Granule) : BitVec 21 :=
  match x.bank with
  | some (g, b) => (look (b * 12288 + x.idx) (clusterAt s g).shadow).getD 0
  | none => (look x.idx s.wtShadow).getD 0
def shadowPut (s : State) (x : Granule) (v : BitVec 21) : State :=
  match x.bank with
  | some (g, b) =>
    modCluster s g (fun cl => { cl with shadow := if v = 0 then del (b * 12288 + x.idx) cl.shadow else put (b * 12288 + x.idx) v cl.shadow })
  | none => { s with wtShadow := if v = 0 then del x.idx s.wtShadow else put x.idx v s.wtShadow }

/-- The watch home of a granule. -/
def granuleHome (x : Granule) : HomeId :=
  match x.bank with
  | some (g, b) => .bank g b
  | none => .channel (hbmUnit (x.idx * 8))

/-- scr.einfo of traps 0x15 and 0x16 (R284). -/
def watchInfo (phase : BitVec 32) (party kind multi op : Nat) : Word :=
  BitVec.ofNat 64 (phase.toNat * 2 ^ 32 + party * 2 ^ 24 + kind * 2 ^ 16 + multi * 2 ^ 15 + op)

/-- A tag read in full (R281). -/
def fullPhase (gr : Group) (h : HomeId) (t : BitVec 2) : BitVec 32 :=
  let base := match gr.sweeping.find? (fun x => x.1 = h) with
    | some (_, m) => m - 1
    | none => gr.announced
  base + ((t.setWidth 32 - base) &&& 3)

/-- One granule's check (R283): the trap, or the new entry. -/
def granuleCheck (s : State) (gr : Group) (me : Nat) (c : BitVec 32) (write : Bool) (op : Nat) (x : Granule) : Except TrapInfo (BitVec 21) :=
  let e := shadowGet s x
  let w := (e.extractLsb' 13 8).toNat
  let rd := (e.extractLsb' 3 8).toNat
  let a := fullPhase gr (granuleHome x) (e.extractLsb' 11 2)
  let p := fullPhase gr (granuleHome x) (e.extractLsb' 1 2)
  let multi := e.getLsbD 0
  let mk (w : Nat) (wp : BitVec 2) (r : Nat) (rp : BitVec 2) (m : Bool) : BitVec 21 :=
    BitVec.ofNat 21 (w * 2 ^ 13 + wp.toNat * 2 ^ 11 + r * 8 + rp.toNat * 2 + boolNat m)
  let wph := e.extractLsb' 11 2
  if w != 0 && w != me && phaseLe c a then .error ⟨0x15, x.addr, watchInfo a w (if write then 1 else 0) 0 op⟩
  else if write && rd != 0 && phaseLe c p && (rd != me || multi) then .error ⟨0x15, x.addr, watchInfo p rd 2 (boolNat multi) op⟩
  else if write then .ok (mk me (c.setWidth 2) 0 0 false)
  else if rd = 0 || (phaseLe p c && p != c) then .ok (mk w wph me (c.setWidth 2) false)
  else if c = p && rd != me then .ok (mk w wph rd (e.extractLsb' 1 2) true)
  else .ok e

/-- Every granule of an access is checked; the first refusal refuses the whole (R283). -/
def granulesCheck (s : State) (gr : Group) (me : Nat) (c : BitVec 32) (write : Bool) (op : Nat) : List Granule → Except TrapInfo State
  | [] => .ok s
  | x :: r => match granuleCheck s gr me c write op x with
    | .error ti => .error ti
    | .ok e => match granulesCheck s gr me c write op r with
      | .error ti => .error ti
      | .ok s' => .ok (shadowPut s' x e)

/-- The watch check of a data access to the area of group `area`, a die group with its die (R279, R281, R283). `addr` is the data
address. -/
def watchCheck (s : State) (t : TId) (th : Thread) (area : Word × Nat) (remote write : Bool) (op : Nat) (addr : Word)
    (gs : List Granule) : Except TrapInfo State :=
  if t.slot = 0 then .ok s
  else
    let sw := th.scr.watch
    let pg := area.1.getLsbD 6
    let gr := findGroup s pg area.2 (area.1.extractLsb' 0 6).toNat
    let me := gr.bind (fun gr => member? gr th.uid)
    let ph := (me.map Member.phase).getD 0
    if remote then .error ⟨0x16, addr, watchInfo ph 0 2 0 op⟩
    else if !sw.getLsbD 7 then .error ⟨0x16, addr, watchInfo ph 0 0 0 op⟩
    else if sw.extractLsb' 0 7 != area.1.extractLsb' 0 7 || (!pg && dieOf t.core != area.2) then .error ⟨0x16, addr, watchInfo ph 0 1 0 op⟩
    else match gr, me with
      | some gr, some m =>
        if m.phase != m.completed then
          .error ⟨0x15, (gs.head?.map Granule.addr).getD addr, watchInfo ph 0 3 0 op⟩
        else granulesCheck s gr (posOf t.core * 16 + t.slot) m.completed write op gs
      | _, _ => .error ⟨0x16, addr, watchInfo 0 0 0 0 op⟩

/-- The watched area of a near byte: its bank's group, when the bank is WATCH. -/
def nearArea (cl : Cluster) (off : Nat) : Option (Nat × Word) :=
  match liveBank cl (off / 2 ^ 17) with
  | some b => if (bankAt cl b).mode = .watch then some (b, (bankAt cl b).watch) else none
  | none => none

/-- The granules of a near byte range inside one bank. -/
def nearGranules (g b off n : Nat) : List Granule :=
  (List.range ((off % 8 + n + 7) / 8)).map (fun i => ⟨some (g, b), off % 2 ^ 17 / 8 + i, BitVec.ofNat 64 (off / 8 * 8 + 8 * i)⟩)

/-- The watch check of near bytes: unwatched bytes pass. -/
def nearWatch (s : State) (t : TId) (th : Thread) (g off n : Nat) (write : Bool) (op : Nat) : Except TrapInfo State :=
  match nearArea (clusterAt s g) off with
  | none => .ok s
  | some (b, area) => watchCheck s t th (area, g / 16) (clusterOf t.core != g) write op (BitVec.ofNat 64 off) (nearGranules g b off n)

/-- A copy engine's write clears the entries of the granules it writes (R279). -/
def clearShadow (s : State) (p : Place) (n : Nat) : State :=
  match p with
  | .near g off => match nearArea (clusterAt s g) off with
    | some (b, _) => (nearGranules g b off n).foldl (fun s x => shadowPut s x 0) s
    | none => s
  | .hbm a => (List.range ((a % 8 + n + 7) / 8)).foldl (fun s i => shadowPut s ⟨none, a / 8 + i, 0⟩ 0) s
  | _ => s

end Sys2Proof.Machine
end

