-- ==== Sys2Proof/Machine/Operands.lean ====
section
/-! DEFINITION. Every operand form: channels (R237, R238), scalar operands in field order (R72), effective addresses (R42,
R219), the vector operands, lane masks and elements (R161-R163), and operand words of the matrix and task instructions. -/
namespace Sys2Proof.Machine
open Sys2Proof

/-! ### Channels -/

def chCap : ChQueue → Nat
  | .slot _ _ => 4
  | .inb _ _ => 8
  | .fifo _ _ => 16384
/-- Cycles from a push until the word is readable (R238). -/
def chDelay : ChQueue → Nat
  | .slot _ _ => 8
  | .inb _ _ => 12
  | .fifo _ _ => 20

def wordReady (s : State) (w : ChWord) : Bool := decide (w.at_ ≤ s.now) && allDone s w.after
/-- The words that can be popped now, oldest first. -/
def readyWords (s : State) (q : ChQueue) : List ChWord := (chWords s q).takeWhile (wordReady s)
def chFree (s : State) (q : ChQueue) : Nat := chCap q - (chWords s q).length

/-- The near accesses of a thread that have not completed (R238). -/
def nearOps (s : State) (uid : Nat) : List Nat :=
  (s.ops.filter (fun o => o.uid = uid && (o.q.map MemReq.near).getD false)).map Op.id

/-- A FIFO bank's waiting pushers and poppers see a change of its words (R251). -/
def chPoke (s : State) (q : ChQueue) : State :=
  match q with
  | .fifo g b => pokeHome s (.bank g b)
  | _ => s
/-- Pushes one word; a core pushes at most one in a cycle. -/
def chPush (s : State) (core uid : Nat) (q : ChQueue) (v : Word) : State :=
  modCore (chPoke (setChWords s q (chWords s q ++ [⟨s.now + chDelay q, nearOps s uid, v⟩])) q) core (fun k => { k with chPush := s.now + 1 })
/-- Pops the oldest word. -/
def chPop (s : State) (core : Nat) (q : ChQueue) : State :=
  modCore (chPoke (setChWords s q (chWords s q).tail) q) core (fun k => { k with chPop := s.now + 1 })

/-- Trap 0x22 (R243). -/
def chTrap (reason n : Nat) : TrapInfo := ⟨0x22, 0, BitVec.ofNat 64 (reason * 4096 + n)⟩

/-- The fault of using a channel: unbound (R238), or bound to a FIFO bank that has changed its mode (R250). -/
def chFault (s : State) (t : TId) (th : Thread) (op : Nat) (n : Fin 8) (write : Bool) : Option TrapInfo :=
  let b := th.ch[n]
  let cl := clusterAt s (clusterOf t.core)
  match b.kind with
  | .none => some (chTrap 0 n)
  | .fifo =>
    if (fifoBank cl b.target.toNat).isSome then none
    else
      let off := b.target.toNat * 2 ^ 17 + (if write then 0 else 8)
      match liveBank cl b.target.toNat with
      | none => some (info14 off 7 b.target.toNat 1 op)
      | some k => some (info14 off (modeCode (bankAt cl k).mode) b.target.toNat 3 op)
  | _ => none

def chOf : Reg → Option (Fin 8)
  | .ch n => some n
  | _ => none

/-- The wait of a channel operand: a source whose queue has too few words (as often as it is named), or a full target. A core pushes
and pops once in a cycle (R238): for a second instruction the queue is not ready. -/
def chBlocked (s : State) (t : TId) (th : Thread) (rs : List Reg) (d : Option Reg) : Option Why :=
  let need (n : Fin 8) : Nat := (rs.filterMap chOf).count n
  match (rs.filterMap chOf).find? (fun n => match chQueue s t th n false with
      | some q => decide ((readyWords s q).length < need n) || decide (s.now < (coreAt s t.core).chPop)
      | none => true) with
  | some n => some (.chRead n)
  | none => match d.bind chOf with
    | some n => match chQueue s t th n true with
      | some q => if chFree s q = 0 || s.now < (coreAt s t.core).chPush then some (.chWrite n) else none
      | none => some (.chWrite n)
    | none => none

/-- Reads scalar operands in field order, popping one word for each channel (R72). -/
def readAll (s : State) (t : TId) (th : Thread) : List Reg → State × List Word
  | [] => (s, [])
  | r :: rs =>
    let (s1, v) := match chOf r with
      | some n => match chQueue s t th n false with
        | some q => (chPop s t.core q, ((chWords s q).head?.map ChWord.val).getD 0)
        | none => (s, 0)
      | none => (s, readReg s t th r)
    let (s2, vs) := readAll s1 t th rs
    (s2, v :: vs)

/-- Reads the current thread's scalar operands: the state with the words popped, of which the thread keeps a note until its
instruction ends, and the values. -/
def takeOps (s : State) (th : Thread) (rs : List Reg) : State × List Word :=
  let (s', vs) := readAll s s.cur (viewOf s s.cur th) rs
  let pops := (rs.zip vs).filterMap (fun x => (chOf x.1).map (fun n => (n, x.2)))
  (if pops = [] then s' else modThread s' s.cur (fun th => { th with pops := pops }), vs)

/-- The trap of an unusable channel among the operands, sources before the destination (R238, R250). -/
def opsFault (s : State) (th : Thread) (op : Nat) (rs : List Reg) (d : Option Reg) : Option TrapInfo :=
  match (rs.filterMap chOf).findSome? (fun n => chFault s s.cur th op n false) with
  | some ti => some ti
  | none => (d.bind chOf).bind (fun n => chFault s s.cur th op n true)

/-- The operands of the current thread's instruction `i`: those it holds from its first read, or else those it reads now;
an unbound channel traps, an empty or full one parks (R238). `d` is a scalar destination written at once. -/
def operands (s : State) (th : Thread) (i : Instr) (rs : List Reg) (d : Option Reg) (k : State → List Word → State) : State :=
  match th.latch with
  | some vs => k s vs
  | none => match opsFault s th (opOf i) rs d with
    | some ti => trap s s.cur ti
    | none => match chBlocked s s.cur th rs d with
      | some why => park s s.cur why (some i)
      | none => let r := takeOps s th rs; k r.1 r.2

/-- Writes a scalar result: a channel takes a word, any other register takes the value. -/
def writeD (s : State) (t : TId) (r : Reg) (v : Word) : State :=
  match chOf r with
  | some n => match thread? s t with
    | some th => match chQueue s t th n true with
      | some q => chPush s t.core th.uid q v
      | none => s
    | none => s
  | none => writeReg s t r v

/-- Writes the result of an instruction that can park: it waits for room in a channel (R238). Where its thread has parked, and so holds its
operands, the result is seen on the wake, else 8 cycles later (R58, R61). -/
def writeLate (s : State) (t : TId) (by_ : Thread) (i : Instr) (r : Reg) (v : Word) : State :=
  match chOf r with
  | some n => match thread? s t with
    | some th =>
      match chFault s t th (opOf i) n true with
      | some ti => trap s t ti
      | none => match chQueue s t th n true with
        | some q =>
          if chFree s q = 0 || s.now < (coreAt s t.core).chPush then park s t (.chWrite n) (some i)
          else advance (chPush s t.core th.uid q v) t
        | none => advance s t
    | none => s
  | none => advance (if by_.latch.isSome then writeAtWake s t r v else writeReg s t r v) t

/-- A trap of the running instruction. -/
def trapNow (s : State) (ti : TrapInfo) : State := trap s s.cur ti

/-! ### Addresses -/

def sizeBytes : Size → Nat
  | .b8 => 1 | .b16 => 2 | .b32 => 4 | .b64 => 8
/-- base + (index << s) + SignExtend(off, 32) modulo 2^64 (R42). -/
def eaOf (base index : Word) (sh : Fin 7) (off : BitVec 32) : Word := base + (index <<< sh.val) + off.signExtend 64
/-- Sign or zero extension of the low `n` bytes to 64 bits (R221). -/
def extTo (sx : Bool) (n : Nat) (v : Word) : Word :=
  let m := v.toNat % 2 ^ (8 * n)
  if sx && 2 ^ (8 * n - 1) ≤ m then BitVec.ofNat 64 (m + (2 ^ 64 - 2 ^ (8 * n))) else BitVec.ofNat 64 m

/-! ### Vector operands (R161-R163) -/

def laneOf (v : Line) (l : Nat) : BitVec 32 := v.extractLsb' (32 * l) 32
def elemOf (w : Nat) (v : Line) (e : Nat) : Nat := v.toNat / 2 ^ (w * e) % 2 ^ w
/-- A register built from elements, element 0 lowest. -/
def packElems (w : Nat) : List Nat → Nat
  | [] => 0
  | x :: r => x % 2 ^ w + 2 ^ w * packElems w r
/-- The lane mask m0-m7 (R163). -/
def maskOf (th : Thread) (m : Fin 8) : Word := if m = 0 then BitVec.allOnes 64 else th.m[m]
def active (mask : Word) (e : Nat) : Bool := mask.getLsbD e
/-- Signed value of a `w`-bit element. -/
def sInt (w n : Nat) : Int := if n < 2 ^ (w - 1) then (n : Int) else (n : Int) - 2 ^ w
/-- An integer modulo 2^w. -/
def wrapInt (w : Nat) (x : Int) : Nat := (x % (2 ^ w : Int)).toNat

/-! ### The mask word of a tile operation (R110) -/

def maskWord : Option Word → Word
  | none => BitVec.allOnes 64
  | some w => w
def rowSel (m : Word) (i : Nat) : Bool := m.getLsbD i
def colSel (m : Word) (j : Nat) : Bool := m.getLsbD (16 + j)
def depthSel (m : Word) (k : Nat) : Bool := m.getLsbD (32 + k)
/-- The selected cells in CELL order. -/
def selCells (m : Word) : List Nat := (List.range 256).filter (fun c => rowSel m (c / 16) && colSel m (c % 16))

/-! ### Absolute window registers (R88, R89) -/

/-- Writes a window register by its absolute name, in the resident frame that holds it. -/
def writeAbs (th : Thread) (abs : Nat) (v : Word) : Thread :=
  if th.depth * 32 ≤ abs then
    (if h : abs - th.depth * 32 < 48 then { th with w := th.w.set (abs - th.depth * 32) v } else th)
  else
    let k := (th.depth * 32 - 1 - abs) / 32
    { th with lower := th.lower.mapIdx (fun i fr => if i = k then fr.setIfInBounds (abs % 32) v else fr) }

/-- Writes a register with a presence bit by its name. -/
def writeById (th : Thread) (r : RegId) (v : Nat) : Thread :=
  match r with
  | .g n => if h : n < 16 then { th with g := th.g.set n (BitVec.ofNat 64 v) } else th
  | .w a => writeAbs th a (BitVec.ofNat 64 v)
  | .v n => if h : n < 32 then { th with v := th.v.set n (BitVec.ofNat 512 v) } else th

end Sys2Proof.Machine
end

