-- ==== Sys2Proof/Machine/Alu.lean ====
section
/-! DEFINITION. Classes 0 and 1: integer register and immediate instructions (R72-R78). -/
namespace Sys2Proof.Machine
open Sys2Proof

/-! ### Shared shapes -/

/-- Writes a scalar result of the running instruction, which then is over. -/
def setD (s : State) (d : Reg) (v : Word) : State := advance (writeD s s.cur d v) s.cur

/-- D ← f(A, B). -/
def alu2 (s : State) (i : Instr) (p : Pred) (d a b : Reg) (f : Word → Word → Word) : Out :=
  guarded p s (fun th => operands s th i [a, b] (some d) (fun s vs => setD s d (f (vs.getD 0 0) (vs.getD 1 0))))

/-- D ← f(A). -/
def alu1 (s : State) (i : Instr) (p : Pred) (d a : Reg) (f : Word → Word) : Out :=
  guarded p s (fun th => operands s th i [a] (some d) (fun s vs => setD s d (f (vs.getD 0 0))))

/-! ### Results -/

/-- A + B (R73). -/
def aluAdd (a b : Word) : Word := a + b
/-- A − B (R73). -/
def aluSub (a b : Word) : Word := a - b
/-- (A × B)[63:0] (R73). -/
def aluMul (a b : Word) : Word := a * b
/-- (u(A) × u(B))[127:64] (R73). -/
def aluMulh (a b : Word) : Word := BitVec.ofNat 64 (a.toNat * b.toNat / 2 ^ 64)
/-- (s(A) × s(B))[127:64] (R73). -/
def aluMulhs (a b : Word) : Word := BitVec.ofInt 64 (a.toInt * b.toInt / 2 ^ 64)
/-- A AND B (R73). -/
def aluAnd (a b : Word) : Word := a &&& b
/-- A OR B (R73). -/
def aluOr (a b : Word) : Word := a ||| b
/-- A XOR B (R73). -/
def aluXor (a b : Word) : Word := a ^^^ b
/-- A AND NOT B (R73). -/
def aluAndn (a b : Word) : Word := a &&& ~~~b
/-- A left by B[5:0] (R73). -/
def aluShl (a b : Word) : Word := a <<< (b.toNat % 64)
/-- A right by B[5:0], logical (R73). -/
def aluShr (a b : Word) : Word := a >>> (b.toNat % 64)
/-- A right by B[5:0], arithmetic (R73). -/
def aluSra (a b : Word) : Word := a.sshiftRight (b.toNat % 64)
/-- A rotated left by B[5:0] (R73). -/
def aluRotl (a b : Word) : Word := a.rotateLeft (b.toNat % 64)
/-- unsigned minimum (R73). -/
def aluMin (a b : Word) : Word := if a.toNat ≤ b.toNat then a else b
/-- unsigned maximum (R73). -/
def aluMax (a b : Word) : Word := if a.toNat ≤ b.toNat then b else a
/-- signed minimum (R73). -/
def aluMins (a b : Word) : Word := if a.toInt ≤ b.toInt then a else b
/-- signed maximum (R73). -/
def aluMaxs (a b : Word) : Word := if a.toInt ≤ b.toInt then b else a
/-- pA AND pB (R73). -/
def aluPand (a b : Word) : Word := a &&& b
/-- pA OR pB (R73). -/
def aluPor (a b : Word) : Word := a ||| b
/-- pA XOR pB (R73). -/
def aluPxor (a b : Word) : Word := a ^^^ b
/-- leading zeros; 64 for 0 (R73). -/
def aluClz (a : Word) : Word := BitVec.ofNat 64 (if a = 0 then 64 else 63 - Nat.log2 a.toNat)
/-- trailing zeros; 64 for 0 (R73). -/
def aluCtz (a : Word) : Word := BitVec.ofNat 64 (((List.range 64).find? a.getLsbD).getD 64)
/-- set bits (R73). -/
def aluPopc (a : Word) : Word := BitVec.ofNat 64 ((List.range 64).countP a.getLsbD)
/-- the 64 bits reversed (R73). -/
def aluBrev (a : Word) : Word := a.reverse
/-- the 8 bytes reversed (R73). -/
def aluBswap (a : Word) : Word := wordLE (leBytes 8 a).reverse
/-- NOT pA (R73). -/
def aluPnot (a : Word) : Word := a ^^^ 1

/-- R74: a quotient or remainder; `none` where the divisor is 0. -/
def aluDiv (a b : Word) : Word := if b = 0 then BitVec.allOnes 64 else BitVec.ofNat 64 (a.toNat / b.toNat)
def aluRem (a b : Word) : Word := if b = 0 then a else BitVec.ofNat 64 (a.toNat % b.toNat)
/-- Truncated toward zero; −2^63 by −1 wraps to −2^63 (R74). -/
def aluDivs (a b : Word) : Word := if b = 0 then BitVec.allOnes 64 else BitVec.ofInt 64 (a.toInt.tdiv b.toInt)
/-- The sign of the dividend (R74). -/
def aluRems (a b : Word) : Word := if b = 0 then a else BitVec.ofInt 64 (a.toInt.tmod b.toInt)

/-- The bits of a field that exist (R75). -/
def fieldLen (pos lenM1 : BitVec 6) : Nat := min (lenM1.toNat + 1) (64 - pos.toNat)
/-- BEXT (R75). -/
def aluBext (sx : Bool) (a : Word) (pos lenM1 : BitVec 6) : Word :=
  let n := fieldLen pos lenM1
  let x := a.toNat / 2 ^ pos.toNat % 2 ^ n
  if sx && 2 ^ (n - 1) ≤ x then BitVec.ofNat 64 (x + (2 ^ 64 - 2 ^ n)) else BitVec.ofNat 64 x
/-- BINS (R75). -/
def aluBins (a b : Word) (pos lenM1 : BitVec 6) : Word :=
  let n := fieldLen pos lenM1
  let m : Word := BitVec.ofNat 64 ((2 ^ n - 1) * 2 ^ pos.toNat)
  (a &&& ~~~m) ||| ((b <<< pos.toNat) &&& m)

/-- The conditions of CMP and CMPI (R76). -/
def condOk (cc : Cond) (a b : Word) : Bool :=
  match cc with
  | .eq => a = b
  | .ne => a != b
  | .lt => decide (a.toInt < b.toInt)
  | .ge => decide (b.toInt ≤ a.toInt)
  | .ltu => decide (a.toNat < b.toNat)
  | .geu => decide (b.toNat ≤ a.toNat)
  | .tst => (a &&& b) != 0
  | .ntst => (a &&& b) = 0
/-- A truth value as a predicate's data. -/
def boolWord (b : Bool) : Word := if b then 1 else 0

/-! ### Class 0 -/

def execAdd (p : Pred) (d a b : Reg) (s : State) : Out := alu2 s (.add p d a b) p d a b aluAdd
def execSub (p : Pred) (d a b : Reg) (s : State) : Out := alu2 s (.sub p d a b) p d a b aluSub
def execMul (p : Pred) (d a b : Reg) (s : State) : Out := alu2 s (.mul p d a b) p d a b aluMul
def execMulh (p : Pred) (d a b : Reg) (s : State) : Out := alu2 s (.mulh p d a b) p d a b aluMulh
def execMulhs (p : Pred) (d a b : Reg) (s : State) : Out := alu2 s (.mulhs p d a b) p d a b aluMulhs
def execAnd (p : Pred) (d a b : Reg) (s : State) : Out := alu2 s (.and p d a b) p d a b aluAnd
def execOr (p : Pred) (d a b : Reg) (s : State) : Out := alu2 s (.or p d a b) p d a b aluOr
def execXor (p : Pred) (d a b : Reg) (s : State) : Out := alu2 s (.xor p d a b) p d a b aluXor
def execAndn (p : Pred) (d a b : Reg) (s : State) : Out := alu2 s (.andn p d a b) p d a b aluAndn
def execShl (p : Pred) (d a b : Reg) (s : State) : Out := alu2 s (.shl p d a b) p d a b aluShl
def execShr (p : Pred) (d a b : Reg) (s : State) : Out := alu2 s (.shr p d a b) p d a b aluShr
def execSra (p : Pred) (d a b : Reg) (s : State) : Out := alu2 s (.sra p d a b) p d a b aluSra
def execRotl (p : Pred) (d a b : Reg) (s : State) : Out := alu2 s (.rotl p d a b) p d a b aluRotl
def execMin (p : Pred) (d a b : Reg) (s : State) : Out := alu2 s (.min p d a b) p d a b aluMin
def execMax (p : Pred) (d a b : Reg) (s : State) : Out := alu2 s (.max p d a b) p d a b aluMax
def execMins (p : Pred) (d a b : Reg) (s : State) : Out := alu2 s (.mins p d a b) p d a b aluMins
def execMaxs (p : Pred) (d a b : Reg) (s : State) : Out := alu2 s (.maxs p d a b) p d a b aluMaxs
def execPand (p : Pred) (d a b : Reg) (s : State) : Out := alu2 s (.pand p d a b) p d a b aluPand
def execPor (p : Pred) (d a b : Reg) (s : State) : Out := alu2 s (.por p d a b) p d a b aluPor
def execPxor (p : Pred) (d a b : Reg) (s : State) : Out := alu2 s (.pxor p d a b) p d a b aluPxor
def execClz (p : Pred) (d a : Reg) (s : State) : Out := alu1 s (.clz p d a) p d a aluClz
def execCtz (p : Pred) (d a : Reg) (s : State) : Out := alu1 s (.ctz p d a) p d a aluCtz
def execPopc (p : Pred) (d a : Reg) (s : State) : Out := alu1 s (.popc p d a) p d a aluPopc
def execBrev (p : Pred) (d a : Reg) (s : State) : Out := alu1 s (.brev p d a) p d a aluBrev
def execBswap (p : Pred) (d a : Reg) (s : State) : Out := alu1 s (.bswap p d a) p d a aluBswap
def execPnot (p : Pred) (d a : Reg) (s : State) : Out := alu1 s (.pnot p d a) p d a aluPnot

/-- A division: a zero divisor traps under DZT, and D is then not written (R74). -/
def aluDivide (s : State) (i : Instr) (p : Pred) (d a b : Reg) (f : Word → Word → Word) : Out :=
  guarded p s (fun th => operands s th i [a, b] (some d) (fun s' vs =>
    if vs.getD 1 0 = 0 && th.scr.fctl.getLsbD 9 then trap s s.cur ⟨0x33, 0, 0⟩
    else setD s' d (f (vs.getD 0 0) (vs.getD 1 0))))
def execDiv (p : Pred) (d a b : Reg) (s : State) : Out := aluDivide s (.div p d a b) p d a b aluDiv
def execDivs (p : Pred) (d a b : Reg) (s : State) : Out := aluDivide s (.divs p d a b) p d a b aluDivs
def execRem (p : Pred) (d a b : Reg) (s : State) : Out := aluDivide s (.rem p d a b) p d a b aluRem
def execRems (p : Pred) (d a b : Reg) (s : State) : Out := aluDivide s (.rems p d a b) p d a b aluRems

def execBext (p : Pred) (sx : Bool) (d a : Reg) (pos lenM1 : BitVec 6) (s : State) : Out :=
  alu1 s (.bext p sx d a pos lenM1) p d a (fun x => aluBext sx x pos lenM1)
def execBins (p : Pred) (d a b : Reg) (pos lenM1 : BitVec 6) (s : State) : Out :=
  alu2 s (.bins p d a b pos lenM1) p d a b (fun x y => aluBins x y pos lenM1)
/-- D ← A if pC = 1, else B (R73). -/
def execSel (p : Pred) (d a b c : Reg) (s : State) : Out :=
  guarded p s (fun th => operands s th (.sel p d a b c) [a, b, c] (some d)
    (fun s vs => setD s d (if vs.getD 2 0 = 1 then vs.getD 0 0 else vs.getD 1 0)))
def execCmp (p : Pred) (cc : Cond) (d a b : Reg) (s : State) : Out :=
  alu2 s (.cmp p cc d a b) p d a b (fun x y => boolWord (condOk cc x y))
/-- D ← A; a predicate destination takes bit 0 (R73). -/
def execMov (p : Pred) (d a : Reg) (s : State) : Out := alu1 s (.mov p d a) p d a id
/-- D ← A + (B << s) + SignExtend(off, 16) (R73). -/
def execLea (p : Pred) (d a b : Reg) (sh : Fin 7) (off : BitVec 16) (s : State) : Out :=
  alu2 s (.lea p d a b sh off) p d a b (fun x y => x + (y <<< sh.val) + off.signExtend 64)

/-! ### Class 1 (R78) -/

def execAddi (p : Pred) (d a : Reg) (imm : BitVec 48) (s : State) : Out :=
  alu1 s (.addi p d a imm) p d a (fun x => aluAdd x (imm.signExtend 64))
def execMuli (p : Pred) (d a : Reg) (imm : BitVec 48) (s : State) : Out :=
  alu1 s (.muli p d a imm) p d a (fun x => aluMul x (imm.signExtend 64))
def execAndi (p : Pred) (d a : Reg) (imm : BitVec 48) (s : State) : Out :=
  alu1 s (.andi p d a imm) p d a (fun x => aluAnd x (imm.signExtend 64))
def execOri (p : Pred) (d a : Reg) (imm : BitVec 48) (s : State) : Out :=
  alu1 s (.ori p d a imm) p d a (fun x => aluOr x (imm.signExtend 64))
def execXori (p : Pred) (d a : Reg) (imm : BitVec 48) (s : State) : Out :=
  alu1 s (.xori p d a imm) p d a (fun x => aluXor x (imm.signExtend 64))
def execShli (p : Pred) (d a : Reg) (n : BitVec 6) (s : State) : Out :=
  alu1 s (.shli p d a n) p d a (fun x => aluShl x (n.setWidth 64))
def execShri (p : Pred) (d a : Reg) (n : BitVec 6) (s : State) : Out :=
  alu1 s (.shri p d a n) p d a (fun x => aluShr x (n.setWidth 64))
def execSrai (p : Pred) (d a : Reg) (n : BitVec 6) (s : State) : Out :=
  alu1 s (.srai p d a n) p d a (fun x => aluSra x (n.setWidth 64))
def execCmpi (p : Pred) (cc : Cond) (d a : Reg) (imm : BitVec 48) (s : State) : Out :=
  alu1 s (.cmpi p cc d a imm) p d a (fun x => boolWord (condOk cc x (imm.signExtend 64)))
def execMovi (p : Pred) (d : Reg) (imm : BitVec 48) (s : State) : Out :=
  guarded p s (fun th => operands s th (.movi p d imm) [] (some d) (fun s _ => setD s d (imm.signExtend 64)))
/-- D ← h ‖ A[47:0]. -/
def execMovhi (p : Pred) (d a : Reg) (h : BitVec 16) (s : State) : Out :=
  alu1 s (.movhi p d a h) p d a (fun x => h ++ x.setWidth 48)
/-- D ← PC + imm. -/
def execLeai (p : Pred) (d : Reg) (imm : BitVec 48) (s : State) : Out :=
  guarded p s (fun th => operands s th (.leai p d imm) [] (some d) (fun s _ => setD s d (th.pc + imm.signExtend 64)))

end Sys2Proof.Machine
end

