-- ==== Sys2Proof/Machine/Uses.lean ====
section
/-! DEFINITION. What an instruction reads and writes, as the issue logic needs it: registers with presence bits (R144), the
destination a pair may not share (R24), and the counters it raises (R61, R63). -/
namespace Sys2Proof.Machine
open Sys2Proof

/-- Registers read, and registers written. -/
structure Uses where
  rd : List Reg
  wr : List Reg
deriving DecidableEq, Repr

def VSrc.regs : VSrc → List Reg
  | .vec r => [r]
  | .bs r => [r]
  | .imm _ => []
def ShufMode.regs : ShufMode → List Reg
  | .idx b => [b]
  | _ => []
def MemArg.regs (m : MemArg) : List Reg := [m.a, m.b]
/-- The descriptors that are read: not those of a kept side (R116). -/
def MmaArg.regs (o : MmaArg) : List Reg :=
  (if o.keepA then [] else [o.a]) ++ (if o.keepB then [] else [o.b]) ++ o.mask.toList

/-- The registers an instruction reads and writes. -/
def usesOf : Instr → Uses
  | .add _ d a b | .sub _ d a b | .mul _ d a b | .mulh _ d a b | .mulhs _ d a b | .div _ d a b | .divs _ d a b
  | .rem _ d a b | .rems _ d a b | .and _ d a b | .or _ d a b | .xor _ d a b | .andn _ d a b | .shl _ d a b
  | .shr _ d a b | .sra _ d a b | .rotl _ d a b | .min _ d a b | .max _ d a b | .mins _ d a b | .maxs _ d a b
  | .pand _ d a b | .por _ d a b | .pxor _ d a b => ⟨[a, b], [d]⟩
  | .clz _ d a | .ctz _ d a | .popc _ d a | .brev _ d a | .bswap _ d a | .pnot _ d a | .mov _ d a => ⟨[a], [d]⟩
  | .bext _ _ d a _ _ => ⟨[a], [d]⟩
  | .bins _ d a b _ _ => ⟨[a, b], [d]⟩
  | .sel _ d a b c => ⟨[a, b, c], [d]⟩
  | .cmp _ _ d a b => ⟨[a, b], [d]⟩
  | .lea _ d a b _ _ => ⟨[a, b], [d]⟩
  | .addi _ d a _ | .muli _ d a _ | .andi _ d a _ | .ori _ d a _ | .xori _ d a _ => ⟨[a], [d]⟩
  | .shli _ d a _ | .shri _ d a _ | .srai _ d a _ => ⟨[a], [d]⟩
  | .cmpi _ _ d a _ => ⟨[a], [d]⟩
  | .movi _ d _ => ⟨[], [d]⟩
  | .movhi _ d a _ => ⟨[a], [d]⟩
  | .leai _ d _ => ⟨[], [d]⟩
  | .fadd _ _ _ d a b | .fsub _ _ _ d a b | .fmul _ _ _ d a b | .fdiv _ _ _ d a b => ⟨[a, b], [d]⟩
  | .fma _ _ _ d a b c | .fnma _ _ _ d a b c => ⟨[a, b, c], [d]⟩
  | .fsqrt _ _ _ d a => ⟨[a], [d]⟩
  | .fmin _ _ d a b | .fmax _ _ d a b => ⟨[a, b], [d]⟩
  | .fabs _ _ d a | .fneg _ _ d a | .fclass _ _ d a => ⟨[a], [d]⟩
  | .fcmp _ _ _ d a b => ⟨[a, b], [d]⟩
  | .fcvt _ _ _ rm d a c _ => ⟨if rm = .sr then [a, c] else [a], [d]⟩
  | .jmpr _ a _ => ⟨[a], []⟩
  | .callr _ a _ => ⟨[a], [.w 47]⟩
  | .call _ _ => ⟨[], [.w 47]⟩
  | .ret _ => ⟨[.w 15], []⟩
  | .loop _ d _ => ⟨[d], [d]⟩
  | .ld _ _ _ d m | .lda _ _ _ _ d m => ⟨MemArg.regs m, [d]⟩
  | .ldfe _ _ d m | .ldff _ _ d m => ⟨MemArg.regs m, [d]⟩
  | .st _ _ d m | .stl _ _ _ d m => ⟨MemArg.regs m ++ [d], []⟩
  | .stfe _ _ d m | .stff _ _ d m => ⟨MemArg.regs m ++ [d], []⟩
  | .feset _ m | .feclr _ m | .cflush _ _ m => ⟨MemArg.regs m, []⟩
  | .waita _ _ _ _ m b => ⟨[m.a, b], []⟩
  | .amo _ _ _ _ _ _ d m b | .amof _ _ _ _ d m b | .fraddM _ _ _ _ d m b => ⟨[m.a, b], [d]⟩
  | .cas _ _ _ _ _ d m b => ⟨[m.a, b, d], [d]⟩
  | .frrdM _ _ _ _ _ d m => ⟨[m.a], [d]⟩
  | .arrive _ d _ | .bar _ d _ => ⟨[], [d]⟩
  | .bwait _ _ a => ⟨[a], []⟩
  | .chstat _ d _ => ⟨[], [d]⟩
  | .vadd _ _ _ _ d a b | .vsub _ _ _ _ d a b | .vmul _ _ _ _ d a b => ⟨a :: VSrc.regs b, [d]⟩
  | .vfma _ _ _ d a b c => ⟨a :: VSrc.regs b ++ [c], [d]⟩
  | .vmin _ _ _ d a b | .vmax _ _ _ d a b | .vand _ _ _ d a b | .vor _ _ _ d a b | .vxor _ _ _ d a b
  | .vshl _ _ _ d a b | .vshr _ _ _ d a b | .vsra _ _ _ d a b => ⟨a :: VSrc.regs b, [d]⟩
  | .vcmp _ _ _ _ d a b => ⟨a :: VSrc.regs b, [d]⟩
  | .vabs _ _ _ _ d a | .vneg _ _ _ _ d a => ⟨[a], [d]⟩
  | .vsel _ _ _ d a b _ => ⟨[a, b], [d]⟩
  | .vcvt _ _ _ _ d a _ => ⟨[a], [d]⟩
  | .vred _ _ _ _ _ d a => ⟨[a], [d]⟩
  | .vshuf _ mode _ _ d a => ⟨a :: ShufMode.regs mode, [d]⟩
  | .vbcast _ _ _ d a => ⟨[a], [d]⟩
  | .vins _ _ d a _ | .vext _ _ d a _ => ⟨[a], [d]⟩
  | .vld _ d m | .vldg _ d m => ⟨[m.a, m.b], [d]⟩
  | .vst _ d m | .vsts _ d m => ⟨[m.a, m.b, d], []⟩
  | .vrcp _ _ _ d a | .vrsq _ _ _ d a | .vexp2 _ _ _ d a | .vlog2 _ _ _ d a => ⟨[a], [d]⟩
  | .vrng _ _ d a => ⟨[a], [d]⟩
  | .vsr _ _ _ d a b _ => ⟨[a, b], [d]⟩
  | .vquant _ _ vm d a b c => ⟨if vm.rm = .sr then [a, b, c] else [a, b], [d]⟩
  | .vdeq _ _ _ d a _ => ⟨[a], [d]⟩
  | .vdrop _ _ _ d a b c _ => ⟨[a, b, c], [d]⟩
  | .mma _ o => ⟨MmaArg.regs o, []⟩
  | .mmag _ o e => ⟨MmaArg.regs o ++ (if o.keepA then [] else [e]), []⟩
  | .accst _ _ _ _ a _ mask => ⟨a :: mask.toList, []⟩
  | .accld _ _ _ a mask => ⟨a :: mask.toList, []⟩
  | .latch _ _ _ _ _ a mask => ⟨a :: mask.toList, []⟩
  | .fmtsetReg _ _ a => ⟨[a], []⟩
  | .fmtget _ d _ => ⟨[], [d]⟩
  | .frsend _ a _ _ mask | .nred _ a _ _ mask => ⟨a :: mask.toList, []⟩
  | .frwait _ _ a => ⟨[a], []⟩
  | .cpy _ _ _ d a b c => ⟨a :: (b.toList ++ c.toList), [d]⟩
  | .ctest _ _ d a | .cwait _ d a | .ccancel _ d a => ⟨[a], [d]⟩
  | .publish _ a b => ⟨[a, b], []⟩
  | .publishG _ a b c => ⟨[a, b, c], []⟩
  | .bankcfg _ a => ⟨[a], []⟩
  | .spawn _ _ d a b c => ⟨[a, b, c, .w 32, .w 33, .w 34, .w 35], [d]⟩
  | .spawnat _ d a b c e => ⟨[a, b, c, e, .w 32, .w 33, .w 34, .w 35], [d]⟩
  | .join _ a => ⟨[a], []⟩
  | .yieldTok _ _ d a => ⟨[a], [d]⟩
  | .yieldWord _ _ _ _ a b => ⟨[a, b], []⟩
  | .yoke _ d => ⟨[], [d]⟩
  | .xmovFrom _ d _ => ⟨[], [d]⟩
  | .xmovTo _ _ a => ⟨[a], []⟩
  | .migrate _ d a => ⟨[a], [d]⟩
  | .startCtx _ d a b | .startFrame _ d a b => ⟨[a, b], [d]⟩
  | .reap _ d a => ⟨[a], [d]⟩
  | .srd _ d _ => ⟨[], [d]⟩
  | .swr _ _ a => ⟨[a], []⟩
  | .tlbinv _ _ a b => ⟨[a, b], []⟩
  | .digestN _ d a b => ⟨[a, b], [d]⟩
  | .digestT _ d _ => ⟨[], [d]⟩
  | .dgchk _ a b _ => ⟨[a, b], []⟩
  | .selftest _ d a => ⟨[a], [d]⟩
  | _ => ⟨[], []⟩

/-- The join address of the inline task whose frame is the current one (R299). -/
def inlineJoin (th : Thread) : Option Word := (th.inlines.find? (fun x => x.1 = th.depth)).map Prod.snd
/-- QUIT of an inline task reads w15, to which it returns (R299). -/
def quitReads (th : Thread) : Instr → List Reg
  | .quit _ => if (inlineJoin th).isSome then [.w 15] else []
  | _ => []
/-- Registers whose presence bit the instruction needs (R144). -/
def needs (th : Thread) (i : Instr) : List RegId := ((usesOf i).rd ++ (usesOf i).wr ++ quitReads th i).filterMap (regId th)

/-- The registers the instruction needs that are not present. -/
def missing (th : Thread) (i : Instr) : List RegId := (needs th i).filter (fun r => r ∈ th.absent)

/-- The predicate of an instruction of the core. -/
def predicate (i : Instr) : Pred := ((toFields i).map Fields.p).getD ⟨0, false⟩

/-- The counter an instruction raises at its issue (R61). -/
def raises : Instr → Option OpKind
  | .ld _ _ _ _ m => if m.near then some .ld else none
  | .ldfe _ _ _ m | .ldff _ _ _ m => if m.near then some .ld else none
  | .vld _ _ m | .vldg _ _ m => if m.near then some .ld else none
  | .amo _ _ _ _ _ _ _ m _ | .amof _ _ _ _ _ m _ | .fraddM _ _ _ _ _ m _ => if m.near then some .ld else none
  | .cas _ _ _ _ _ _ m _ => if m.near then some .ld else none
  | .frrdM _ _ _ _ _ _ m => if m.near then some .ld else none
  | .st _ _ _ _ | .stl _ _ _ _ _ | .vst _ _ _ | .vsts _ _ _ | .cflush _ _ _ => some .st
  | .stfe _ _ _ m | .stff _ _ _ m => if m.near then some .st else none
  | .feset _ m | .feclr _ m => if m.near then none else some .st
  | .frsend _ _ _ _ _ | .nred _ _ _ _ _ | .spawnat _ _ _ _ _ _ => some .msg
  | .accst _ _ _ _ _ _ _ | .accld _ _ _ _ _ => some .tl
  | .cpy _ _ _ _ _ _ _ => some .cp
  | _ => none

def countOf (k : OpKind) (th : Thread) : Nat :=
  match k with
  | .ld => th.ld
  | .st | .msg => th.st
  | .cp => th.cp
  | .tl => th.tl
  | .dec | .part => 0

/-- The register that an instruction of a pair writes, when it is able to write it (R24, R35). -/
def pairDest (i : Instr) : Option Reg :=
  match (usesOf i).wr with
  | r :: _ => match r with
    | .g n => if n = 0 then none else some r
    | .p n => if n = 0 then none else some r
    | .m n => if n = 0 then none else some r
    | _ => some r
  | [] => match i with
    | .mma _ o | .mmag _ o _ => some o.d
    | .accz _ d _ | .accmv _ d _ | .accadd _ d _ => some d
    | .accld _ _ d _ _ => some d
    | .fmtsetReg _ d _ | .fmtsetPreset _ d _ _ _ => some d
    | _ => none

end Sys2Proof.Machine
end

