-- ==== Sys2Proof/Machine/Fetch.lean ====
section
/-! DEFINITION. The fetch line: its word, parity and pairing template, the line buffer, and the arrival of a fetched line
(R17-R27, R38, R69). -/
namespace Sys2Proof.Machine
open Sys2Proof

/-! ### The line (R17-R22) -/

def lineVa (pc : Word) : Word := pc &&& ~~~(63 : Word)
def lineWord (d : Line) : BitVec 32 := d.setWidth 32
def lineInstr (d : Line) (i : Nat) : IWord := d.extractLsb' (32 + 96 * i) 96
/-- The position of a pc in its line, if its offset is one of the five legal values (R20). -/
def linePos (pc : Word) : Option Nat :=
  let o := pc.toNat % 64
  if o % 12 = 4 then some (o / 12) else none
def parityOf {n : Nat} (x : BitVec n) : Bool := (List.range n).foldl (fun p i => p != x.getLsbD i) false
/-- The instruction's parity bit disagrees (R19). -/
def wordParityBad (d : Line) (i : Nat) : Bool := parityOf (lineInstr d i) != (lineWord d).getLsbD (9 + i)
/-- The line word's own parity bit disagrees (R19). -/
def lineParityBad (d : Line) : Bool := parityOf (lineWord d)
def pairBit (d : Line) (j : Nat) : Bool := j < 4 && (lineWord d).getLsbD (5 + j)
def targetBit (d : Line) (i : Nat) : Bool := (lineWord d).getLsbD i

/-- A line word with the parity bits of R19, for a target mask and pairing template. -/
def sealLine (mask template : Nat) (ws : List IWord) : Line :=
  let lo := mask % 32 + template % 16 * 32 + ((List.range 5).foldl (fun n i => n + boolNat (parityOf (ws.getD i 0)) * 2 ^ (9 + i)) 0)
  let lw := lo + boolNat (parityOf (BitVec.ofNat 14 lo)) * 2 ^ 14
  (List.range 5).foldl (fun d i => d ||| ((ws.getD i 0).setWidth 512 <<< (32 + 96 * i))) (BitVec.ofNat 512 lw)

/-! ### Malformed lines (R22-R24, R27) -/

/-- The class of a word: OP[95:93]. -/
def classOf (w : IWord) : Nat := (w.extractLsb' 93 3).toNat
def badClasses (d : Line) (j : Nat) : Bool :=
  pairBit d j && !(classOf (lineInstr d j) < 3 && 4 ≤ classOf (lineInstr d (j + 1)) && classOf (lineInstr d (j + 1)) < 7)
/-- Both instructions of a pair write one register (R24). DESIGN CHOICE (103): R24 decides this from the encodings and says nothing of a
pair one of whose words is illegal; such a pair is not judged here, and the illegal word takes its trap 0x01 at issue. -/
def badDests (d : Line) (j : Nat) : Bool :=
  pairBit d j && match decode (lineInstr d j), decode (lineInstr d (j + 1)) with
    | .ok a, .ok b => match pairDest a, pairDest b with
      | some x, some y => x = y
      | _, _ => false
    | _, _ => false
/-- The lowest code of R27 that applies to the line, if it is malformed. -/
def malformed (d : Line) : Option Nat :=
  let js := List.range 4
  if js.any (fun j => pairBit d j && pairBit d (j + 1)) then some 1
  else if (lineWord d).extractLsb' 15 17 != 0 then some 2
  else if js.any (badClasses d) then some 3
  else if js.any (badDests d) then some 4
  else if js.any (fun j => pairBit d j && targetBit d (j + 1)) then some 5
  else none

/-- The sequential successor of R20, where a pair counts as one unit (R96). -/
def unitSucc (d : Line) (pc : Word) : Word :=
  match linePos pc with
  | some p => if pairBit d p then succPc (succPc pc) else succPc pc
  | none => succPc pc

/-! ### The line buffer (R38, R69) -/

def findLn (k : Core) (root : Nat) (va : Word) : Option LineEnt := k.lines.find? (fun l => l.root = root && l.va = va)

/-- Adds an arrived line: 128 lines, least recently issued from replaced, lowest index first (R69). -/
def addLn (k : Core) (n : LineEnt) : Core :=
  let ls := k.lines.filter (fun l => !(l.root = n.root && l.va = n.va))
  if ls.length < 128 then { k with lines := ls ++ [n] }
  else match oldest LineEnt.lastUse ls with
    | some v => { k with lines := ls.map (fun l => if l = v then n else l) }
    | none => k

/-- Asks the fetch port for a line (R69). -/
def askLine (s : State) (t : TId) (va : Word) : State :=
  modCore s t.core (fun k => if k.lineReqs.any (fun x => x = (t.slot, va)) then k else { k with lineReqs := k.lineReqs ++ [(t.slot, va)] })

def fetchXl (root : Nat) (va : Word) : Xl := ⟨root, va, false, false, false, true, false, false, 0⟩

/-- Settles a fetch translation at its end: the TLBs are filled by a granted leaf (R381, R441). -/
def fetchSettle (s : State) (core : Nat) (x : Xl) : State × XRes :=
  let g := clusterOf core
  match xlate s core x with
  | .wait _ =>
    match tlbHit (clusterAt s g).tlb x.root x.va with
    | some e => (fillTlb s core x.root x.va e.leaf e.level, settle s g x e.leaf e.level)
    | none => match walk s x.root x.va with
      | .bad r e lvl => (s, .refuse (xlTrap x 0x10 r (e.toNat % 65536) lvl))
      | .leaf e lvl => match settle s g x e lvl with
        | .ok p e' l' => (fillTlb s core x.root x.va e lvl, .ok p e' l')
        | r => (s, r)
  | r => (touchTlb s core x, r)

/-- A fetch's miss asks for a walk like any other (R380, R441). -/
def fetchWalk (s : State) (core : Nat) (x : Xl) : State :=
  match xlate s core x with
  | .wait d => walkFor s core x d
  | _ => s

/-- The cycles until a requested line arrives (R69): the translation's, then 40 from the cluster cache or the home's time. -/
def fetchDelay (s : State) (core : Nat) (x : Xl) : Nat :=
  let g := clusterOf core
  let far (p : Place) : Nat := if (findLine (clusterAt s g) p).isSome then 40 else farTime g p false
  match xlate s core x with
  | .wait d => match tlbHit (clusterAt s g).tlb x.root x.va with
    | some e => match settle s g x e.leaf e.level with
      | .ok p _ _ => d + far p
      | _ => d
    | none => match walk s x.root x.va with
      | .bad _ _ _ => d
      | .leaf e lvl => match settle s g x e lvl with
        | .ok p _ _ => d + far p
        | _ => d
  | .ok p _ _ => far p
  | _ => 1

/-- A thread parked for a line goes on. -/
def wakeForLine (s : State) (t : TId) : State :=
  modThread s t (fun th => match th.park with
    | some p => if p.why = .line then { th with park := some { p with why := .until s.now, since := s.now } } else th
    | none => th)

/-- A refused fetch (R441): trap 0x06 at once where the thread stands at the line, a deferred fault before it (R424); a thread
parked for the line finds the refusal; a line asked for ahead is asked for again. -/
def refuseLine (s : State) (t : TId) (th : Thread) (va : Word) (info : Word) : State :=
  match th.park with
  | some p => if p.why = .line then wakeForLine (modThread s t (fun th => { th with fetchFault := some info })) t else s
  | none =>
    if th.stopped.isSome || lineVa th.pc != va then s
    else match th.deferred with
      | d :: rest => trap (setThread s t { th with deferred := rest }) t d
      | [] => trap s t ⟨0x06, th.pc, info⟩

/-- A line of the downloaded firmware, which the steward of a core runs from the boot on (R5, R427, R428). DESIGN CHOICE (97): the spec
gives neither its place nor its entry, so both are free, and a line of it takes the HBM time of R62. -/
def firmwareLine (s : State) (t : TId) (va : Word) : Option Line :=
  if t.slot != 0 || decide (s.boot.step < 4) then none
  else
    let off := (va - Config.stewardBase).toNat
    if off + 64 ≤ s.boot.imageLen.getD 0 then some (bytesLine ((List.range 64).map (fun i => (look (off + i) s.boot.image).getD 0))) else none
def firmwareDelay : Nat := 420
/-- A line is in the buffer, and a thread parked for it goes on. -/
def lineThere (s : State) (t : TId) (root : Nat) (va : Word) (d : Line) : State :=
  let s := modCore s t.core (fun k => addLn k ⟨root, va, d, s.now⟩)
  wakeForLine (modThread s t (fun th => { th with fetchFault := none })) t

/-- A fetched line arrives, or its translation is refused (R69, R441). -/
def arriveLine (s : State) (t : TId) (va : Word) : State :=
  match thread? s t with
  | none => s
  | some th =>
    let root := rootOf s th
    match firmwareLine s t va with
    | some d => lineThere s t root va d
    | none =>
    match fetchSettle s t.core (fetchXl root va) with
    | (s, .ok p _ _) =>
      if (findLn (coreAt s t.core) root va).isSome && !th.refetch then wakeForLine s t
      else
        let bs := (List.range 8).flatMap (fun i => cacheBytes s (clusterOf t.core) (placeAdd p (8 * i)) 8)
        lineThere s t root va (bytesLine bs)
    | (s, .refuse ti) => refuseLine s t th va ti.info
    | (s, .wait d) => later s d (.lineFetchArrival t va)
    | (s, .peerMiss _ _) => s
    | (s, .held) => later s 1 (.lineFetchArrival t va)

/-- LINE_FETCH_ARRIVAL. -/
def execLineFetchArrival (t : TId) (va : Word) (s : State) : Out := .next (arriveLine s t va)

end Sys2Proof.Machine
end

