-- ==== Sys2Proof/Machine/Control.lean ====
section
/-! DEFINITION. Class 3: control transfer, the register window's CALL and RET, TRAP, ERET and ALIGN (R36, R37, R86-R96). QUIT
stands with the tasks. -/
namespace Sys2Proof.Machine
open Sys2Proof

/-- A transfer to a checked target (R21). -/
def jumpTo (s : State) (pc : Word) : State := finishAt s s.cur pc true

def execNop (p : Pred) (s : State) : Out := guarded p s (fun _ => advance s s.cur)
def execBr (p : Pred) (off : BitVec 48) (s : State) : Out := guarded p s (fun th => jumpTo s (th.pc + off.signExtend 64))
def execJmp (p : Pred) (addr : BitVec 48) (s : State) : Out := guarded p s (fun _ => jumpTo s (addr.signExtend 64))
def execJmpr (p : Pred) (a : Reg) (off : BitVec 16) (s : State) : Out :=
  guarded p s (fun th => operands s th (.jmpr p a off) [a] none (fun s vs => jumpTo s (vs.getD 0 0 + off.signExtend 64)))

/-- D ← D − 1; while it is not 0 the loop goes on (R87). -/
def execLoop (p : Pred) (d : Reg) (off : BitVec 48) (s : State) : Out :=
  guarded p s (fun th => operands s th (.loop p d off) [d] (some d) (fun s vs =>
    let v := vs.getD 0 0 - 1
    let s := writeD s s.cur d v
    if v = 0 then advance s s.cur else jumpTo s (th.pc + off.signExtend 64)))

/-! ### The window (R88-R90) -/

/-- scr.einfo of traps 0x40 and 0x41 (R90). -/
def windowInfo (th : Thread) (reason : Nat) : Word := BitVec.ofNat 64 (th.depth + nres th * 2 ^ 16 + reason * 2 ^ 20)

/-- The window one frame up: w0-w15 are the old w32-w47, w16-w47 are 0 (R89). -/
def slideUp (th : Thread) : Thread :=
  { th with lower := Vector.ofFn (fun i : Fin 32 => th.w[i]) :: th.lower, depth := th.depth + 1
            w := Vector.ofFn (fun i : Fin 48 => if h : i.val < 16 then th.w[32 + i.val] else 0) }

/-- The window one frame down (R90): w32-w47 are the old w0-w15; none where no frame is resident below. -/
def slideDown (th : Thread) : Option Thread :=
  match th.lower with
  | [] => none
  | f :: r => some { th with lower := r, depth := th.depth - 1, inlines := th.inlines.filter (fun x => x.1 < th.depth)
                             w := Vector.ofFn (fun i : Fin 48 => if h : i.val < 32 then f[i.val] else th.w[i.val - 32]) }

/-- The absolute registers that a slide makes fresh: w16-w47 of the next frame. -/
def freshLo (th : Thread) : Nat := (th.depth + 1) * 32 + 16
def freshHi (th : Thread) : Nat := (th.depth + 1) * 32 + 47
/-- An outstanding load targets one of these registers. -/
def loadsInto (th : Thread) (lo hi : Nat) : Bool :=
  th.absent.any (fun r => match r with
    | .w a => decide (lo ≤ a) && decide (a ≤ hi)
    | _ => false)

/-- CALL and CALLR to a target (R89). -/
def callTo (s : State) (th : Thread) (i : Instr) (target : Word) : State :=
  if nres th = 6 then trap s s.cur ⟨0x40, 0, windowInfo th 0⟩
  else if th.depth = 65535 then trap s s.cur ⟨0x40, 0, windowInfo th 1⟩
  else if loadsInto th (freshLo th) (freshHi th) then park s s.cur (.loadsLand (freshLo th) (freshHi th)) (some i)
  else jumpTo (modThread s s.cur (fun th => slideUp { th with w := th.w.set 47 (succPc th.pc) })) target

def execCall (p : Pred) (off : BitVec 48) (s : State) : Out :=
  guarded p s (fun th => callTo s th (.call p off) (th.pc + off.signExtend 64))
def execCallr (p : Pred) (a : Reg) (off : BitVec 16) (s : State) : Out :=
  guarded p s (fun th => operands s th (.callr p a off) [a] none (fun s' vs =>
    if nres th = 6 || th.depth = 65535 then callTo s th (.callr p a off) 0
    else callTo (keeping s' vs) th (.callr p a off) (vs.getD 0 0 + off.signExtend 64)))

/-- RET (R90): only the target's offset is checked. -/
def execRet (p : Pred) (s : State) : Out :=
  guarded p s (fun th =>
    if th.depth = 0 then trap s s.cur ⟨0x41, 0, windowInfo th 1⟩
    else match slideDown th with
      | none => trap s s.cur ⟨0x41, 0, windowInfo th 0⟩
      | some th' => finishAt (setThread s s.cur th') s.cur th.w[15] false)

/-! ### TRAP, ERET (R95, R96) -/

def execTrap (p : Pred) (n : BitVec 16) (s : State) : Out := guarded p s (fun _ => trap s s.cur ⟨0x7F, 0, n.setWidth 64⟩)

/-- ERET.NEXT reads the pairing template of the line that holds scr.epc, from the line buffer or by a fetch (R96). DESIGN CHOICE (105):
where its check of that line fails with IN = 0, scr.epc becomes the ERET's own pc, since R96 has the ERET take the trap and
R93 saves the trapping instruction's pc; R98's rows for these causes speak of the pc being fetched. -/
def eretNext (s : State) (th : Thread) (i : Instr) : State :=
  let va := lineVa th.scr.epc
  match th.fetchFault with
  | some info => trap (modThread s s.cur (fun th => { th with fetchFault := none })) s.cur ⟨0x06, th.scr.epc, info⟩
  | none => match findLn (coreAt s s.cur.core) (rootOf s th) va with
    | none => askLine (park s s.cur .line (some i)) s.cur va
    | some l =>
      if lineParityBad l.data then
        if th.refetch then trap s s.cur ⟨0x03, va, 0x1F⟩
        else
          let s := modCore s s.cur.core (fun k => { k with lines := k.lines.filter (fun x => x ≠ l) })
          askLine (modThread (park s s.cur .line (some i)) s.cur (fun th => { th with refetch := true })) s.cur va
      else match malformed l.data with
        | some c => trap s s.cur ⟨0x02, va, BitVec.ofNat 64 c⟩
        | none => trapReturn s s.cur (unitSucc l.data th.scr.epc)

def execEret (p : Pred) (next : Bool) (s : State) : Out :=
  guarded p s (fun th => if next then eretNext s th (.eret p next) else trapReturn s s.cur th.scr.epc)

/-- ALIGN (R37): a hint that waits for the launch's threads of the same slot in the cluster, at most 256 cycles. -/
def execAlign (p : Pred) (k : BitVec 16) (s : State) : Out :=
  guarded p s (fun th =>
    if th.cont = 1 then advance s s.cur
    else park (modThread s s.cur (fun th => { th with cont := 1 })) s.cur (.align k) (some (.align p k)))

end Sys2Proof.Machine
end

