-- ==== Sys2Proof/Machine/Log.lean ====
section
/-! DEFINITION. Physical addresses of the device's own agents, ring headers, the event log, and the external ports with what they
send to other packages (R7, R257, R368-R370, R383-R385, R394, R398, R439). -/
namespace Sys2Proof.Machine
open Sys2Proof

/-! ### Physical addresses -/

/-- A global physical address (R7, R257). -/
def physPlace (s : State) (a : Word) : Place :=
  let n := a.toNat % 2 ^ 43
  if a.toNat / 2 ^ 43 = s.pkg then (localPlace n).getD (.hbm n) else .peer (a.toNat / 2 ^ 43) n
def readWord (s : State) (p : Place) (n : Nat) : Nat := ofBytesLE (placeRead s p n)

def zeros (n : Nat) : List Byte := List.replicate n 0

/-! ### Ring headers (R368) -/

/-- The fields of a ring header. -/
structure Ring where
  base : Nat
  size : Nat
  prod : Nat
  cons : Nat
  tags : Nat
deriving DecidableEq, Repr

def isPow2 (n : Nat) : Bool := n != 0 && decide (2 ^ Nat.log2 n = n)
/-- A header's fields, where it keeps R368. -/
def parseRing (bs : List Byte) : Option Ring :=
  let w (i : Nat) : Nat := ofBytesLE ((bs.drop (8 * i)).take 8)
  let r : Ring := ⟨w 0, w 1, w 2, w 3, w 4⟩
  let held := (r.prod + 2 ^ 64 - r.cons) % 2 ^ 64
  if r.base % 4096 = 0 && isPow2 r.size && decide (4096 ≤ r.size) && decide (r.size ≤ 2 ^ 32) && decide (held ≤ r.size)
      && (bs.drop 40).all (fun b => b = 0)
  then some r else none
/-- The bytes that the ring holds. -/
def ringHeld (r : Ring) : Nat := (r.prod + 2 ^ 64 - r.cons) % 2 ^ 64
def ringRoom (r : Ring) (span : Nat) : Bool := decide (ringHeld r + span ≤ r.size)

/-! ### The event log (R439) -/

/-- Lays a record of one granule into a ring as its producer: tag 1, the bytes, tag 2, then PROD (R370). -/
def layRecord (r : Ring) (hdr : Nat) (bs : List Byte) (write : State → Nat → List Byte → Option State) (s : State) : Option State :=
  let pos := r.prod % r.size
  let tag := r.tags + pos / 64
  match write s tag [1] with
  | none => none
  | some s => match write s (r.base + pos) (bs ++ zeros (64 - bs.length)) with
    | none => none
    | some s => match write s tag [2] with
      | none => none
      | some s => write s (hdr + 16) (bytesLE ((r.prod + 64) % 2 ^ 64) 8)

def countLost (s : State) : State := { s with boot := { s.boot with evlost := min 255 (s.boot.evlost + 1) } }
/-- EVENT_LOG_WRITE: the record, or its loss when the ring has no room or is not set. -/
def logEvent (s : State) (kind verdict die cluster index : Nat) (syn : Word) : State :=
  let bs := bytesLE 0x30000020 8 ++ bytesLE s.now 8 ++ [BitVec.ofNat 8 kind, BitVec.ofNat 8 verdict, BitVec.ofNat 8 die, BitVec.ofNat 8 cluster]
    ++ bytesLE index 4 ++ leBytes 8 syn
  let hdr := s.boot.logRing.toNat
  if hdr = 0 then countLost s
  else match parseRing (placeRead s (physPlace s s.boot.logRing) 64) with
    | none => countLost s
    | some r =>
      if !ringRoom r 64 then countLost s
      else (layRecord r hdr bs (fun s a b => some (homeWrite s (physPlace s (BitVec.ofNat 64 a)) b)) s).getD s

/-! ### External ports (R7, R394, R398) -/

def linkAt (s : State) (k : Nat) : LinkDir := (look k s.trust.links).getD linkReset
def setLink (s : State) (k : Nat) (d : LinkDir) : State := { s with trust := { s.trust with links := put k d s.trust.links } }
/-- The last value of a frame counter: nothing more is sent on the port until a new key is installed (R398). -/
def counterEnd : Nat := 2 ^ 54 - 1
/-- A package's field, row and column (R7). -/
def pkgField (p : Nat) : Nat := p / 1024
def pkgX (p : Nat) : Nat := p % 32
def pkgY (p : Nat) : Nat := p / 32 % 32
/-- The direction in which a package of its own field is reached: x before y, the shorter way around, ties +. DESIGN CHOICE (91): the
directions are numbered as a router's ports, 0 N (−y), 1 E (+x), 2 S (+y), 3 W (−x), four mesh ports each. -/
def meshDir (me dst : Nat) : Nat :=
  let dx := (pkgX dst + 32 - pkgX me) % 32
  let dy := (pkgY dst + 32 - pkgY me) % 32
  if dx != 0 then (if dx ≤ 16 then 1 else 3) else if dy ≤ 16 then 2 else 0
/-- The external port by which a flit of cluster `g` leaves for a package: a mesh port, or the uplink of the destination's field. -/
def extPort (s : State) (g dst : Nat) : Nat :=
  if pkgField dst = pkgField s.pkg then meshDir s.pkg dst * 4 + g % 4 else 16 + pkgField dst % 8
/-- A port that is down, or whose sending counter is used up, sends nothing. -/
def portOpen (s : State) (p : Nat) : Bool :=
  let d := linkAt s (p * 2 + 1)
  !(linkAt s (p * 2)).down && !d.down && (d.key.isNone || decide (d.counter < counterEnd))
/-- `n` flits leave by a port. DESIGN CHOICE (91): each is a frame of its own, and a port without a key sends it unprotected. The frame
that uses the counter up raises an event. -/
def countFrames (s : State) (p n : Nat) : State :=
  let d := linkAt s (p * 2 + 1)
  if d.key.isNone || counterEnd ≤ d.counter || n = 0 then s
  else
    let s := setLink s (p * 2 + 1) { d with counter := min counterEnd (d.counter + n) }
    if counterEnd ≤ d.counter + n then logEvent s 4 1 0 0 p 0 else s
/-- A flit of cluster `g` to another package, with what it brings about `d` cycles later. One that its port does not send is lost. -/
def sendExt (s : State) (g dst d : Nat) (ev : Instr) : State :=
  if portOpen s (extPort s g dst) then later (countFrames s (extPort s g dst) 1) d ev else s
/-- A message to another package's agent, kept as sent. DESIGN CHOICE (91): this package's agent sends as cluster 0 does. -/
def sendPeer (s : State) (g dst : Nat) (ev : Instr) : State :=
  let p := extPort s g dst
  if portOpen s p then { countFrames s p 1 with outbox := s.outbox ++ [⟨s.now, p, dst, ev⟩] } else s

/-! ### Peer pages at the exporting package (R383-R385) -/

/-- The export entry of a window frame, read at its home. -/
def exportEntry (s : State) (frame : Nat) : Word := wordLE (placeRead s (physPlace s (s.exportTable + BitVec.ofNat 64 (8 * frame))) 8)
/-- The agent sends an invalidation to every holder of which `f` holds. -/
def sendInvals (s : State) (f : Holder → Bool) : State :=
  (s.holders.filter f).foldl (fun s h => sendPeer s 0 h.pkg (.invalidation s.pkg h.cluster h.frame 1)) s

/-! ### A thread's translations (R384, R393, R441) -/

/-- A translation request of a thread's cluster goes to a peer's agent: half of the 2,800 cycles of R384. One that no port sends is
resent at its timeout (R393). -/
def askPeer (s : State) (t : TId) (pkg fr : Nat) : State :=
  let g := clusterOf t.core
  later (sendExt s g pkg 1400 (.translationRequest false pkg g fr t)) 131072 (.requestTimeout t 2)
/-- Settles a page for the current thread, parking it until then (R441). -/
def withPage (s : State) (t : TId) (i : Instr) (x : Xl) (k : State → Place → Word → Nat → State) : State :=
  match xlate s t.core x with
  | .ok p leaf lvl => k (touchTlb s t.core x) p leaf lvl
  | .refuse ti => trap s t ti
  | .wait d => later (park (walkFor s t.core x d) t (.translation x none) (some i)) d (.walkComplete t)
  | .peerMiss pkg fr =>
    let leaf := (tlbHit (coreAt s t.core).tlb x.root x.va).map (fun e => (e.leaf, e.level))
    askPeer (park s t (.translation x leaf) (some i)) t pkg fr
  | .held => park s t (.pageHeld x.root x.va) (some i)

end Sys2Proof.Machine
end

