-- ==== Sys2Proof/Machine/Wire.lean ====
section
/-! DEFINITION. A flit on the wire: its header as 128 bits, the payloads whose layout the spec gives, and the CRC-32 (R183, R387, R391,
R402). -/
namespace Sys2Proof.Machine
open Sys2Proof

/-! ### Request ids (R387, R391) -/

/-- The request id that an event's flit carries: the source thread and RTAG; 0 for a message that has none. -/
def flitId : Instr → TId × Nat
  | .loadRequest q | .storeRequest q | .atomicRequest q | .fullEmptyRequest q | .waitaRequest q | .withdrawal q | .refusal q
  | .refusalResend q => (q.src, if q.parked then q.tag % 2 else q.tag % 128)
  | .reply t tag _ => (t, tag % 2)
  | .acknowledgement t tag _ | .frameMessage _ _ t tag => (t, tag % 128)
  | _ => (⟨0, 0⟩, 0)

/-- The header of a flit between two routers of the package. -/
def flitHdr (src dst unit kind : Nat) (ev : Instr) : FlitHdr :=
  let id := flitId ev
  ⟨0, dst, src, unit, id.1.core, id.1.slot, id.2, kind, 0, false⟩

/-! ### Payloads (R183, R402) -/

/-- The two words of a furrow message. -/
def furrowWords (m : FurrowMsg) : List Word :=
  [m.chunk, BitVec.ofNat 64 (m.f.toNat * 2 ^ 48 + boolNat m.fd * 2 ^ 47 + m.total.toNat * 2 ^ 35 + (stCode m.state).toNat * 2 ^ 33
    + boolNat m.last * 2 ^ 32 + m.tag.toNat * 2 ^ 24 + m.cell.toNat * 2 ^ 16 + m.exp.toNat)]
/-- Words 2 and 3 of a contribution to a reduction round. -/
def nredWords (m : NredMsg) : List Word :=
  [BitVec.ofNat 64 (m.round.toNat * 2 ^ 44 + m.countM1 % 4096 * 2 ^ 32 + m.group % 4096), BitVec.ofNat 64 (boolNat m.swm * 4096 + m.minm % 4096)]

/-! ### Header and CRC (R387) -/

/-- Bits 127-32 of the header of a flit with `plen` bytes of payload. -/
def hdrBits (h : FlitHdr) (plen : Nat) : BitVec 96 :=
  BitVec.ofNat 12 h.age ++ BitVec.ofNat 7 h.drouter ++ BitVec.ofNat 7 h.srouter ++ BitVec.ofNat 5 h.dunit ++ BitVec.ofNat 11 h.rcore
    ++ BitVec.ofNat 4 h.rslot ++ BitVec.ofNat 7 h.rtag ++ BitVec.ofNat 6 h.kind ++ BitVec.ofNat 6 plen ++ BitVec.ofNat 21 h.pkg
    ++ BitVec.ofBool h.ext ++ 0#9
/-- The header's fields and PLEN. -/
def hdrOf (b : BitVec 96) : FlitHdr × Nat :=
  (⟨(b.extractLsb' 84 12).toNat, (b.extractLsb' 77 7).toNat, (b.extractLsb' 70 7).toNat, (b.extractLsb' 65 5).toNat,
    (b.extractLsb' 54 11).toNat, (b.extractLsb' 50 4).toNat, (b.extractLsb' 43 7).toNat, (b.extractLsb' 37 6).toNat,
    (b.extractLsb' 10 21).toNat, b.getLsbD 9⟩, (b.extractLsb' 31 6).toNat)
/-- The fields of a header keep their widths. -/
def hdrFits (h : FlitHdr) : Bool :=
  decide (h.age < 4096) && decide (h.drouter < 128) && decide (h.srouter < 128) && decide (h.dunit < 32) && decide (h.rcore < 2048)
    && decide (h.rslot < 16) && decide (h.rtag < 128) && decide (h.kind < 64) && decide (h.pkg < 2 ^ 21)

/-- One bit enters the CRC register. -/
def crcBit (c : BitVec 32) (b : Bool) : BitVec 32 := if c.msb != b then c <<< 1 ^^^ 0x04C11DB7#32 else c <<< 1
/-- The bits of a number of `n` bits, highest first. -/
def bitsHigh (n v : Nat) : List Bool := (List.range n).map (fun i => v.testBit (n - 1 - i))
/-- CRC-32 of a header and its payload. DESIGN CHOICE (78): the bits enter highest first, the payload's bytes in their order; where the
register starts and what ends it are free values. -/
def flitCrc (h : FlitHdr) (payload : List Byte) : BitVec 32 :=
  ((bitsHigh 96 (hdrBits h payload.length).toNat ++ payload.flatMap (fun b => bitsHigh 8 b.toNat)).foldl crcBit Config.crcStart) ^^^ Config.crcEnd
/-- The 64 bytes of a flit. -/
def flitBytes (h : FlitHdr) (payload : List Byte) : List Byte :=
  bytesLE ((hdrBits h payload.length).toNat * 2 ^ 32 + (flitCrc h payload).toNat) 16 ++ payload ++ List.replicate (48 - payload.length) 0

end Sys2Proof.Machine
end

