-- ==== Sys2Proof/Machine/Requests.lean ====
section
/-! DEFINITION. Accesses on their way: the fabric's paths, the operations that homes execute, waiter tables, request
identities, and the issue and completion of near and far accesses (R219-R233, R258-R264, R386-R393). -/
namespace Sys2Proof.Machine
open Sys2Proof

/-! ### Paths (R62, R261, R264, R386) -/

/-- A flit that a router injects at cycle `at_` and that its destination's unit receives `delay` after its ejection. -/
def sendFlit (s : State) (gs gd : Nat) (reply : Bool) (unit kind wait delay : Nat) (ev : Instr) : State :=
  { s with nextId := s.nextId + 1
           flits := s.flits ++ [⟨s.nextId, reply, flitHdr (routerOf gs) (routerOf gd) unit kind ev, routerOf gs, 4, s.now + wait, 0, ev, delay⟩] }

/-- The dies that a path enters, column first, then row (R261). -/
def diePath (a b : Nat) : List Nat :=
  let step (x y : Nat) : Nat := if x < y then x + 1 else x - 1
  let cols := (List.range 4).foldl (fun (acc : List Nat × Nat) _ =>
    if acc.2 % 4 = b % 4 then acc else let n := acc.2 / 4 * 4 + step (acc.2 % 4) (b % 4); (acc.1 ++ [n], n)) ([], a)
  if cols.2 / 4 = b / 4 then cols.1 else cols.1 ++ [b]

/-- Sends an event from one die to another: each boundary takes 30 cycles, with `wait` before and `delay` after. -/
def sendDie (s : State) (a b src wait delay : Nat) (ev : Instr) : State :=
  match diePath a b with
  | [] => later s (wait + delay) ev
  | n :: r => { s with bridges := s.bridges ++ [⟨(a, n), s.now + wait, r, src, ev, delay⟩] }

/-- Sends a request to the home of a place, `wait` cycles from now: half of R62's round trip. -/
def sendTo (s : State) (g : Nat) (p : Place) (kind wait : Nat) (ev : Instr) : State :=
  match p with
  | .near g' _ => sendFlit s g g' false 16 kind (wait + 12) 12 ev
  | .hbm a => sendDie s (g / 16) (hbmDie a) g wait 210 ev
  | .host _ => { s with hostLink := s.hostLink ++ [⟨(g / 16, 8), s.now + wait, [], g, ev, 1100⟩] }
  | .peer k _ => sendExt s g k (wait + 1500) ev

/-- Sends an answer back to a cluster; `extra` covers what R62 adds for an atomic and R268 for an acquire. -/
def sendBack (s : State) (g : Nat) (p : Place) (kind extra : Nat) (ev : Instr) : State :=
  match p with
  | .near g' _ => sendFlit s g' g true 0 kind 12 (12 + extra) ev
  | .hbm a => sendDie s (hbmDie a) (g / 16) (128 + hbmUnit a) 0 (210 + extra) ev
  | .host _ => later s (1100 + extra) ev
  | .peer _ _ => later s (1500 + extra) ev

/-! ### Operations at their home (R221-R233) -/

def replyOk (data : Nat) (flags : BitVec 5) : ReplyData := ⟨BitVec.ofNat 512 data, flags, none, false, []⟩
def replyFault (ti : TrapInfo) : ReplyData := ⟨0, 0, some ti, false, []⟩

def opWrites : HomeOp → Bool
  | .load _ | .vload _ | .waita _ _ _ | .join | .readFrame | .fifoPop => false
  | _ => true
def opReads : HomeOp → Bool
  | .store _ _ | .vstore _ _ | .writeFrame _ | .fifoPush _ => false
  | _ => true
/-- Atomics, full/empty, WAITA, JOIN's judgement and furrow-cell operations are home operations (R219, R220). -/
def opHome : HomeOp → Bool
  | .load _ | .store _ _ | .vload _ | .vstore _ _ | .readFrame | .writeFrame _ | .fifoPush _ | .fifoPop => false
  | _ => true
/-- The bytes an operation touches at its address. -/
def opBytes : HomeOp → Nat
  | .load n | .store n _ | .waita _ n _ | .amo _ n _ | .cas n _ _ => n
  | .vload _ | .vstore _ _ => 4
  | .readFrame | .writeFrame _ => 8
  | .amof _ _ => 4
  | .fradd _ _ _ | .frrd _ _ => 32
  | _ => 8
/-- The bytes of the value returned to D (R221, R228-R233). -/
def opResult : HomeOp → Nat
  | .fradd _ _ _ => 1
  | .frrd _ _ => 4
  | o => opBytes o
/-- Atomics and full/empty operations take R62's second column, WAITA too (R226); FESET and FECLR take the far-store time
(R223). -/
def opAtomic (o : HomeOp) : Bool :=
  match o with
  | .feset | .feclr => false
  | o => opHome o

/-- The kind of a near request: LD and ST are plain; LDA, STL, vector lanes and frame words are refused by a FIFO bank. -/
def nearKindOf (q : MemReq) : NearKind :=
  match q.op with
  | .load n => if q.data then .data n false else .sync
  | .store n _ => if q.data then .data n true else .sync
  | .fifoPop => .data 8 false
  | .fifoPush _ => .data 8 true
  | op => if opHome op then .home else .sync

/-- The Xl of a request, for R382's layout. -/
def xlOf (q : MemReq) : Xl := ⟨0, q.va, opReads q.op, opWrites q.op, opHome q.op, false, false, q.data, q.opc⟩

/-- The places an operation touches, lowest address first. -/
def placesOf (q : MemReq) : List Lane :=
  if q.lanes = [] then [⟨0, q.place, q.va, q.wt, q.entry, q.level⟩] else sortBy (fun x => x.va.toNat) q.lanes

/-- Pushes and pops of a FIFO bank (R251). -/
def isFifoOp : HomeOp → Bool
  | .fifoPush _ | .fifoPop => true
  | _ => false

/-- What the home's bank map refuses at one place: R250 for a near access, R254 and R258 for one through the aperture. -/
def placeFault (s : State) (q : MemReq) (x : Lane) : Option TrapInfo :=
  let unheld : TrapInfo := xlTrap { xlOf q with va := x.va } 0x11 9 x.entry x.level
  match x.place with
  | .near g off =>
    let cl := clusterAt s g
    if q.near then
      -- a load or store that was sent to another mode is no FIFO access
      (match isFifo cl off, isFifoOp q.op with
        | some _, false => some (info14 off 3 (off / 2 ^ 17 % 32) 3 q.opc)
        | _, _ => nearTrap cl off (nearKindOf q) q.opc)
    else match liveBank cl (off / 2 ^ 17) with
      | none => some unheld
      | some b =>
        if (bankAt cl b).mode = .fifo then some unheld
        else if (bankAt cl b).mode = .watch && decide (0x18000 ≤ off % 2 ^ 17) then
          some ⟨0x14, x.va, (info14 off 2 (off / 2 ^ 17 % 32) 2 q.opc).info⟩
        else none
  | _ => none

/-- The watched area of a place: a WATCH bank's group, or the channel units' group for a WT page (R278); with the cluster that the
access must come from and its granule. -/
def placeArea (s : State) (q : MemReq) (x : Lane) : Option (Option (Word × Nat) × Nat × Granule) :=
  match x.place with
  | .near g off => (nearArea (clusterAt s g) off).map (fun y =>
      (some (y.2, g / 16), g, ⟨some (g, y.1), off % 2 ^ 17 / 8, BitVec.ofNat 64 (if q.near then off / 8 * 8 else x.va.toNat / 8 * 8)⟩))
  | p => if x.wt then some (s.wtGroup, clusterOf q.src.core, ⟨none, placeNum p / 8, BitVec.ofNat 64 (x.va.toNat / 8 * 8)⟩) else none

/-- The watch check of one place of a data access at its home (R279, R283). -/
def placeWatch (s : State) (q : MemReq) (x : Lane) : Except TrapInfo State :=
  match placeArea s q x, thread? s q.src with
  | some (some area, g, gr), some th => watchCheck s q.src th area (clusterOf q.src.core != g) (opWrites q.op) q.opc x.va [gr]
  | some (none, _, _), _ => .error ⟨0x16, x.va, watchInfo 0 0 0 0 q.opc⟩
  | _, _ => .ok s

/-- Several watch checks of one access: any refusal refuses the whole, trap 0x16 before 0x15 and then the lowest place
first (R283, R424). -/
def watchAll (s : State) (cs : List (State → Except TrapInfo State)) : Except TrapInfo State :=
  let errs := cs.filterMap (fun c => match c s with
    | .error ti => some ti
    | .ok _ => none)
  match errs.find? (fun ti => ti.cause = 0x16), errs with
  | some ti, _ => .error ti
  | none, ti :: _ => .error ti
  | none, [] => .ok (cs.foldl (fun s c => match c s with
    | .ok s' => s'
    | .error _ => s) s)

/-- The watch check of a data access. -/
def homeWatch (s : State) (q : MemReq) (ps : List Lane) : Except TrapInfo State :=
  if !q.data || q.src.slot = 0 then .ok s else watchAll s (ps.map (fun x s => placeWatch s q x))

/-- The homes that hold full/empty state (R223). -/
def fePlace : Place → Bool
  | .near _ _ => true
  | .peer _ a => apertureAddr a
  | _ => false
/-- Inserts or removes a number in a rising list. -/
def setMem (l : List Nat) (k : Nat) (v : Bool) : List Nat :=
  if v then l.filter (fun x => x < k) ++ k :: l.filter (fun x => k < x) else l.filter (fun x => x != k)
/-- The state bit of a full/empty word (R223). -/
def feFull (s : State) (p : Place) : Bool :=
  match p with
  | .near g off => match liveBank (clusterAt s g) (off / 2 ^ 17) with
    | some b => (b * 16384 + off % 2 ^ 17 / 8) ∈ (clusterAt s g).full
    | none => false
  | .peer k a => (a / 8) ∈ (peerAt s k).full
  | _ => false
def feSet (s : State) (p : Place) (v : Bool) : State :=
  match p with
  | .near g off => match liveBank (clusterAt s g) (off / 2 ^ 17) with
    | some b => pokeHome (modCluster s g (fun cl => { cl with full := setMem cl.full (b * 16384 + off % 2 ^ 17 / 8) v })) (.bank g b)
    | none => s
  | .peer k a => pokeHome { s with peers := put k { peerAt s k with full := setMem (peerAt s k).full (a / 8) v } s.peers } (homeOf s (.peer k a))
  | _ => s

/-- f(old, b) of AMO (R228). -/
def amoVal (op : AmoOp) (n : Nat) (old b : Nat) : Nat :=
  let m := 2 ^ (8 * n)
  let b := b % m
  match op with
  | .add => (old + b) % m
  | .and => old &&& b
  | .or => old ||| b
  | .xor => old ^^^ b
  | .min => min old b
  | .max => max old b
  | .mins => if sInt (8 * n) old ≤ sInt (8 * n) b then old else b
  | .maxs => if sInt (8 * n) old ≤ sInt (8 * n) b then b else old
  | .swap => b

def wcondOk (cc : WCond) (a b : Nat) : Bool :=
  match cc with
  | .eq => a = b
  | .ne => a != b
  | .ge => b ≤ a

/-- Faults of the furrow-cell operations (R232): the layout of R132 with OP 0x210 or 0x211, PART 0 and CELL 0. -/
def cellTrap (cause : BitVec 8) (q : MemReq) (reason : Nat) : TrapInfo := ⟨cause, q.va, info18 q.opc reason 0 0⟩

/-- FRADD.M's contribution (R232). -/
def fraddContrib (k : FrKind) (v : Word) (f : Int) : Contrib :=
  match k with
  | .f32 => contribOf (valueOf fmtF32 (v.toNat % 2 ^ 32)) f
  | .i64 => .int v.toInt

/-- The words of the FIFO bank that serves a near place (R251). -/
def fifoQueue (s : State) (p : Place) : Option ChQueue :=
  match p with
  | .near g off => (isFifo (clusterAt s g) off).map (fun b => .fifo g b)
  | _ => none

/-- The lowest place at which an operation's read meets an uncorrectable error (R405, R424). -/
def readErr (s : State) (q : MemReq) (ps : List Lane) : Option TrapInfo :=
  if opReads q.op && !isFifoOp q.op then
    (ps.find? (fun x => placeErr s x.place (opBytes q.op))).map (fun x => errTrap s x.place x.va q.opc)
  else none

/-- One operation served at its home: the new state and the answer, or none where it waits (R223, R226, R251). -/
def homeExec (s : State) (q : MemReq) : State × Option ReplyData :=
  let ps := placesOf q
  match ps.findSome? (placeFault s q) with
  | some ti => (s, some (replyFault ti))
  | none =>
  match homeWatch s q ps with
  | .error ti => (s, some (replyFault ti))
  | .ok s =>
  match readErr s q ps with
  | some ti => (s, some (replyFault ti))
  | none =>
  let p := q.place
  let get (n : Nat) : Nat := ofBytesLE (placeRead s p n)
  match q.op with
  | .load n => (s, some (replyOk (get n) 0))
  | .store n v => (homeWrite s p (leBytes n v), some (replyOk 0 0))
  | .vload _ =>
    let v := q.lanes.foldl (fun (d : Line) x => d ||| (BitVec.ofNat 512 (ofBytesLE (placeRead s x.place 4)) <<< (32 * x.n))) 0
    (s, some (replyOk v.toNat 0))
  | .vstore _ d => (q.lanes.foldl (fun s x => homeWrite s x.place (bytesLE (laneOf d x.n).toNat 4)) s, some (replyOk 0 0))
  | .readFrame => (s, some { replyOk 0 0 with frame := q.lanes.map (fun x => (x.n, wordLE (placeRead s x.place 8))) })
  | .writeFrame ws => (q.lanes.foldl (fun s x => homeWrite s x.place (leBytes 8 (ws.getD x.n 0))) s, some (replyOk 0 0))
  | .ldfe => if feFull s p then (feSet s p false, some (replyOk (get 8) 0)) else (s, none)
  | .ldff => if feFull s p then (s, some (replyOk (get 8) 0)) else (s, none)
  | .stfe v => if feFull s p then (s, none) else (feSet (homeWrite s p (leBytes 8 v)) p true, some (replyOk 0 0))
  | .stff v => (feSet (homeWrite s p (leBytes 8 v)) p true, some (replyOk 0 0))
  | .feset => (feSet s p true, some (replyOk 0 0))
  | .feclr => (feSet s p false, some (replyOk 0 0))
  | .waita cc n b => if wcondOk cc (get n) (b.toNat % 2 ^ (8 * n)) then (s, some (replyOk (get n) 0)) else (s, none)
  | .amo op n v => (homeWrite s p (bytesLE (amoVal op n (get n) v.toNat) n), some (replyOk (get n) 0))
  | .cas n e v =>
    (if get n = e.toNat % 2 ^ (8 * n) then homeWrite s p (leBytes n v) else s, some (replyOk (get n) 0))
  | .amof op v => (homeWrite s p (bytesLE (amofVal op (get 4) (v.toNat % 2 ^ 32)) 4), some (replyOk (get 4) 0))
  | .fradd k v fov =>
    match parseCell (placeRead s p 32) with
    | none => (s, some (replyFault (cellTrap 0x32 q 1)))
    | some (n, st, f) =>
      let r := furrowAdd n st (fraddContrib k v f.toInt)
      if r.2 = .fin && !inRange r.1 then
        if fov then (homeWrite s p (cellImage 0 (satState r.1) f), some (replyOk (stCode (satState r.1)).toNat 0))
        else (s, some (replyFault (cellTrap 0x31 q 0)))
      else (homeWrite s p (cellImage r.1 r.2 f), some (replyOk (stCode r.2).toNat 0))
  | .frrd rm clr =>
    match parseCell (placeRead s p 32) with
    | none => (s, some (replyFault (cellTrap 0x32 q 1)))
    | some (n, st, f) =>
      let r := roundTo fmtF32 (accMode rm) (furrowVal n st f.toInt) 0
      (if clr then homeWrite s p (cellImage 0 .fin f) else s, some (replyOk r.1 r.2))
  | .join => (s, some (replyOk (get 8) 0))
  | .fifoPush v => match fifoQueue s p with
    | some c => if chFree s c = 0 then (s, none) else (pokeHome (setChWords s c (chWords s c ++ [⟨s.now, nearOps s q.uid, v⟩])) (homeOf s p), some (replyOk 0 0))
    | none => (homeWrite s p (leBytes 8 v), some (replyOk 0 0))
  | .fifoPop => match fifoQueue s p with
    | some c => match readyWords s c with
      | [] => (s, none)
      | w :: _ => (pokeHome (setChWords s c (chWords s c).tail) (homeOf s p), some (replyOk w.val.toNat 0))
    | none => (s, some (replyOk (get 8) 0))

/-! ### Waiter tables (R224) -/

def waitersOf (s : State) (h : HomeId) : List Waiter :=
  match h with
  | .bank g b => (clusterAt s g).waiters.filter (fun w => homeOf s w.q.place = .bank g b)
  | _ => s.homeWaiters.filter (fun w => homeOf s w.q.place = h)
/-- The operations that hold an entry of the home's table; a FIFO bank's pushers and poppers need none (R251). -/
def tableOf (s : State) (h : HomeId) : List Waiter := (waitersOf s h).filter (fun w => w.refusedAt.isNone && !isFifoOp w.q.op)
def waiterCap : HomeId → Nat
  | .bank _ _ | .peerBank _ _ _ => 64
  | _ => 256
def addWaiter (s : State) (w : Waiter) : State :=
  match homeOf s w.q.place with
  | .bank g _ => modCluster s g (fun cl => { cl with waiters := cl.waiters ++ [w] })
  | _ => { s with homeWaiters := s.homeWaiters ++ [w] }
def dropWaiter (s : State) (w : Waiter) : State :=
  match homeOf s w.q.place with
  | .bank g _ => modCluster s g (fun cl => { cl with waiters := cl.waiters.filter (fun x => x ≠ w) })
  | _ => { s with homeWaiters := s.homeWaiters.filter (fun x => x ≠ w) }

/-- An operation that must wait takes an entry, or is refused and resent every 64 cycles. -/
def holdWaiter (s : State) (q : MemReq) : State :=
  let h := homeOf s q.place
  let refused := (waitersOf s h).filter (fun w => w.refusedAt.isSome)
  if isFifoOp q.op || (decide ((tableOf s h).length < waiterCap h) && refused.isEmpty) then addWaiter s ⟨q, s.now, none⟩
  else later (addWaiter s ⟨q, s.now, some s.now⟩) 64 (.waiterTableResend q)

/-! ### Answers -/

/-- What an answer's time adds to R62's load column: an atomic's cycles, and those of an acquire that waits for no word (R268). -/
def replyExtra (q : MemReq) (r : ReplyData) : Nat :=
  (if opAtomic q.op then (if isAperture q.place then 4 else 8) else 0)
    + (if q.acq && Scope.wide q.scope && r.fault.isNone then (match q.op with
      | .load _ | .amo _ _ _ | .cas _ _ _ | .amof _ _ | .fradd _ _ _ | .frrd _ _ => 16
      | _ => 0) else 0)

/-- The reply that a served request sends: near waits are told at once; far ones over the fabric. -/
def answer (s : State) (q : MemReq) (r : ReplyData) : State :=
  let g := clusterOf q.src.core
  if q.near then
    modThread s q.src (fun th => if th.uid = q.uid then { th with park := th.park.map (fun p => { p with why := .replied q r }) } else th)
  else if q.parked then sendBack s g q.place 8 (replyExtra q r) (.reply q.src q.tag r)
  else sendBack s g q.place 9 (replyExtra q r) (.acknowledgement q.src q.tag r.fault)

/-- An operation that has waited at its home is served there: its wait ends at once (R59), though not before the time of R62,
which runs from its first transmission (R223). A far one is told by the reply that is then on its way. -/
def answerWaiter (s : State) (q : MemReq) (r : ReplyData) : State :=
  if q.near || !q.parked then answer s q r
  else
    let ends := q.total + farTime (clusterOf q.src.core) q.place (opAtomic q.op)
    later s (ends - s.now) (.reply q.src q.tag r)

/-! ### Exactly once (R392) -/

def unitEnt (s : State) (h : HomeId) (src : TId) : Option UnitEnt := s.units.find? (fun u => u.unit = h && u.src = src)
def setUnitEnt (s : State) (u : UnitEnt) : State :=
  { s with units := s.units.filter (fun x => !(x.unit = u.unit && x.src = u.src)) ++ [u] }
/-- The entry for a source, if the unit has or can make one: it holds 4,096, freeing those idle for 8 timeouts. -/
def unitRoom (s : State) (h : HomeId) (src : TId) : Option (State × UnitEnt) :=
  match unitEnt s h src with
  | some u => some (s, u)
  | none =>
    let mine := s.units.filter (fun u => u.unit = h)
    if mine.length < 4096 then some (s, ⟨h, src, none, 0, [], s.now⟩)
    else match mine.find? (fun u => u.lastUse + 8 * 16384 ≤ s.now) with
      | some v => some ({ s with units := s.units.filter (fun u => u ≠ v) }, ⟨h, src, none, 0, [], s.now⟩)
      | none => none

/-- The entry of a source whose request the unit has executed (R392). -/
def noteId (u : UnitEnt) (q : MemReq) (r : ReplyData) (now : Nat) : UnitEnt :=
  if q.parked then { u with lastParked := some (q.tag % 2 = 1, q.opId, r), lastUse := now }
  else
    let n := q.tag % 64
    let bit := (1 : BitVec 63) <<< n
    { u with phases := if q.tag / 64 % 2 = 1 then u.phases ||| bit else u.phases &&& ~~~bit, applied := put n q.opId u.applied
             lastUse := now }
/-- The reply that the entry holds for a request which the unit has executed before. -/
def seenReply (u : UnitEnt) (q : MemReq) : Option ReplyData :=
  if q.parked then (match u.lastParked with
    | some (b, n, r) => if b = (q.tag % 2 = 1) && n = q.opId then some r else none
    | none => none)
  else if u.phases.getLsbD (q.tag % 64) = (q.tag / 64 % 2 = 1) && look (q.tag % 64) u.applied = some q.opId then some (replyOk 0 0)
  else none
/-- A request executes at its home; its source's entry remembers it (R392). -/
def serveReq (s : State) (u : UnitEnt) (q : MemReq) : State :=
  match homeExec s q with
  | (s, some r) =>
    answer (setUnitEnt s (noteId u q r s.now)) q r
  | (s, none) => holdWaiter (setUnitEnt s { u with lastUse := s.now }) q

/-- A request reaches its home's unit: a duplicate is answered again and not executed; a new source that finds no entry is
refused and resent 64 cycles later (R392). -/
def arriveReq (s : State) (q : MemReq) : State :=
  let h := homeOf s q.place
  if (waitersOf s h).any (fun w => w.q = q) then s
  else match unitRoom s h q.src with
    | none => later s 0 (.refusal q)
    | some (s, u) =>
      match seenReply u q with
      | some r => answer s q r
      | none => serveReq s u q

/-- The event that brings a request to its home. -/
def reqEvent (q : MemReq) : Instr :=
  match q.op with
  | .load _ | .vload _ | .readFrame | .fifoPop => .loadRequest q
  | .store _ _ | .vstore _ _ | .writeFrame _ | .fifoPush _ => .storeRequest q
  | .ldfe | .ldff | .stfe _ | .stff _ | .feset | .feclr => .fullEmptyRequest q
  | .waita _ _ _ | .join => .waitaRequest q
  | _ => .atomicRequest q
def reqKind (q : MemReq) : Nat :=
  match q.op with
  | .load _ | .vload _ | .readFrame | .fifoPop => 0
  | .store _ _ | .vstore _ _ | .writeFrame _ | .fifoPush _ => 1
  | .ldfe | .ldff | .stfe _ | .stff _ | .feset | .feclr => 3
  | .waita _ _ _ | .join => 4
  | _ => 2

/-- R393's timeout. -/
def timeoutOf : Place → Nat
  | .hbm _ | .near _ _ => 16384
  | _ => 131072

/-! ### Completion of register results (R143, R221) -/

/-- The value of a result in a register of any width. -/
def resultVal (sx : Bool) (n : Nat) (data : Nat) : Nat :=
  let m := data % 2 ^ (8 * n)
  if sx && decide (2 ^ (8 * n - 1) ≤ m) then m + (2 ^ 512 - 2 ^ (8 * n)) else m

def destId : Dest → Option RegId
  | .reg (.g n) _ _ => if n = 0 then none else some (.g n)
  | .reg (.w _) abs _ => some (.w abs)
  | .reg (.v n) _ _ => some (.v n)
  | .lanes (.v n) _ _ => some (.v n)
  | _ => none

/-- Writes an answer into the thread's destination and sets its presence bit. -/
def deliver (th : Thread) (d : Dest) (n : Nat) (data : Line) : Thread :=
  match destId d with
  | none => th
  | some id =>
    setPresence (match d with
      | .reg _ _ sx => writeById th id (resultVal sx n data.toNat)
      | .lanes r m z =>
        let old := readV th r
        let new := (List.range 16).foldl (fun (a : Line) l =>
          let x := if m.getLsbD l then laneOf data l else if z then 0 else laneOf old l
          a ||| (x.setWidth 512 <<< (32 * l))) 0
        writeV th r new
      | _ => th) id

/-- The destination of a late result, by its absolute name. -/
def destOf (th : Thread) (r : Reg) (sx : Bool) : Dest :=
  match r with
  | .w n => .reg r (th.depth * 32 + n) sx
  | _ => .reg r 0 sx

/-! ### Bank ports (R68, R231, R255) -/

/-- A core's near access goes through its own port; one through the aperture comes by the fabric's. -/
def portOf (q : MemReq) : Nat := if q.near then posOf q.src.core else 18
/-- Inserts a request behind those of its bank and port that were issued no later (R117). -/
def portInsert (r : PortReq) : List PortReq → List PortReq
  | [] => [r]
  | x :: l => if x.bank = r.bank && x.port = r.port && decide (r.issued < x.issued) then r :: x :: l else x :: portInsert r l
/-- Gives a request its place in its bank's port queue. -/
def portPut (s : State) (g : Nat) (r : PortReq) : State := modCluster s g (fun cl => { cl with ports := portInsert r cl.ports })
/-- The bank at whose port a near place's request stands; an unheld slot has none. -/
def placeBank (s : State) (p : Place) : Option (Nat × Nat) :=
  match p with
  | .near g off => (liveBank (clusterAt s g) (off / 2 ^ 17)).map (fun b => (g, b))
  | _ => none

/-- The request that an event carries. -/
def reqOf : Instr → Option MemReq
  | .loadRequest q | .storeRequest q | .atomicRequest q | .fullEmptyRequest q | .waitaRequest q => some q
  | _ => none
def isFrame : HomeOp → Bool
  | .readFrame | .writeFrame _ => true
  | _ => false
/-- The issue of the near request that reaches its bank in cycle `c`: 4 cycles before, and a frame image's words one after the
other. -/
def issuedAt (c : Nat) (q : MemReq) : Nat := c - 4 - (if isFrame q.op then q.tag else 0)
/-- The engine entry whose access a request is. -/
def actEntry : PortAct → Option Nat
  | .fill id _ _ | .beat id _ => some id
  | _ => none
/-- A near access that the core issued before an engine's entry is still on its way to the bank (R117). -/
def overtakes (s : State) (g : Nat) (r : PortReq) : Bool :=
  (actEntry r.act).isSome && s.agenda.any (fun x => match reqOf x.2 with
    | some q => q.near && q.src.core = g * 16 + r.port && decide (issuedAt x.1 q < r.issued) && placeBank s q.place = some (g, r.bank)
    | none => false)
/-- A request is presented in this cycle. -/
def presented (s : State) (g : Nat) (r : PortReq) : Bool :=
  (match r.at_ with
    | some c => decide (c ≤ s.now)
    | none => false) && !overtakes s g r
/-- The request that a port presents to a bank: its first, or, where that is a read of a fill that has not begun, one of the same
entry's other side. -/
def portHead (s : State) (g b p : Nat) : Option PortReq :=
  match (clusterAt s g).ports.filter (fun r => r.bank = b && r.port = p) with
  | [] => none
  | r :: l =>
    if presented s g r then some r
    else if (actEntry r.act).isSome then (l.takeWhile (fun x => actEntry x.act = actEntry r.act)).find? (presented s g)
    else none
/-- The ports of a bank in the order of the cycle's pointer (R68). -/
def portOrder (now : Nat) : List Nat := (List.range 20).map (fun i => (now % 20 + i) % 20)
def isHomeAct : PortAct → Bool
  | .req q => opHome q.op
  | _ => false
/-- The request that a bank serves in this cycle: the first at or after the pointer; of home operations that came in one cycle the
lowest port's (R231). A bank that is held, or has served in this cycle, serves none. -/
def bankNext (s : State) (g b : Nat) : Option PortReq :=
  let cl := clusterAt s g
  if (bankAt cl b).held.isSome || decide (s.now < (bankAt cl b).served) then none
  else match (portOrder s.now).findSome? (portHead s g b) with
    | none => none
    | some r =>
      if isHomeAct r.act then
        ((List.range 20).findSome? (fun p => (portHead s g b p).bind (fun x => if isHomeAct x.act && x.at_ = r.at_ then some x else none)))
      else some r
/-- The bank's cycle is used, and the request leaves its port. -/
def takeCycle (s : State) (g : Nat) (r : PortReq) : State :=
  modCluster s g (fun cl => { modBank cl r.bank (fun x => { x with served := s.now + 1 }) with ports := cl.ports.erase r })

/-! ### Near accesses (R61, R250) -/

/-- The answer of a near access that does not park lands `q.total` cycles from now (R61). -/
def landLater (s : State) (q : MemReq) (r : ReplyData) : State :=
  let s := { s with ops := s.ops.map (fun o => if o.id = q.opId then { o with load := some ⟨q.dest, r.data, r.flags, r.fault⟩ } else o) }
  later s q.total (if (s.ops.any (fun o => o.id = q.opId && o.kind = .ld)) then .nearLoadLand q.src q.opId else .nearStoreAck q.src q.opId)

/-- The answer of a near access that does not park. FESET and FECLR have no counter: only a fault is left (R131). -/
def nearAnswer (s : State) (q : MemReq) (r : ReplyData) : State :=
  if q.opId = 0 then (match r.fault with
    | some ti => deferTo s q.uid q.src (((thread? s q.src).map Thread.launch).getD 0) ti
    | none => s)
  else landLater s q r
/-- A near access that does not park is served at its bank. -/
def nearServe (s : State) (q : MemReq) : State :=
  match homeExec s q with
  | (s, some r) => nearAnswer s q r
  | (s, none) => s

/-- Clears the presence bit of an operation's destination (R143). -/
def clearDest (s : State) (t : TId) (d : Dest) : State :=
  match destId d with
  | some r => modThread s t (fun th => clearPresence th r)
  | none => s
def setDest (th : Thread) (d : Dest) : Thread :=
  match destId d with
  | some r => setPresence th r
  | none => th

/-- Records a near operation of the thread and raises its counter. -/
def addNear (s : State) (t : TId) (kind : OpKind) (q : MemReq) : State × MemReq :=
  let (s, id) := addOp s t kind none
  let q := { q with opId := id }
  ({ s with ops := s.ops.map (fun o => if o.id = id then { o with q := some q } else o) }, q)

/-- The counter that a full/empty operation or a FIFO access raises once it is judged (R61). -/
def judgedKind : HomeOp → OpKind
  | .stfe _ | .fifoPush _ => .st
  | _ => .ld
/-- Operations that end their park when the bank has judged them (R223, R251). -/
def judgedOp : HomeOp → Bool
  | .ldfe | .ldff | .stfe _ | .fifoPush _ | .fifoPop => true
  | _ => false

/-- A parked near request is answered: a satisfied full/empty operation or FIFO access ends the park at once, and its answer
lands in the time of R61, unless a fault of the bank's new mode is trapped; any other completes in that time. -/
def nearJudged (s : State) (q : MemReq) (r : ReplyData) : State :=
  if judgedOp q.op && r.fault.isNone then
    let (s, q) := addNear s q.src (judgedKind q.op) q
    advance (landLater s q r) q.src
  else
    later (modThread s q.src (fun th => { th with park := th.park.map (fun p => { p with why := .far { q with tag := 2 } }) }))
      q.total (.reply q.src 2 r)
/-- A FIFO access does not overtake those that already wait at its bank (R251). -/
def fifoBehind (s : State) (q : MemReq) : Bool :=
  isFifoOp q.op && (waitersOf s (homeOf s q.place)).any (fun w => judgedKind w.q.op = judgedKind q.op)
/-- A near request of a parked thread is judged at its bank (R223, R226, R251, R283): answered, or it goes on waiting there. -/
def nearJudge (s : State) (q : MemReq) : State :=
  if fifoBehind s q then holdWaiter s q
  else match homeExec s q with
    | (s, some r) => nearJudged s q r
    | (s, none) => holdWaiter s q

/-- The thread is still parked on a near request. -/
def awaits (s : State) (q : MemReq) : Bool :=
  match (thread? s q.src).bind Thread.park with
  | some p => (match p.why with
    | .homeWait x => x.uid = q.uid && x.opId = q.opId
    | _ => false)
  | none => false

/-- A near access is served at its bank; one whose thread no longer waits is dropped. -/
def nearReach (s : State) (q : MemReq) : State :=
  if q.parked then (if awaits s q then nearJudge s q else s) else nearServe s q

/-! ### Accesses of several requests (R68, R91, R173) -/

def gatherOf (s : State) (id : Nat) : Option Gather := s.gathers.find? (fun x => x.id = id)
def dropGather (s : State) (id : Nat) : State := { s with gathers := s.gathers.filter (fun x => x.id != id) }
/-- The lower of two faults by address. -/
def lowerFault (a b : Option TrapInfo) : Option TrapInfo :=
  match a, b with
  | some x, some y => if y.addr.toNat < x.addr.toNat then some y else some x
  | some x, none => some x
  | none, y => y
/-- The answers of two requests of one access together. -/
def joinReply (a b : ReplyData) : ReplyData :=
  ⟨a.data ||| b.data, a.flags ||| b.flags, lowerFault a.fault b.fault, a.withdrawn || b.withdrawn, a.frame ++ b.frame⟩
/-- One request of an access is answered: the access with what is left of it. -/
def gatherStep (x : Gather) (q : MemReq) (r : ReplyData) : Gather :=
  { x with parts := x.parts.filter (fun y => y.tag != q.tag), r := joinReply x.r r }
def setGather (s : State) (x : Gather) : State := { s with gathers := s.gathers.map (fun y => if y.id = x.id then x else y) }

/-- The opcodes of VLDG and VSTS, whose lanes go one by one (R173). -/
def byLane (q : MemReq) : Bool := q.opc = 0x298 || q.opc = 0x299
/-- The requests of a near access of several lanes, each with the cycles by which it follows the first: one for each bank touched,
one for each lane of VLDG and VSTS, and the words of a frame image one a cycle. -/
def nearParts (q : MemReq) : List (Nat × MemReq) :=
  let one (ls : List Lane) (n : Nat) : MemReq := { q with lanes := ls, place := (ls.head?.map Lane.place).getD q.place, tag := n }
  if isFrame q.op then q.lanes.mapIdx (fun i x => (i, one [x] i))
  else if byLane q then q.lanes.mapIdx (fun i x => (0, one [x] i))
  else
    let slots := (q.lanes.map (fun x => placeNum x.place / 2 ^ 17)).eraseDups
    slots.mapIdx (fun i k => (0, one (q.lanes.filter (fun x => placeNum x.place / 2 ^ 17 = k)) i))

/-- A near request leaves the core: it is at its bank's port 4 cycles later (R223), each part of an access of several lanes by
itself. -/
def nearSend (s : State) (q : MemReq) : State :=
  if q.lanes = [] then later s 4 (reqEvent { q with total := q.total - 4 })
  else
    let ps := nearParts { q with total := q.total - 4 }
    ps.foldl (fun s x => later s (4 + x.1) (reqEvent x.2))
      { s with gathers := s.gathers ++ [⟨q.opId, ps.map Prod.snd, { q with total := q.total - 4 }, replyOk 0 0⟩] }

/-- The last request of a near access has been served: a frame image's thread goes on in the time of R91, a watched access is
checked and performed as a whole (R283), and any other lands. -/
def gatherEnd (s : State) (x : Gather) : State :=
  let s := dropGather s x.id
  if isFrame x.q.op then (if awaits s x.q then nearJudged s x.q x.r else s)
  else if x.q.parked then nearReach s x.q
  else nearAnswer s x.q x.r

/-- One part of a near access is served at its bank: performed there, but for a watched access, whose last part performs it. -/
def servePart (s : State) (q : MemReq) : State :=
  match gatherOf s q.opId with
  | none => s
  | some x =>
    let (s, r) := if x.q.parked && !isFrame x.q.op then (s, replyOk 0 0) else
      (match homeExec s q with
        | (s, some r) => (s, r)
        | (s, none) => (s, replyOk 0 0))
    let x := gatherStep x q r
    if x.parts = [] then gatherEnd s x else setGather s x

/-- Issues a near access that does not park: the counter rises, a destination's presence bit is cleared, and the request is
sent. -/
def nearIssue (s : State) (t : TId) (kind : OpKind) (q : MemReq) : State :=
  let (s, q) := addNear s t kind q
  nearSend (clearDest s t q.dest) q

/-- Parks the thread on a near request, which has an identity of its own. -/
def parkNear (s : State) (t : TId) (q : MemReq) (retry : Option Instr) : State × MemReq :=
  let q := { q with parked := true, opId := s.nextId }
  (clearDest (park { s with nextId := s.nextId + 1 } t (.homeWait q) retry) t q.dest, q)

/-- A near access's answer lands (R61, R143): presence is set; a fault met at service is deferred (R131). -/
def landDone (s : State) (id : Nat) : State :=
  match s.ops.find? (fun o => o.id = id) with
  | none => s
  | some o =>
    let s := endOp s id
    match o.load with
    | none => s
    | some l => match l.fault with
      | some ti => deferTo (modUid s o.uid (fun th => setDest th l.dest)) o.uid o.t o.launch ti
      | none =>
        let n := (o.q.map (fun q => opResult q.op)).getD 8
        let s := match o.q with
          | some q => if q.acq then acquireAt s (clusterOf q.src.core) q.scope else s
          | none => s
        modUid s o.uid (fun th => orFlags (deliver th l.dest n l.data) l.flags)

/-- A load of a forwarding entry is over: it leaves its thread's entries, which are free after their last (R328). -/
def endForward (s : State) (id : Nat) : State :=
  { s with cores := s.cores.map (fun x => (x.1, { x.2 with
      forwards := (x.2.forwards.map (fun f => { f with ops := f.ops.filter (fun n => n != id) })).filter (fun f => f.ops != []) })) }
/-- The landing of a near access: a load of a thread that has migrated is forwarded to its new slot (R328). -/
def landOp (s : State) (id : Nat) : State :=
  match s.ops.find? (fun o => o.id = id) with
  | none => s
  | some o => match (coreAt s o.t.core).forwards.find? (fun f => id ∈ f.ops) with
    | none => landDone s id
    | some f => match f.gone, findUid s o.uid with
      | true, some (t, _) => later s (48 + 4 * hops (clusterOf o.t.core) (clusterOf t.core)) (.loadForward o.t.core id)
      | _, _ => landDone (endForward s id) id

/-! ### Operations held by a release (R222, R225) -/

/-- Holds an event until the earlier operations are complete and, for a wide release, the dirty lines are written back. -/
def holdUntil (s : State) (t : TId) (uid : Nat) (before : List Nat) (wide : Bool) (delay : Nat) (act : Instr) : State :=
  { s with nextId := s.nextId + 1, held := s.held ++ [⟨s.nextId, uid, t, before, wide, none, delay, act⟩] }

/-- Later accesses wait until this operation completes: a near atomic with .ACQ or .AR acts as LDA does (R222, R228); of the other
acquires they wait for the invalidation alone (R268). -/
def holdsLater (q : MemReq) : Bool :=
  q.acq && (Scope.wide q.scope || (match q.op with
    | .amo _ _ _ | .cas _ _ _ | .amof _ _ | .fradd _ _ _ | .frrd _ _ => true
    | _ => false))
/-- What any next access of a thread waits for: an acquire that is not complete. -/
def acquiring (s : State) (uid : Nat) : List Nat :=
  ((s.held.filter (fun h => h.uid = uid)).filterMap (fun h => reqOf h.act)).filterMap (fun q => if holdsLater q then some q.opId else none)
    ++ (s.ops.filter (fun o => o.uid = uid && (match o.q with
      | some q => holdsLater q
      | none => false))).map Op.id
/-- What a thread's next access to a place waits for: its own operation held there by a release (R275), and an acquire. -/
def blockers (s : State) (uid : Nat) (p : Place) : List Nat :=
  ((s.held.filter (fun h => h.uid = uid)).filterMap (fun h => reqOf h.act)).filterMap (fun q =>
      if lineOf q.place = lineOf p || q.lanes.any (fun x => lineOf x.place = lineOf p) then some q.opId else none)
    ++ acquiring s uid
/-- What the near accesses that a core's engine makes for a thread wait for: an acquire, and its own held near operations (R117). -/
def engineBlockers (s : State) (uid : Nat) : List Nat :=
  ((s.held.filter (fun h => h.uid = uid)).filterMap (fun h => reqOf h.act)).filterMap (fun q => if q.near then some q.opId else none)
    ++ acquiring s uid

/-- The cluster has dirty lines that a release at a scope writes back. -/
def dirtyFor (s : State) (g : Nat) (sc : Scope) : Bool := Scope.wide sc && (clusterAt s g).cache.any (fun l => l.dirty != 0)

/-! ### Far requests (R391) -/

def slotOf (s : State) (t : TId) : Slot := slotAt (coreAt s t.core) t.slot
def modSlot (s : State) (t : TId) (f : Slot → Slot) : State := modCore s t.core (fun k => setSlot k t.slot (f (slotAt k t.slot)))

/-- The thread parks for a far request: its sequence bit flips, and the request carries it (R391). -/
def parkFar (s : State) (t : TId) (q : MemReq) : State × MemReq :=
  let s := modSlot s t (fun x => { x with seqBit := !x.seqBit })
  let q := { q with parked := true, tag := boolNat (slotOf s t).seqBit, opId := s.nextId }
  (clearDest (park { s with nextId := s.nextId + 1 } t (.far q) none) t q.dest, q)

/-- The lowest free tag of a slot's posted requests (R391); a tag that was resent is not free until 4 timeouts have
passed since its last transmission (R393). -/
def freeTag (s : State) (t : TId) : Nat :=
  let used := (s.ops.filter (fun o => o.t = t)).filterMap (fun o => o.tag.map (fun x => x % 64))
  let used := used ++ ((slotOf s t).quiet.filter (fun x => s.now < x.2)).map Prod.fst
  ((List.range 63).find? (fun n => n ∉ used)).getD 0

/-- RTAG of a posted request: the lowest free tag and its phase, which flips (R391). -/
def takeTag (s : State) (t : TId) : State × Nat :=
  let n := freeTag s t
  let s := modSlot s t (fun x => { x with phases := x.phases ^^^ ((1 : BitVec 63) <<< n) })
  (s, boolNat ((slotOf s t).phases.getLsbD n) * 64 + n)

/-- Records a posted request: its tag, phase and operation. -/
def postOp (s : State) (t : TId) (q : MemReq) : State × MemReq :=
  let (s, tag) := takeTag s t
  let (s, id) := addOp s t .st none
  let q := { q with parked := false, tag := tag, opId := id }
  ({ s with ops := s.ops.map (fun o => if o.id = id then { o with tag := some q.tag, q := some q } else o) }, q)

/-- Sends a request, `wait` cycles from now, and starts its timeout (R393). A parked request notes its first transmission
in `total`. -/
def transmit (s : State) (wait : Nat) (q : MemReq) : State :=
  let t := q.src
  let g := clusterOf t.core
  if q.parked then
    let q := { q with total := s.now + wait }
    let s := modThread s t (fun th => { th with park := th.park.map (fun p => { p with why := .far q }) })
    later (sendTo s g q.place (reqKind q) wait (reqEvent q)) (wait + timeoutOf q.place) (.requestTimeout t q.tag)
  else
    let s := { s with ops := s.ops.map (fun o => if o.id = q.opId then { o with lastSent := s.now + wait } else o) }
    later (sendTo s g q.place (reqKind q) wait (reqEvent q)) (wait + timeoutOf q.place) (.requestTimeout t (128 + q.tag))

/-- The requests of a far vector access: one for each 64-byte range touched (R173). -/
def farParts (q : MemReq) : List MemReq :=
  if isFrame q.op then [q]
  else
    let rows := (q.lanes.map (fun x => x.va.toNat / 64)).eraseDups
    rows.map (fun k => let ls := q.lanes.filter (fun x => x.va.toNat / 64 = k); { q with lanes := ls, place := (ls.head?.map Lane.place).getD q.place })
/-- Sends the requests of a parked access, which have its identity and a number each; the thread goes on when all are answered. -/
def sendParts (s : State) (q : MemReq) : State :=
  match farParts q with
  | [] | [_] => transmit s 0 q
  | ps =>
    let t := q.src
    let q := { q with total := s.now }
    let ps := ps.mapIdx (fun i x => { x with total := s.now, tag := q.tag + 4 * i })
    let s := modThread s t (fun th => { th with park := th.park.map (fun p => { p with why := .far q }) })
    let s := { s with gathers := s.gathers ++ [⟨q.opId, ps, q, replyOk 0 0⟩] }
    let s := ps.foldl (fun s x => sendTo s (clusterOf t.core) x.place (reqKind x) 0 (reqEvent x)) s
    later s (timeoutOf q.place) (.requestTimeout t q.tag)
/-- Records one request of a posted store of several, whose counter the operation `whole` holds. -/
def postPart (s : State) (t : TId) (whole : Nat) (q : MemReq) : State :=
  let (s, tag) := takeTag s t
  let (s, id) := addOp s t .part none
  let q := { q with parked := false, tag := tag, opId := id, total := whole }
  transmit { s with ops := s.ops.map (fun o => if o.id = id then { o with tag := some q.tag, q := some q } else o) } 0 q
/-- Sends a posted vector store: st falls when every request of it is acknowledged (R173). -/
def postParts (s : State) (t : TId) (q : MemReq) : State :=
  match farParts q with
  | [] | [_] => let (s, q) := postOp s t q; transmit s 0 q
  | ps =>
    let (s, id) := addOp s t .st none
    ps.foldl (fun s x => postPart s t id x) s
/-- A posted request is complete; the last of a store's requests completes the store. -/
def endPosted (s : State) (o : Op) : State :=
  let s := endOp s o.id
  if o.kind != .part then s
  else
    let whole := (o.q.map MemReq.total).getD 0
    if s.ops.any (fun x => x.kind = .part && (x.q.map MemReq.total).getD 0 = whole) then s else endOp s whole

/-- Sends a request whose identity is set, after the write-back of the cluster's line that a home operation makes (R220). -/
def sendHome (s : State) (q : MemReq) : State :=
  if q.data then transmit s 0 q
  else let (s, d) := homePre s (clusterOf q.src.core) q.place; transmit s d q

end Sys2Proof.Machine
end

