-- ==== Sys2Proof/Machine/Access.lean ====
section
/-! DEFINITION. The memory instructions of class 4 and the vector memory instructions: near and far accesses, full/empty
operations, WAITA, atomics, furrow cells, FENCE, WAIT and CFLUSH, and the events that carry them (R172, R173, R217-R233,
R240, R250, R251, R391-R393). -/
namespace Sys2Proof.Machine
open Sys2Proof

/-! ### The shared access -/

/-- What a form needs beyond its operation: the counter a near access raises, whether a near access parks until it is
judged, whether it releases first, whether a far one may use the cluster cache, and whether a far one parks. -/
structure Acc where
  kind : OpKind
  nearParks : Bool
  farParks : Bool
  rel : Bool
  cacheable : Bool
deriving DecidableEq, Repr

/-- A request before its place is known. -/
def mkReq (t : TId) (th : Thread) (i : Instr) (op : HomeOp) (d : Dest) (va : Word) : MemReq :=
  ⟨t, th.uid, opOf i, op, d, va, .hbm 0, [], false, .thr, false, false, false, false, 2, 0, 0, 0, 0⟩

/-- The thread parks for an answer that comes back in `d` cycles without leaving the cluster. -/
def parkLocal (s : State) (t : TId) (q : MemReq) (d : Nat) (r : ReplyData) : State :=
  later (clearDest (park s t (.far { q with parked := true, tag := 2 }) none) t q.dest) d (.reply t 2 r)

/-- Some place of a data access lies in a watched area (R278). -/
def watched (s : State) (q : MemReq) : Bool :=
  q.data && q.src.slot != 0 && (placesOf q).any (fun x => (placeArea s q x).isSome)

/-- A near access that has passed R250's check at issue: watched data parks until its check is made (R283). -/
def nearGo (s : State) (t : TId) (th : Thread) (a : Acc) (q : MemReq) (retry : Option Instr) : State :=
  let bef := if a.rel then earlier s th.uid else []
  let hold := a.rel && (bef != [] || dirtyFor s (clusterOf t.core) q.scope)
  if a.nearParks || watched s q then
    let (s, q) := parkNear s t q retry
    let s := if q.lanes = [] || isFrame q.op then s else modThread s t (fun th => { th with latch := none })
    if hold then holdUntil s t th.uid bef (Scope.wide q.scope) 0 (reqEvent q) else nearSend s q
  else if hold then
    let (s, q) := addNear s t a.kind q
    advance (holdUntil (clearDest s t q.dest) t th.uid bef (Scope.wide q.scope) 0 (reqEvent q)) t
  else advance (nearIssue s t a.kind q) t

/-- R250's refusal of a near access at its issue. -/
def issueFault (s : State) (t : TId) (q : MemReq) : Option TrapInfo :=
  (placesOf q).findSome? (fun x => nearTrap (clusterAt s (clusterOf t.core)) (placeNum x.place) (nearKindOf q) q.opc)

/-- A near access (R219, R250): its check at issue, and a wait for the thread's own held operation or acquire. `retry` is an
instruction that continues with the answer. -/
def nearAccess (s : State) (t : TId) (th : Thread) (i : Instr) (a : Acc) (q : MemReq) (retry : Option Instr := none) : State :=
  match issueFault s t q with
  | some ti => trap s t ti
  | none =>
    let bl := (placesOf q).flatMap (fun x => blockers s th.uid x.place)
    if bl != [] then park s t (.opsDone bl) (some i) else nearGo s t th a q retry

/-- A load or store that the cluster cache serves (R262): it is performed in the line, and answered in the time of R62. -/
def cacheLoad (s : State) (t : TId) (q : MemReq) : State :=
  let g := clusterOf t.core
  if (findLine (clusterAt s g) q.place).isNone && placeErr s (lineOf q.place) 64 then
    parkLocal s t q (farTime g q.place false) (replyFault (errTrap s q.place q.va q.opc))
  else
    let (s, hit) := touchLine s g q.place
    parkLocal s t q (lineTime s g q.place hit) (replyOk (ofBytesLE (cacheBytes s g q.place (opBytes q.op))) 0)
def cacheStore (s : State) (q : MemReq) (bs : List Byte) : State :=
  let g := clusterOf q.src.core
  let (s, hit) := touchLine s g q.place
  later (cachePut s g q.place bs) (lineTime s g q.place hit) (.acknowledgement q.src q.tag none)
def storeBytes (q : MemReq) : List Byte :=
  match q.op with
  | .store n v => leBytes n v
  | _ => []

/-- A granted far access: through the cluster cache, parked, or posted; a release holds it first. -/
def farGo (s : State) (t : TId) (th : Thread) (a : Acc) (viaCache : Bool) (q : MemReq) : State :=
  let bef := if a.rel then earlier s th.uid else []
  let hold := a.rel && (bef != [] || dirtyFor s (clusterOf t.core) q.scope)
  if viaCache && !hold then
    (if opReads q.op then cacheLoad s t q
     else let (s, q) := postOp s t q; advance (cacheStore s q (storeBytes q)) t)
  else if a.farParks || watched s q then
    let (s, q) := parkFar s t q
    if hold then holdUntil s t th.uid bef (Scope.wide q.scope) 0 (reqEvent q) else sendHome s q
  else
    let (s, q) := postOp s t q
    advance (if hold then holdUntil s t th.uid bef (Scope.wide q.scope) 0 (reqEvent q) else sendHome s q) t

def isFe : HomeOp → Bool
  | .ldfe | .ldff | .stfe _ | .stff _ | .feset | .feclr => true
  | _ => false

/-- A far access (R219, R379, R441): its translation, then the home. -/
def farAccess (s : State) (t : TId) (th : Thread) (i : Instr) (a : Acc) (q : MemReq) : State :=
  let x : Xl := ⟨rootOf s th, q.va, opReads q.op, opWrites q.op, opHome q.op, false, false, q.data, q.opc⟩
  withPage s t i x (fun s p leaf lvl =>
    let q := { q with place := p, wt := leaf.getLsbD 5, entry := leaf.toNat % 65536, level := lvl }
    if isFe q.op && !fePlace p then trap s t (xlTrap x 0x11 8 q.entry lvl)
    else
      let bl := blockers s th.uid p
      if bl != [] then park s t (.opsDone bl) (some i)
      else farGo s t th a (a.cacheable && cached s (clusterOf t.core) p (leaf.getLsbD 4)) q)

/-- A scalar access (R219): alignment, then near or far. -/
def scalarAccess (s : State) (t : TId) (th : Thread) (i : Instr) (a : Acc) (near : Bool) (align : Nat) (q : MemReq) : State :=
  if q.va.toNat % align != 0 then trap s t (misaligned q.va align)
  else if near then nearAccess s t th i a { q with near := true, place := .near (clusterOf t.core) q.va.toNat }
  else farAccess s t th i a q

/-- A class-4 memory instruction: predicate, operands, then its access at the address of R219. -/
def memInstr (p : Pred) (s : State) (i : Instr) (rs : List Reg) (f : Thread → List Word → State → State) : Out :=
  guarded p s (fun th => operands s th i rs none (fun s' vs => f th vs (keeping s' vs)))
def eaMem (m : MemArg) (vs : List Word) : Word := eaOf (vs.getD 0 0) (vs.getD 1 0) m.s m.off
def eaAmem (m : AMem) (vs : List Word) : Word := vs.getD 0 0 + m.off.signExtend 64

/-! ### LD and ST, with the FIFO banks (R221, R251) -/

/-- A push or pop of a FIFO bank (R251): judged at the bank, in the order in which it serves them; the thread is parked until then,
and while the FIFO is full or empty. -/
def fifoAccess (s : State) (t : TId) (th : Thread) (i : Instr) (ea : Word) (op : HomeOp) (d : Dest) : State :=
  nearAccess s t th i ⟨judgedKind op, true, true, false, false⟩
    { mkReq t th i op d ea with near := true, place := .near (clusterOf t.core) ea.toNat, total := 20 }

/-- A near LD or ST that R250 admits at a FIFO bank. -/
def atFifo (s : State) (t : TId) (near : Bool) (ea : Word) (k : NearKind) : Option Nat :=
  if near && ea.toNat % 8 = 0 && (nearFault (clusterAt s (clusterOf t.core)) ea.toNat k).isNone then
    isFifo (clusterAt s (clusterOf t.core)) ea.toNat
  else none

def execLd (p : Pred) (sz : Size) (sx : Bool) (d : Reg) (m : MemArg) (s : State) : Out :=
  let i := Instr.ld p sz sx d m
  memInstr p s i [m.a, m.b] (fun th vs s =>
    let n := sizeBytes sz
    let ea := eaMem m vs
    match atFifo s s.cur m.near ea (.data n false) with
    | some _ => fifoAccess s s.cur th i ea .fifoPop (destOf th d sx)
    | none => scalarAccess s s.cur th i ⟨.ld, false, true, false, true⟩ m.near n
        { mkReq s.cur th i (.load n) (destOf th d sx) ea with data := true, total := 20 })

def execSt (p : Pred) (sz : Size) (d : Reg) (m : MemArg) (s : State) : Out :=
  let i := Instr.st p sz d m
  memInstr p s i [m.a, m.b, d] (fun th vs s =>
    let n := sizeBytes sz
    let ea := eaMem m vs
    match atFifo s s.cur m.near ea (.data n true) with
    | some _ => fifoAccess s s.cur th i ea (.fifoPush (vs.getD 2 0)) .none
    | none => scalarAccess s s.cur th i ⟨.st, false, false, false, true⟩ m.near n
        { mkReq s.cur th i (.store n (vs.getD 2 0)) .none ea with data := true, total := 20 })

/-- LDA (R222): a load that parks and then acquires; at DIE scope or wider it goes to the home. -/
def execLda (p : Pred) (sz : Size) (sx : Bool) (sc : Scope) (d : Reg) (m : MemArg) (s : State) : Out :=
  let i := Instr.lda p sz sx sc d m
  memInstr p s i [m.a, m.b] (fun th vs s =>
    let n := sizeBytes sz
    scalarAccess s s.cur th i ⟨.ld, true, true, false, !Scope.wide sc⟩ m.near n
      { mkReq s.cur th i (.load n) (destOf th d sx) (eaMem m vs) with
        acq := true, scope := sc, total := if Scope.wide sc then 36 else 20 })

/-- STL (R222): a store that a release holds. -/
def execStl (p : Pred) (sz : Size) (sc : Scope) (d : Reg) (m : MemArg) (s : State) : Out :=
  let i := Instr.stl p sz sc d m
  memInstr p s i [m.a, m.b, d] (fun th vs s =>
    let n := sizeBytes sz
    scalarAccess s s.cur th i ⟨.st, false, false, true, !Scope.wide sc⟩ m.near n
      { mkReq s.cur th i (.store n (vs.getD 2 0)) .none (eaMem m vs) with scope := sc, total := 20 })

/-! ### Full/empty words (R223) -/

def execLdfe (p : Pred) (sc : Scope) (d : Reg) (m : MemArg) (s : State) : Out :=
  let i := Instr.ldfe p sc d m
  memInstr p s i [m.a, m.b] (fun th vs s =>
    scalarAccess s s.cur th i ⟨.ld, true, true, false, false⟩ m.near 8
      { mkReq s.cur th i .ldfe (destOf th d false) (eaMem m vs) with acq := true, scope := sc, total := 20 })
def execLdff (p : Pred) (sc : Scope) (d : Reg) (m : MemArg) (s : State) : Out :=
  let i := Instr.ldff p sc d m
  memInstr p s i [m.a, m.b] (fun th vs s =>
    scalarAccess s s.cur th i ⟨.ld, true, true, false, false⟩ m.near 8
      { mkReq s.cur th i .ldff (destOf th d false) (eaMem m vs) with acq := true, scope := sc, total := 20 })
def execStfe (p : Pred) (sc : Scope) (d : Reg) (m : MemArg) (s : State) : Out :=
  let i := Instr.stfe p sc d m
  memInstr p s i [m.a, m.b, d] (fun th vs s =>
    scalarAccess s s.cur th i ⟨.st, true, true, true, false⟩ m.near 8
      { mkReq s.cur th i (.stfe (vs.getD 2 0)) .none (eaMem m vs) with scope := sc, total := 20 })
/-- STFF never waits: near it does not park; far it parks for the time of R62. -/
def execStff (p : Pred) (sc : Scope) (d : Reg) (m : MemArg) (s : State) : Out :=
  let i := Instr.stff p sc d m
  memInstr p s i [m.a, m.b, d] (fun th vs s =>
    scalarAccess s s.cur th i ⟨.st, false, true, true, false⟩ m.near 8
      { mkReq s.cur th i (.stff (vs.getD 2 0)) .none (eaMem m vs) with scope := sc, total := 20 })

/-- FESET and FECLR: near, they complete at issue + 8 and raise no counter; far, they are posted. -/
def feWrite (p : Pred) (s : State) (i : Instr) (op : HomeOp) (m : MemArg) : Out :=
  memInstr p s i [m.a, m.b] (fun th vs s =>
    let ea := eaMem m vs
    let q := mkReq s.cur th i op .none ea
    if m.near then
      if ea.toNat % 8 != 0 then trap s s.cur (misaligned ea 8)
      else match nearTrap (clusterAt s (clusterOf s.cur.core)) ea.toNat .home q.opc with
        | some ti => trap s s.cur ti
        | none =>
          let q := { q with near := true, place := .near (clusterOf s.cur.core) ea.toNat }
          let bl := blockers s th.uid q.place
          if bl != [] then park s s.cur (.opsDone bl) (some i)
          else advance (nearSend s { q with total := 8 }) s.cur
    else scalarAccess s s.cur th i ⟨.st, false, false, false, false⟩ false 8 q)
def execFeset (p : Pred) (m : MemArg) (s : State) : Out := feWrite p s (.feset p m) .feset m
def execFeclr (p : Pred) (m : MemArg) (s : State) : Out := feWrite p s (.feclr p m) .feclr m

/-! ### WAITA, atomics and furrow cells (R226-R233) -/

def execWaita (p : Pred) (cc : WCond) (sz : Size) (sc : Scope) (m : AMem) (b : Reg) (s : State) : Out :=
  let i := Instr.waita p cc sz sc m b
  memInstr p s i [m.a, b] (fun th vs s =>
    let n := sizeBytes sz
    scalarAccess s s.cur th i ⟨.ld, true, true, false, false⟩ m.near n
      { mkReq s.cur th i (.waita cc n (vs.getD 1 0)) .none (eaAmem m vs) with acq := true, scope := sc, total := 24 })

/-- An atomic operation: .ACQ acquires at its completion, .REL holds it first (R228). -/
def atomicInstr (p : Pred) (s : State) (i : Instr) (rs : List Reg) (d : Reg) (sx : Bool) (o : Ord) (sc : Scope) (m : AMem)
    (align : Nat) (op : List Word → Thread → HomeOp) : Out :=
  memInstr p s i rs (fun th vs s =>
    let acq := o = .acq || o = .ar
    scalarAccess s s.cur th i ⟨.ld, false, true, o = .rel || o = .ar, false⟩ m.near align
      { mkReq s.cur th i (op vs th) (destOf th d sx) (eaAmem m vs) with
        acq := acq, scope := sc, total := if acq && Scope.wide sc then 40 else 24 })

def execAmo (p : Pred) (op : AmoOp) (sz : Size) (sx : Bool) (o : Ord) (sc : Scope) (d : Reg) (m : AMem) (b : Reg) (s : State) : Out :=
  atomicInstr p s (.amo p op sz sx o sc d m b) [m.a, b] d sx o sc m (sizeBytes sz) (fun vs _ => .amo op (sizeBytes sz) (vs.getD 1 0))
def execCas (p : Pred) (sz : Size) (sx : Bool) (o : Ord) (sc : Scope) (d : Reg) (m : AMem) (b : Reg) (s : State) : Out :=
  atomicInstr p s (.cas p sz sx o sc d m b) [m.a, b, d] d sx o sc m (sizeBytes sz) (fun vs _ => .cas (sizeBytes sz) (vs.getD 2 0) (vs.getD 1 0))
def execAmof (p : Pred) (op : AmofOp) (o : Ord) (sc : Scope) (d : Reg) (m : AMem) (b : Reg) (s : State) : Out :=
  atomicInstr p s (.amof p op o sc d m b) [m.a, b] d false o sc m 4 (fun vs _ => .amof op (vs.getD 1 0))
def execFraddM (p : Pred) (kind : FrKind) (o : Ord) (sc : Scope) (d : Reg) (m : AMem) (b : Reg) (s : State) : Out :=
  atomicInstr p s (.fraddM p kind o sc d m b) [m.a, b] d false o sc m 32
    (fun vs th => .fradd kind (vs.getD 1 0) (th.scr.fctl.getLsbD 8))
def execFrrdM (p : Pred) (rm : AccRm) (clr : Bool) (o : Ord) (sc : Scope) (d : Reg) (m : AMem) (s : State) : Out :=
  atomicInstr p s (.frrdM p rm clr o sc d m) [m.a] d false o sc m 32 (fun _ _ => .frrd rm clr)

/-! ### FENCE, WAIT, CFLUSH (R225, R227, R240) -/

/-- The dirty lines of the issuing cluster go home for a release; the cycle at which they are acknowledged. -/
def releaseLines (s : State) (g : Nat) (sc : Scope) : State × Nat :=
  if Scope.wide sc then let (s, d) := writeBackAll s g; (s, s.now + d) else (s, s.now)

/-- FENCE: .REL writes back and waits until st = 0, and then writes back what became dirty in between, so that no line dirty by
then is left (R225); .ACQ invalidates the clean lines and takes 16 cycles; .AR both. The parts: 1 waits for st, 3 for the last
acknowledgement, 2 is the acquire's wait. -/
def execFence (p : Pred) (o : Ord) (sc : Scope) (s : State) : Out :=
  let i := Instr.fence p o sc
  guarded p s (fun th =>
    let g := clusterOf s.cur.core
    let part (s : State) (n : Nat) (c : Nat) : State :=
      modThread (park s s.cur .drain (some i)) s.cur (fun th => { th with cont := n, release := some c })
    let acquire (s : State) : State :=
      modThread (park (acquireAt s g sc) s.cur (.until (s.now + 16)) (some i)) s.cur (fun th => { th with cont := 2 })
    let released (s : State) : State := if o = .ar then acquire s else advance s s.cur
    if th.cont = 2 then advance s s.cur
    else if o = .acq then acquire s
    else if th.cont = 3 then released s
    else
      let r := releaseLines s g sc
      if th.st != 0 then part r.1 1 r.2
      else if r.2 ≤ s.now then released r.1 else part r.1 3 r.2)

/-- WAIT's counters are at or below their limits (R227). -/
def waitOk (th : Thread) (l s c t : Nat) : Bool := decide (th.ld ≤ l) && decide (th.st ≤ s) && decide (th.cp ≤ c) && decide (th.tl ≤ t)
def execWait (p : Pred) (l st c t : BitVec 6) (s : State) : Out :=
  guarded p s (fun th =>
    if waitOk th l.toNat st.toNat c.toNat t.toNat then advance s s.cur
    else park s s.cur (.waitCnt l.toNat st.toNat c.toNat t.toNat) (some (.wait p l st c t)))

/-- CFLUSH (R240) on the line of a global address in the issuing cluster's cache. -/
def execCflush (p : Pred) (inv : Bool) (m : MemArg) (s : State) : Out :=
  let i := Instr.cflush p inv m
  memInstr p s i [m.a, m.b] (fun th vs s =>
    let x : Xl := ⟨rootOf s th, eaMem m vs, false, false, false, false, true, false, opOf i⟩
    withPage s s.cur i x (fun s pl leaf _ =>
      let g := clusterOf s.cur.core
      let q := { mkReq s.cur th i (.store 0 0) .none x.va with place := lineOf pl, data := true }
      let (s, q) := postOp s s.cur q
      let (s, d) := match findLine (clusterAt s g) pl with
        | some l => if leaf.getLsbD 4 then (s, 8) else (writeBack s g pl inv, if l.dirty = 0 then 8 else backTime g l)
        | none => (s, 8)
      advance (later s d (.acknowledgement s.cur q.tag none)) s.cur))

/-! ### Vector memory (R172, R173) -/

/-- A lane with the page that its address lies on. -/
def laneAt (n : Nat) (va : Word) (p : Place) (leaf : Word) (lvl : Nat) : Lane := ⟨n, p, va, leaf.getLsbD 5, leaf.toNat % 65536, lvl⟩
/-- MS of a lane's leaf. -/
def laneMs (x : Lane) : Bool := x.entry / 16 % 2 = 1

/-- Settles the page of each address in turn (R441), then goes on with every place. -/
def withPages (s : State) (t : TId) (i : Instr) (x : Xl) (k : State → List Lane → State) : List (Nat × Word) → List Lane → State
  | [], acc => k s acc
  | (l, va) :: r, acc => withPage s t i { x with va := va } (fun s p leaf lvl => withPages s t i x k r (acc ++ [laneAt l va p leaf lvl]))

/-- Far pieces of `n` bytes each that one instruction moves: lanes, or the words of a frame image. -/
structure Pieces where
  n : Nat
  read : Bool
  vals : List Word        -- by piece number, for a store

/-- Loads the cached pieces: the state, the words by piece number, and the longest time. -/
def cachePieces (s : State) (g : Nat) (pc : Pieces) (size : Nat) (ps : List Lane) : State × List Word × Nat :=
  ps.foldl (fun (acc : State × List Word × Nat) x =>
    let (s, hit) := touchLine acc.1 g x.place
    let d := max acc.2.2 (lineTime s g x.place hit)
    if pc.read then (s, acc.2.1.set x.n (wordLE (cacheBytes s g x.place pc.n)), d)
    else (cachePut s g x.place (leBytes pc.n (pc.vals.getD x.n 0)), acc.2.1, d)) (s, List.replicate size 0, 0)

/-- The farthest place: the request that completes last decides (R173). -/
def farthest (g : Nat) (ps : List Lane) : Place :=
  match ps with
  | [] => .hbm 0
  | x :: r => r.foldl (fun p y => if farTime g p false < farTime g y.place false then y.place else p) x.place

/-- A far access of several pieces: cached ones in the cluster cache, the others at their homes, all answered together.
`post` says that the thread does not park for a store. The words of cached loads are held in the thread's latch. -/
def farPieces (s : State) (t : TId) (th : Thread) (i : Instr) (q : MemReq) (pc : Pieces) (size : Nat) (post : Bool) (retry : Option Instr)
    (lanes : List (Nat × Word)) : State :=
  let g := clusterOf t.core
  let x : Xl := ⟨rootOf s th, q.va, pc.read, !pc.read, false, false, false, true, q.opc⟩
  withPages s t i x (fun s ps =>
    let bl := ps.flatMap (fun y => blockers s th.uid y.place)
    if bl != [] then park s t (.opsDone bl) (some i)
    else
      let inCache (y : Lane) : Bool := cached s g y.place (laneMs y)
      let un := ps.filter (fun y => !inCache y)
      match (if pc.read then (ps.filter inCache).find? (fun y => (findLine (clusterAt s g) y.place).isNone && placeErr s (lineOf y.place) 64) else none) with
      | some y => parkLocal s t q (farTime g y.place false) (replyFault (errTrap s y.place y.va q.opc))
      | none =>
      let (s, ws, d) := cachePieces s g pc size (ps.filter inCache)
      let q := { q with lanes := un, place := farthest g un }
      let withRetry (s : State) : State := modThread s t (fun th => { th with latch := some ws, park := th.park.map (fun p => { p with retry := retry }) })
      if post && !watched s q then
        advance (if un = [] then let (s, q) := postOp s t q; later s d (.acknowledgement t q.tag none) else postParts s t q) t
      else if un = [] then withRetry (parkLocal s t q d (replyOk 0 0))
      else let (s, q) := parkFar s t q; sendParts (withRetry s) q) lanes []

/-- Packs words of 32 bits into a register. -/
def packLanes (ws : List Word) : Nat := packElems 32 (ws.map BitVec.toNat)

/-- The active lanes with their addresses, lane order. -/
def lanesOf (mask : Word) (f : Nat → Word) : List (Nat × Word) :=
  ((List.range 16).filter (active mask)).map (fun l => (l, f l))

/-- A vector access (R172): the fault at the lowest faulting lane address; then near at its banks, or far. -/
def vecAccess (s : State) (t : TId) (th : Thread) (i : Instr) (near : Bool) (store : Option Line) (mask : Word) (d : Dest) (f : Nat → Word) : State :=
  let lanes := lanesOf mask f
  let m16 : BitVec 16 := mask.setWidth 16
  let op : HomeOp := match store with
    | none => .vload m16
    | some v => .vstore m16 v
  let g := clusterOf t.core
  let byAddr := sortBy (fun x => x.2.toNat) lanes
  let bad := byAddr.findSome? (fun x =>
    if x.2.toNat % 4 != 0 then some (misaligned x.2 4)
    else if near then nearTrap (clusterAt s g) x.2.toNat .sync (opOf i) else none)
  let q := { mkReq t th i op d (f 0) with data := true, total := 20 }
  match byAddr, bad with
  | [], _ => advance (modThread s t (fun th => deliver th d 64 0)) t
  | x :: _, none =>
    if near then
      nearAccess s t th i ⟨if store.isNone then .ld else .st, false, false, false, false⟩
        { q with near := true, place := .near g x.2.toNat, lanes := lanes.map (fun y => ⟨y.1, .near g y.2.toNat, y.2, false, 0, 0⟩) }
    else farPieces s t th i q ⟨4, store.isNone, (List.range 16).map (fun l => (laneOf (store.getD 0) l).setWidth 64)⟩ 16 store.isSome none byAddr
  | (_, a) :: r, some ti =>
    if near then trap s t ti
    else
      -- far: the misaligned lane is reported unless a lower lane's translation is refused
      let before := ((0, a) :: r).takeWhile (fun x => x.2.toNat % 4 = 0)
      withPages s t i ⟨rootOf s th, q.va, opReads op, opWrites op, false, false, false, true, q.opc⟩ (fun s _ => trap s t ti) before []

/-- The lane addresses of VLD and VST, and of VLDG and VSTS (R172). -/
def rowAddr (m : VMem) (vs : List Word) (l : Nat) : Word := eaOf (vs.getD 0 0) (vs.getD 1 0) m.s m.off + BitVec.ofNat 64 (4 * l)
def gatherAddr (m : VMem) (base : Word) (idx : Line) (l : Nat) : Word := eaOf base ((laneOf idx l).setWidth 64) m.s m.off

def vDest (d : Reg) (mask : Word) (z : Bool) : Dest := .lanes d (mask.setWidth 16) z

def execVld (p : Pred) (d : Reg) (m : VMem) (s : State) : Out :=
  let i := Instr.vld p d m
  guarded p s (fun th => operands s th i [m.a, m.b] none (fun s' vs =>
    let mask := maskOf (viewOf s s.cur th) m.m
    vecAccess (keeping s' vs) s.cur th i m.near none mask (vDest d mask m.z) (rowAddr m vs)))
def execVst (p : Pred) (d : Reg) (m : VMem) (s : State) : Out :=
  let i := Instr.vst p d m
  guarded p s (fun th => operands s th i [m.a, m.b] none (fun s' vs =>
    let v := viewOf s s.cur th
    vecAccess (keeping s' vs) s.cur th i m.near (some (readV v d)) (maskOf v m.m) .none (rowAddr m vs)))
def execVldg (p : Pred) (d : Reg) (m : VMem) (s : State) : Out :=
  let i := Instr.vldg p d m
  guarded p s (fun th => operands s th i [m.a] none (fun s' vs =>
    let v := viewOf s s.cur th
    let mask := maskOf v m.m
    vecAccess (keeping s' vs) s.cur th i m.near none mask (vDest d mask m.z) (gatherAddr m (vs.getD 0 0) (readV v m.b))))
def execVsts (p : Pred) (d : Reg) (m : VMem) (s : State) : Out :=
  let i := Instr.vsts p d m
  guarded p s (fun th => operands s th i [m.a] none (fun s' vs =>
    let v := viewOf s s.cur th
    vecAccess (keeping s' vs) s.cur th i m.near (some (readV v d)) (maskOf v m.m) .none (gatherAddr m (vs.getD 0 0) (readV v m.b))))

/-! ### Completion of a parked access -/

/-- The words that an answer completes: those already held, with the answer's pieces in their places. -/
def mergeWords (held : List Word) (q : MemReq) (r : ReplyData) : List Word :=
  match q.op with
  | .readFrame => r.frame.foldl (fun ws x => ws.set x.1 x.2) held
  | _ => q.lanes.foldl (fun ws x => ws.set x.n ((laneOf r.data x.n).setWidth 64)) held

/-- A parked access is answered (R62, R143, R241): its fault traps; a withdrawn one takes trap 0x20; else its acquire is
performed, its destination and flags are written and the thread goes on, or an instruction of several parts continues. -/
def completeFar (s : State) (t : TId) (q : MemReq) (r : ReplyData) (limit : TrapInfo) : State :=
  match thread? s t with
  | none => s
  | some th =>
    match r.fault with
    | some ti => trap (setThread s t (setDest th q.dest)) t ti
    | none =>
      if r.withdrawn then trap (setThread s t (setDest th q.dest)) t limit
      else
        let s := if q.acq then acquireAt s (clusterOf t.core) q.scope else s
        match th.park.bind Park.retry with
        | some i =>
          let ws := match q.op with
            | .readFrame => mergeWords (th.latch.getD []) q r
            | _ => th.latch.getD [] ++ [r.data.setWidth 64]
          { modThread s t (fun th => { th with latch := some ws, cont := 2, park := none }) with resume := some (t, i) }
        | none =>
          let data := match q.op with
            | .vload _ => BitVec.ofNat 512 (packLanes (mergeWords (th.latch.getD (List.replicate 16 0)) q r))
            | _ => r.data
          advance (modThread s t (fun th => orFlags (deliver th q.dest (opResult q.op) data) r.flags)) t

/-! ### Releases -/

/-- A held operation's waits are over (R222): it is performed where it was going. -/
def releaseHeld (s : State) (h : HeldOp) : State :=
  let s := { s with held := s.held.filter (fun x => x.id != h.id) }
  match reqOf h.act with
  | none => match h.act with
    | .frameMessage _ dest src _ => sendFlit s (clusterOf src.core) (clusterOf dest) false (posOf dest) 6 (h.delay + 12) 13 h.act
    | a => later s h.delay a
  | some q =>
    if q.near then nearSend s q
    else
      let viaCache := (match q.op with
        | .store _ _ => !Scope.wide q.scope
        | _ => false) && cached s (clusterOf q.src.core) q.place (q.entry / 16 % 2 = 1)
      if viaCache then cacheStore s q (storeBytes q) else sendHome s q

/-! ### Events of memory -/

def execNearLoadLand (_t : TId) (id : Nat) (s : State) : Out := .next (landOp s id)
def execNearStoreAck (_t : TId) (id : Nat) (s : State) : Out := .next (landOp s id)

/-- The order of R231 at a base-die unit: the own die's clusters, the other dies, the host link. -/
def portRank (home : Nat) (q : MemReq) : Nat :=
  let d := dieOf q.src.core
  (if d = home then 0 else 1 + d) * 65536 + q.src.core
def actRank (home : Nat) : ChanAct → Nat
  | .req q => portRank home q
  | .host _ _ => 9 * 65536
/-- A request takes its place in an HBM channel's queue: by arrival, then by the order of R231 (R260, R266). -/
def queueChannel (s : State) (a : Nat) (act : ChanAct) : State :=
  let ch := hbmUnit a
  let rank := actRank (hbmDie a)
  let before (x : ChanReq) : Bool := decide (x.arrived < s.now) || decide (rank x.act ≤ rank act)
  { s with channels := s.channels.filter (fun x => x.ch != ch || before x) ++ [⟨ch, act, s.now⟩]
                         ++ s.channels.filter (fun x => x.ch = ch && !before x) }
/-- A request at a bank's port; for a slot that no bank holds the cluster answers at once. -/
def reachBank (s : State) (q : MemReq) : State :=
  match placeBank s q.place with
  | some (g, b) => portPut s g ⟨b, portOf q, some s.now, if q.near then issuedAt s.now q else s.now, if (gatherOf s q.opId).isSome && q.near then .piece q else .req q⟩
  | none => if q.near then (if (gatherOf s q.opId).isSome then servePart s q else nearReach s q) else arriveReq s q
/-- A request reaches its home: a bank's port, an HBM channel's queue, or a unit that serves it at once. -/
def bringReq (s : State) (q : MemReq) : State :=
  match q.place with
  | .hbm a => queueChannel s a (.req q)
  | .near _ _ => reachBank s q
  | _ => arriveReq s q
/-- A request that its bank serves. -/
def serveAtBank (s : State) (q : MemReq) : State := if q.near then nearReach s q else arriveReq s q

/-! ### Events of requests -/

def execLoadRequest (q : MemReq) (s : State) : Out := .next (bringReq s q)
def execStoreRequest (q : MemReq) (s : State) : Out := .next (bringReq s q)
def execAtomicRequest (q : MemReq) (s : State) : Out := .next (bringReq s q)
def execFullEmptyRequest (q : MemReq) (s : State) : Out := .next (bringReq s q)
def execWaitaRequest (q : MemReq) (s : State) : Out := .next (bringReq s q)

/-- HBM_CHANNEL_ACCESS (R260): in cycles t with t mod 32 below 25 the channel serves its oldest request. -/
def execHbmChannelAccess (ch : Nat) (s : State) : Out :=
  .next (if 25 ≤ s.now % 32 then s
    else match s.channels.find? (fun x => x.ch = ch) with
      | none => s
      | some x =>
        let s := { s with channels := s.channels.erase x }
        match x.act with
        | .req q => arriveReq s q
        | .host addr data => if data = [] then s else homeWrite s (.hbm addr) data)

/-- The home has executed this request. -/
def servedAt (s : State) (q : MemReq) : Bool :=
  match unitEnt s (homeOf s q.place) q.src with
  | some u => (seenReply u q).isSome
  | none => false
/-- The thread still waits for this far request. -/
def farWaits (s : State) (q : MemReq) : Bool :=
  match (thread? s q.src).bind Thread.park with
  | some p => (match p.why with
    | .far x => x.uid = q.uid && x.opId = q.opId
    | _ => false)
  | none => false
/-- WITHDRAWAL (R241): an operation that the home has not served is removed and answered; a served one is left. One that is
still on its way behind the withdrawal is awaited there. -/
def withdrawReq (s : State) (q : MemReq) : State :=
  match (waitersOf s (homeOf s q.place)).find? (fun w => w.q.src = q.src && w.q.uid = q.uid && w.q.opId = q.opId) with
  | none => if servedAt s q || !farWaits s q then s else later s 1 (.withdrawal q)
  | some w =>
    let n := opResult w.q.op
    answer (dropWaiter s w) w.q { replyOk (ofBytesLE (placeRead s w.q.place n)) (if feFull s w.q.place then 1 else 0) with withdrawn := true }
def execWithdrawal (q : MemReq) (s : State) : Out := .next (withdrawReq s q)

/-- The answer to the request that a thread is parked on. -/
def toldReply (s : State) (t : TId) (q : MemReq) (r : ReplyData) : State :=
  modThread s t (fun th => { th with park := th.park.map (fun p => { p with why := .replied q r }) })
/-- REPLY (R391): the thread that is parked on this identity has its answer, when every request of its access is answered; any
other reply is discarded. -/
def replyLands (s : State) (t : TId) (tag : Nat) (r : ReplyData) : State :=
  match ((thread? s t).bind Thread.park).map Park.why with
  | some (.far q) => match gatherOf s q.opId with
    | none => if q.tag = tag then toldReply s t q r else s
    | some x => match x.parts.find? (fun y => y.tag = tag) with
      | none => s
      | some y =>
        let x := gatherStep x y r
        if x.parts = [] then toldReply (dropGather s x.id) t q x.r else setGather s x
  | _ => s
def execReply (t : TId) (tag : Nat) (r : ReplyData) (s : State) : Out := .next (replyLands s t tag r)

/-- ACKNOWLEDGEMENT (R391): the posted request is complete; a fault met at its home is deferred (R131, R258). -/
def ackReq (s : State) (t : TId) (tag : Nat) (fault : Option TrapInfo) : State :=
  match s.ops.find? (fun o => o.t = t && o.tag = some tag) with
  | none => s
  | some o =>
    let s := if o.resends = 0 then s
      else modSlot s t (fun x => { x with quiet := x.quiet.filter (fun y => s.now < y.2) ++ [(tag % 64, o.lastSent + 4 * timeoutOf ((o.q.map MemReq.place).getD (.hbm 0)))] })
    let s := endPosted s o
    match fault with
    | some ti => deferTo s o.uid o.t o.launch ti
    | none => s
def execAcknowledgement (t : TId) (tag : Nat) (fault : Option TrapInfo) (s : State) : Out := .next (ackReq s t tag fault)

/-- REFUSAL (R392): the source resends 64 cycles after the refusal lands. -/
def execRefusal (q : MemReq) (s : State) : Out :=
  .next (sendBack s (clusterOf q.src.core) q.place 0x12 64 (.refusalResend q))
def execRefusalResend (q : MemReq) (s : State) : Out :=
  .next (sendTo s (clusterOf q.src.core) q.place (reqKind q) 0 (reqEvent q))

/-- Trap 0x70 of a request whose resends failed (R393), by R408: SITE 8, or 6 and 7 for host memory and a peer. -/
def timeoutTrap (q : MemReq) : TrapInfo :=
  let site := match q.place with
    | .host _ => 6
    | .peer _ _ => 7
    | _ => 8
  ⟨0x70, q.va, BitVec.ofNat 64 (site * 2 ^ 32 + q.opc * 2 ^ 18)⟩

/-- REQUEST_TIMEOUT (R393): a request still unanswered is resent with its identity; after three resends a parked thread
traps, and a posted request completes with a deferred trap. An operation that waits at its home has been received and is
not resent. `tag` is 128 + RTAG for a posted request. -/
def execRequestTimeout (t : TId) (tag : Nat) (s : State) : Out :=
  .next (if 128 ≤ tag then
    match s.ops.find? (fun o => o.t = t && o.tag = some (tag - 128)) with
    | none => s
    | some o => match o.q with
      | none => s
      | some q =>
        if s.now < o.lastSent + timeoutOf q.place then s
        else if o.resends = 3 then ackReq s t (tag - 128) (some (timeoutTrap q))
        else
          let s := { s with ops := s.ops.map (fun x => if x.id = o.id then { x with resends := x.resends + 1, lastSent := s.now } else x) }
          later (sendTo s (clusterOf t.core) q.place (reqKind q) 0 (reqEvent q)) (timeoutOf q.place) (.requestTimeout t tag)
  else
    match (thread? s t).bind Thread.park with
    | some pk => match pk.why with
      | .translation x (some (e, lvl)) =>
        let k := (s.now - pk.since) / 131072
        if tag != 2 || k = 0 then s
        else if k = 4 then trap s t ⟨0x70, x.va, BitVec.ofNat 64 (7 * 2 ^ 32 + x.opc * 2 ^ 18)⟩
        else askPeer s t (entPkg e) (windowFrame e lvl x.va)
      | .far q =>
        let k := (s.now - q.total) / timeoutOf q.place
        if q.tag != tag || tag = 2 || k = 0 || (waitersOf s (homeOf s q.place)).any (fun w => w.q.src = t && w.q.uid = q.uid) then s
        else if k = 4 then trap (modThread (dropGather s q.opId) t (fun th => setDest th q.dest)) t (timeoutTrap q)
        else
          let open' := ((gatherOf s q.opId).map Gather.parts).getD [q]
          later (open'.foldl (fun s x => sendTo s (clusterOf t.core) x.place (reqKind x) 0 (reqEvent x)) s) (timeoutOf q.place) (.requestTimeout t tag)
      | _ => s
    | none => s)

/-- HOME_WAITER_SERVE (R224): after a change the home serves the satisfied waiting operations one per cycle, in the order
in which they reached it; a free entry goes to the refused operation with the earliest refusal. -/
def admitRefused (s : State) (h : HomeId) : State :=
  if (tableOf s h).length < waiterCap h then
    match oldest (fun w => w.refusedAt.getD 0) ((waitersOf s h).filter (fun w => w.refusedAt.isSome)) with
    | some w => addWaiter (dropWaiter s w) { w with refusedAt := none, arrived := s.now }
    | none => s
  else s
/-- The first waiting operation that its home can serve now. -/
def serveFirst (s : State) : List Waiter → Option (State × Waiter × ReplyData)
  | [] => none
  | w :: r => match homeExec s w.q with
    | (s', some a) => some (s', w, a)
    | (_, none) => serveFirst s r
/-- The home has executed a far request: its source's entry remembers it (R392). -/
def noteServed (s : State) (h : HomeId) (q : MemReq) (r : ReplyData) : State :=
  if q.near then s
  else match unitEnt s h q.src with
    | some u => setUnitEnt s (noteId u q r s.now)
    | none => s
/-- A waiting operation has been executed: it leaves the home and its wait ends. -/
def endWait (s : State) (h : HomeId) (w : Waiter) (r : ReplyData) : State :=
  answerWaiter (dropWaiter (noteServed s h w.q r) w) w.q r
/-- A FIFO bank with a waiting popper holds words that are not yet readable. -/
def wordsComing (s : State) (h : HomeId) : Bool :=
  (waitersOf s h).any (fun w => match w.q.op, fifoQueue s w.q.place with
    | .fifoPop, some c => chWords s c != []
    | _, _ => false)
def serveWaiter (s : State) (h : HomeId) : State :=
  match serveFirst s ((waitersOf s h).filter (fun w => w.refusedAt.isNone)) with
  | none => if wordsComing s h then later s 1 (.homeWaiterServe h) else s
  | some (s, w, r) =>
    let s := endWait s h w r
    if s.agenda.any (fun x => x.1 = s.now + 1 && x.2 = .homeWaiterServe h) then s else later s 1 (.homeWaiterServe h)
def execHomeWaiterServe (h : HomeId) (s : State) : Out := .next (serveWaiter s h)

/-- WAITER_TABLE_RESEND (R224): an operation refused by a full table is resent every 64 cycles; it is judged on its arrival, and
takes an entry when one is free and no earlier refusal waits for it. -/
def resendWaiter (s : State) (q : MemReq) : State :=
  let h := homeOf s q.place
  match (waitersOf s h).find? (fun w => w.q = q && w.refusedAt.isSome) with
  | none => s
  | some w => match homeExec s q with
    | (s, some r) => endWait s h w r
    | (_, none) =>
      let s := admitRefused s h
      if (waitersOf s h).any (fun x => x.q = q && x.refusedAt.isSome) then later s 64 (.waiterTableResend q) else s
def execWaiterTableResend (q : MemReq) (s : State) : Out := .next (resendWaiter s q)

end Sys2Proof.Machine
end

