-- ==== Sys2Proof/Machine/Reduce.lean ====
section
/-! DEFINITION. Furrow messages, their receive tiles, and the reduction groups: the group table, the gathering of a round at
its root and the delivery of its result (R182-R187, R348-R353, R400-R404). -/
namespace Sys2Proof.Machine
open Sys2Proof

/-! ### Chunks and messages (R183, R350) -/

/-- The signed 64-bit chunks of N, lowest first, with their numbers. DESIGN CHOICE (43): R183's third chunk may be 2^63, which its
signed field cannot hold; the field then wraps and a fourth chunk carries the rest, so that the chunks sum to N (R205). -/
def chunksOf (n : Int) : Nat → Nat → List (Nat × Word)
  | _, 0 => []
  | k, fuel + 1 =>
    let c : Word := BitVec.ofInt 64 n
    (k, c) :: chunksOf ((n - c.toInt) / 2 ^ 64) (k + 1) fuel

/-- What one cell sends: its nonzero chunks, or one message with its state. -/
def cellChunks (n : Int) (st : Special) : List (Nat × Word × Special) :=
  if st = .fin then ((chunksOf n 0 4).filter (fun x => x.2 != 0)).map (fun x => (x.1, x.2, .fin)) else [(0, 0, st)]

/-- The messages of a transfer: the cells in CELL order, with the extra message of R183 where the last cell sends none. -/
def furrowMsgs (dest : Nat) (launch : BitVec 16) (src entry : Nat) (floor : BitVec 16) (fd : Bool) (tag : BitVec 8)
    (cells : List (Nat × Int × Special)) : List FurrowMsg :=
  let body := cells.flatMap (fun x => (cellChunks x.2.1 x.2.2).map (fun c => (x.1, c)))
  let last := (cells.getLast?).map Prod.fst
  let body := if (body.getLast?).map Prod.fst = last && last.isSome then body else body ++ [(last.getD 0, 0, 0, .fin)]
  (body.zip (List.range body.length)).map (fun x =>
    let fin := x.2 + 1 = body.length
    ⟨dest, x.1.2.2.1, floor, fd, if fin then BitVec.ofNat 11 body.length else 0, x.1.2.2.2, fin, tag, BitVec.ofNat 8 x.1.1,
      floor + BitVec.ofNat 16 (64 * x.1.2.1), launch, src, entry⟩)

/-- Sends one message from a core: 8 cycles to the core itself, else one flit (R183). -/
def sendFurrow (s : State) (src : Nat) (m : FurrowMsg) : State :=
  if m.core = src then later s 8 (.furrowMessage m)
  else sendFlit s (clusterOf src) (clusterOf m.core) false (posOf m.core) 5 12 12 (.furrowMessage m)

/-- Cycles from the last injection to the completion of the transfer (R183). -/
def furrowDone (src dest : Nat) : Nat := if src = dest then 8 else 48 + 4 * hops (clusterOf src) (clusterOf dest)

/-! ### Receive state (R184, R185) -/

/-- The recorded triple of mismatched messages is the least one. -/
def leastMism (old : Option (BitVec 8 × BitVec 8 × BitVec 16)) (m : BitVec 8 × BitVec 8 × BitVec 16) : BitVec 8 × BitVec 8 × BitVec 16 :=
  let key (x : BitVec 8 × BitVec 8 × BitVec 16) : Nat := x.1.toNat * 2 ^ 24 + x.2.1.toNat * 2 ^ 16 + x.2.2.toNat
  match old with
  | none => m
  | some o => if key m < key o then m else o

/-- Changes a cell; its parity stays as it is. -/
def putCell (t : Tile) (c : Nat) (x : Cell) : Tile := { t with cells := if x = cellReset then del c t.cells else put c x t.cells }
/-- Writes a cell, and with it its parity (R405). -/
def setCell (t : Tile) (c : Nat) (x : Cell) : Tile := { putCell t c x with bad := t.bad.filter (fun y => y != c) }

/-- A tile receives a message (R184). -/
def receiveMsg (t : Tile) (m : FurrowMsg) : Tile :=
  let t := { t with arr := t.arr + 1 }
  let t := if m.last then { t with sends := min (t.sends + 1) 256, ann := t.ann + m.total.toNat } else t
  if m.f != t.floor || m.fd then { t with mism := some (leastMism t.mism (m.cell, m.tag, m.f)) }
  else
    let c := cellAt t m.cell.toNat
    if m.state != .fin || c.st != .fin then
      let st := stAdd c.st m.state
      putCell t m.cell.toNat ⟨if st = .fin then c.n else 0, st⟩
    else putCell t m.cell.toNat ⟨c.n + BitVec.ofInt 200 (m.chunk.toInt * 2 ^ (64 * ((m.exp - m.f).toNat / 64))), .fin⟩

/-- scr.einfo of R187. -/
def info187 (op reason : Nat) (f : BitVec 16) (tag cell : BitVec 8) : Word :=
  info18 op reason 0 cell.toNat ||| BitVec.ofNat 64 (f.toNat * 2 ^ 48 + tag.toNat * 2 ^ 40)

/-- Changes an engine entry that has started. -/
def modEntry (s : State) (core id : Nat) (f : EngEntry → EngEntry) : State :=
  modCore s core (fun k => { k with engine := { k.engine with active := k.engine.active.map (fun e => if e.id = id then f e else e) } })

/-- CELL of a deferred 0x11: the lowest cell of the messages discarded so far (R187). -/
def lowerCell (f : Option TrapInfo) (c : BitVec 8) : BitVec 8 :=
  match f with
  | some ti => if (ti.info.setWidth 8).toNat < c.toNat then ti.info.setWidth 8 else c
  | none => c

/-- FURROW_MESSAGE: applied in the cycle it arrives; discarded where the core holds no thread of the sender's launch, and
its FRSEND then completes with trap 0x11 (R184). -/
def applyFurrow (s : State) (m : FurrowMsg) : State :=
  if (coreThreads m.core (coreAt s m.core)).any (fun x => x.2.launch = m.launch) then
    modCore s m.core (fun k => let n := m.tag.toNat % 8; setTile k n (receiveMsg (tileAt k n) m))
  else if m.entry = 0 then s
  else modEntry s m.src m.entry (fun e =>
    { e with fault := some ⟨0x11, BitVec.ofNat 64 m.core, info187 0x30A 0 0 0 (lowerCell e.fault m.cell)⟩ })
def execFurrowMessage (m : FurrowMsg) (s : State) : Out := .next (applyFurrow s m)

/-! ### Judging cells (R121, R184, R204) -/

def satCell (c : Cell) : Cell := if c.st = .fin && !inRange c.n.toInt then ⟨0, satState c.n.toInt⟩ else c
def cellOut (c : Cell) : Bool := c.st = .fin && !inRange c.n.toInt

/-- Reads and judges cells of a tile: trap 0x70 and the lowest cell whose parity fails (R131); trap 0x31 and the lowest that is out
of range while FOV = 0; or the tile with such cells saturated. -/
def judge (fov : Bool) (t : Tile) (cells : List Nat) : Except (BitVec 8 × Nat) Tile :=
  match cells.find? (fun c => c ∈ t.bad), cells.find? (fun c => cellOut (cellAt t c)), fov with
  | some c, _, _ => .error (0x70, c)
  | none, some c, false => .error (0x31, c)
  | _, _, _ => .ok (cells.foldl (fun t c => setCell t c (satCell (cellAt t c))) t)

/-! ### The group table (R400, R401) -/

def groupLine (s : State) (g : Nat) : Line := (look g s.trust.groups).getD 0
def gField (l : Line) (byte n : Nat) : Nat := l.toNat / 2 ^ (8 * byte) % 2 ^ (8 * n)
def gNmemb (l : Line) : Nat := gField l 0 2
def gValid (l : Line) : Bool := gField l 2 1 % 2 = 1
def gRootPkg (l : Line) : Nat := gField l 8 4 / 2048
def gRootCore (l : Line) : Nat := gField l 8 4 % 2048

/-- The member index of a core of this package. -/
def memberIndex (s : State) (g core : Nat) : Option Nat :=
  if gValid (groupLine s g) then (((look g s.trust.members).getD []).find? (fun x => x.1 = core)).map Prod.snd else none

/-- The round runs in switch mode (R401). -/
def switchMode (s : State) (g k : Nat) : Bool :=
  let l := groupLine s g
  let hops := gField l 3 1
  let a := if k < gField l 4 4 then gField l 32 2 else gField l 34 2
  decide (0 < hops) && a % 2 ^ hops = 2 ^ hops - 1 && s.trust.key.isSome

/-- Takes a core's next round number of a group (R349). -/
def nextRound (s : State) (core g : Nat) (digest : Bool) : State × Nat :=
  let k := coreAt s core
  let n := (look g (if digest then k.dgchkK else k.nredK)).getD 0
  let bump (l : List (Nat × Nat)) := put g ((n + 1) % 2 ^ 32) l
  (setCore s core (if digest then { k with dgchkK := bump k.dgchkK } else { k with nredK := bump k.nredK }), n)

def addFlight (s : State) (f : InFlight) : State := { s with trust := { s.trust with inflight := s.trust.inflight ++ [f] } }

/-! ### A round at its root (R403, R404) -/

/-- The members of a round in flight on this package. -/
def flights (s : State) (g : Nat) (r : BitVec 20) (digest : Bool) : List InFlight :=
  s.trust.inflight.filter (fun f => f.group = g && f.round % 2 ^ 20 = r.toNat && f.digest = digest)
def endFlights (s : State) (g : Nat) (r : BitVec 20) (digest : Bool) : State :=
  { s with trust := { s.trust with inflight := s.trust.inflight.filter (fun f => !(f.group = g && f.round % 2 ^ 20 = r.toNat && f.digest = digest)) } }

def roundOf (s : State) (g : Nat) (r : BitVec 20) (digest : Bool) : Round :=
  (s.trust.rounds.find? (fun x => x.group = g && x.round = r && x.digest = digest)).getD ⟨g, r, digest, [], []⟩
def setRound (s : State) (x : Round) (keep : Bool) : State :=
  let rest := s.trust.rounds.filter (fun y => !(y.group = x.group && y.round = x.round && y.digest = x.digest))
  { s with trust := { s.trust with rounds := if keep then rest ++ [x] else rest } }

/-- The sum of every contribution to one cell, modulo 2^200 (R350). -/
def sumCell (arr : List NredMsg) (c : Nat) : Cell :=
  arr.foldl (fun (x : Cell) m => match m.cells.find? (fun y => y.1 = c) with
    | none => x
    | some (_, st, n) =>
      let st' := stAdd x.st st
      ⟨if st' = .fin then x.n + BitVec.ofInt 200 n else 0, st'⟩) cellReset

/-- The floor of a round: that of member 0, and whether the arrivals disagree; then the floor of the arrival with the least
MINM among those that differ (R351, R403). -/
def roundFloor (arr : List NredMsg) : BitVec 16 × Bool :=
  let least (l : List NredMsg) : Option NredMsg := oldest NredMsg.minm l
  match least arr with
  | none => (0, false)
  | some z => match least (arr.filter (fun m => m.f != z.f)) with
    | none => (z.f, false)
    | some d => (d.f, true)

/-- Delivers a gathered round to the members on this package: one message a cycle to each (R350). -/
def deliverRound (s : State) (x : Round) : State :=
  let (f, fd) := roundFloor x.arrivals
  let cells := (List.range 256).map (fun c => let y := sumCell x.arrivals c; (c, y.n.toInt, y.st))
  let root := gRootCore (groupLine s x.group)
  let s1 := (flights s x.group x.round false).foldl (fun s fl =>
    ((furrowMsgs fl.t.core fl.launch root 0 f fd fl.tag cells).zip (List.range 1024)).foldl (fun s m =>
      if fl.t.core = root then later s (8 + m.2) (.furrowMessage m.1)
      else sendFlit s (clusterOf root) (clusterOf fl.t.core) false (posOf fl.t.core) 14 (12 + m.2) 12 (.furrowMessage m.1)) s) s
  setRound (endFlights s1 x.group x.round false) x false

/-- NRED_MESSAGE: a contribution reaches the root's package; the round is gathered when the COUNTs total NMEMB. -/
def gatherNred (s : State) (m : NredMsg) : State :=
  let x := roundOf s m.group m.round false
  let x := { x with arrivals := x.arrivals ++ [m] }
  if (x.arrivals.foldl (fun n a => n + a.countM1 + 1) 0) = gNmemb (groupLine s m.group) then deliverRound s x else setRound s x true
def execNredMessage (m : NredMsg) (s : State) : Out := .next (gatherNred s m)

/-- A thread that parks until a verdict is told of it. -/
def tellVerdict (s : State) (uid : Nat) (fault : Option TrapInfo) : State :=
  modUid s uid (fun th => { th with park := th.park.map (fun p => { p with why := .engineDone fault }) })

/-- Trap 0x61 (R353). -/
def digestTrap (g member : Nat) (dig : Word) (tag : BitVec 8) : TrapInfo :=
  ⟨0x61, 0, BitVec.ofNat 64 (dig.toNat % 2 ^ 32 * 2 ^ 32 + g * 2 ^ 20 + member * 2 ^ 8 + tag.toNat)⟩

/-- The verdict of a round reaches the members on this package: `bad` is the lowest member whose digest differs, with it. -/
def tellRound (s : State) (g : Nat) (r : BitVec 20) (bad : Option (Nat × Word)) : State :=
  let fs := flights s g r true
  let s := fs.foldl (fun s f => tellVerdict s f.uid (bad.map (fun b => digestTrap g b.1 b.2 f.tag))) (endFlights s g r true)
  match bad, fs with
  | some b, f :: _ => addNote s (queueOfLaunch f.launch) 0x22 (leBytes 2 (BitVec.ofNat 64 g) ++ bytesLE 0 2 ++ bytesLE r.toNat 4 ++ bytesLE b.1 2 ++ bytesLE 0 46)
  | _, _ => s

/-- DIGEST_MESSAGE: at the root a digest with the COUNT of the members that hold it; the verdict is sent when the last one
arrives. A message of COUNT 0 is the verdict: member 4,096 where every digest agrees (R353, R404). DESIGN CHOICE (109): it reaches every
member 24 cycles later. -/
def gatherDigest (s : State) (g : Nat) (r : BitVec 20) (member : Nat) (digest : Word) (count : Nat) : State :=
  if count = 0 then tellRound s g r (if member = 4096 then none else some (member, digest))
  else
    let x := roundOf s g r true
    let x := { x with digests := x.digests ++ [(member, digest, count)] }
    if (x.digests.foldl (fun n a => n + a.2.2) 0) = gNmemb (groupLine s g) then
      let bad : Option (Nat × Word × Nat) := match oldest Prod.fst x.digests with
        | none => none
        | some z => oldest Prod.fst (x.digests.filter (fun a => a.2.1 != z.2.1))
      let s := setRound s x false
      later s 24 (.digestMessage g r ((bad.map Prod.fst).getD 4096) ((bad.map (fun b => b.2.1)).getD 0) 0)
    else setRound s x true
def execDigestMessage (group : Nat) (round : BitVec 20) (member : Nat) (digest : Word) (count : Nat) (s : State) : Out :=
  .next (gatherDigest s group round member digest count)

/-- The package's seal counter has room for n messages (R399). -/
def sealRoom (s : State) (n : Nat) : Bool := s.trust.key.isNone || decide (s.trust.sealCnt + n < 2 ^ 58)
/-- Seals n messages. -/
def sealMsgs (s : State) (n : Nat) : State :=
  if s.trust.key.isNone then s else { s with trust := { s.trust with sealCnt := s.trust.sealCnt + n } }
/-- Sends n sealed messages of a core towards the root's package (R394, R399). -/
def sendSealed (s : State) (core pkg n : Nat) : State := sealMsgs (countFrames s (extPort s (clusterOf core) pkg) n) n

/-- A member's contribution sets out, `wait` cycles from now, one message a cycle: through this package's fabric to the root, or
sealed out of the package, where switches and other packages take it (R399, R403). -/
def sendNred (s : State) (core wait : Nat) (m : NredMsg) : State :=
  let l := groupLine s m.group
  if gRootPkg l = s.pkg then
    (if gRootCore l = core then later s (wait + 8) (.nredMessage m)
     else sendFlit s (clusterOf core) (clusterOf (gRootCore l)) false (posOf (gRootCore l)) 14 (wait + 12) 12 (.nredMessage m))
  else sendSealed s core (gRootPkg l) (wait - 1)
/-- Cycles from the last message to the first reducing party's acknowledgement. -/
def nredAck (s : State) (core g : Nat) : Nat :=
  let l := groupLine s g
  if gRootPkg l = s.pkg then furrowDone core (gRootCore l) else 3000

end Sys2Proof.Machine
end

