-- ==== Sys2Proof/Machine/Fp.lean ====
section
/-! DEFINITION. Class 2: scalar floating point (R79-R85). -/
namespace Sys2Proof.Machine
open Sys2Proof

/-- The code of a type in a register: its low bits (R80, R84). -/
def fcode (ty : FType) (v : Word) : Nat := v.toNat % 2 ^ fmtWidth (fmtOfFType ty)

/-- A subnormal operand or result sends the work through the normaliser: the thread forfeits two turns (R60, R85). -/
def forfeitIf (sub : Bool) (th : Thread) : Thread := if sub then { th with forfeit := 2 } else th

/-- Trap 0x30 of a class-2 instruction (R85). -/
def fpTrap (en : BitVec 5) : TrapInfo := ⟨0x30, 0, en.setWidth 64⟩

/-- The end of a class-2 instruction: an enabled exception traps with no destination written, the raised flags ORed into
scr.fflags; otherwise D takes the result (R82, R85). `s` is the state before the operands were popped. -/
def fpDone (s s' : State) (th : Thread) (d : Reg) (v : Word) (fl : BitVec 5) (sub : Bool) : State :=
  let en := enabledFlags th.scr.fctl fl
  if en != 0 then trap (modThread s s.cur (fun th => forfeitIf sub (orFlags th fl))) s.cur (fpTrap en)
  else setD (modThread s' s.cur (fun th => forfeitIf sub (orFlags th fl))) d v

/-- An arithmetic instruction of an FP type: `f` gives the result's code and flags. -/
def fpArith (s : State) (i : Instr) (p : Pred) (ty : FType) (d : Reg) (rs : List Reg) (norm : Bool)
    (f : Thread → List Nat → FRes) : Out :=
  guarded p s (fun th => operands s th i rs (some d) (fun s' vs =>
    let xs := vs.map (fcode ty)
    let r := f th xs
    let sub := norm && (xs.any (isSubnormal (fmtOfFType ty)) || isSubnormal (fmtOfFType ty) r.1)
    fpDone s s' th d (BitVec.ofNat 64 r.1) r.2 sub))

def fpBin (s : State) (i : Instr) (p : Pred) (ty : FType) (rm : RMode) (d a b : Reg) (f : Fmt → Rnd → Nat → Nat → FRes) : Out :=
  fpArith s i p ty d [a, b] true (fun th xs => f (fmtOfFType ty) (modeOf rm th.scr.fctl) (xs.getD 0 0) (xs.getD 1 0))
def fpTri (s : State) (i : Instr) (p : Pred) (ty : FType) (rm : RMode) (d a b c : Reg) (f : Fmt → Rnd → Nat → Nat → Nat → FRes) : Out :=
  fpArith s i p ty d [a, b, c] true
    (fun th xs => f (fmtOfFType ty) (modeOf rm th.scr.fctl) (xs.getD 0 0) (xs.getD 1 0) (xs.getD 2 0))

def execFadd (p : Pred) (ty : FType) (rm : RMode) (d a b : Reg) (s : State) : Out := fpBin s (.fadd p ty rm d a b) p ty rm d a b fpAdd
def execFsub (p : Pred) (ty : FType) (rm : RMode) (d a b : Reg) (s : State) : Out := fpBin s (.fsub p ty rm d a b) p ty rm d a b fpSub
def execFmul (p : Pred) (ty : FType) (rm : RMode) (d a b : Reg) (s : State) : Out := fpBin s (.fmul p ty rm d a b) p ty rm d a b fpMul
def execFdiv (p : Pred) (ty : FType) (rm : RMode) (d a b : Reg) (s : State) : Out := fpBin s (.fdiv p ty rm d a b) p ty rm d a b fpDiv
def execFma (p : Pred) (ty : FType) (rm : RMode) (d a b c : Reg) (s : State) : Out :=
  fpTri s (.fma p ty rm d a b c) p ty rm d a b c fpFma
def execFnma (p : Pred) (ty : FType) (rm : RMode) (d a b c : Reg) (s : State) : Out :=
  fpTri s (.fnma p ty rm d a b c) p ty rm d a b c fpFnma
def execFsqrt (p : Pred) (ty : FType) (rm : RMode) (d a : Reg) (s : State) : Out :=
  fpArith s (.fsqrt p ty rm d a) p ty d [a] true (fun th xs => fpSqrt (fmtOfFType ty) (modeOf rm th.scr.fctl) (xs.getD 0 0))
def execFmin (p : Pred) (ty : FType) (d a b : Reg) (s : State) : Out :=
  fpArith s (.fmin p ty d a b) p ty d [a, b] false (fun _ xs => fpMinMax (fmtOfFType ty) false (xs.getD 0 0) (xs.getD 1 0))
def execFmax (p : Pred) (ty : FType) (d a b : Reg) (s : State) : Out :=
  fpArith s (.fmax p ty d a b) p ty d [a, b] false (fun _ xs => fpMinMax (fmtOfFType ty) true (xs.getD 0 0) (xs.getD 1 0))
def execFabs (p : Pred) (ty : FType) (d a : Reg) (s : State) : Out :=
  fpArith s (.fabs p ty d a) p ty d [a] false (fun _ xs => (fpAbs (fmtOfFType ty) (xs.getD 0 0), 0))
def execFneg (p : Pred) (ty : FType) (d a : Reg) (s : State) : Out :=
  fpArith s (.fneg p ty d a) p ty d [a] false (fun _ xs => (fpNeg (fmtOfFType ty) (xs.getD 0 0), 0))
/-- pD ← the comparison (R83). -/
def execFcmp (p : Pred) (cc : FCond) (ty : FType) (d a b : Reg) (s : State) : Out :=
  guarded p s (fun th => operands s th (.fcmp p cc ty d a b) [a, b] (some d) (fun s' vs =>
    let r := fpCmp (fmtOfFType ty) cc (fcode ty (vs.getD 0 0)) (fcode ty (vs.getD 1 0))
    fpDone s s' th d (boolWord r.1) r.2 false))
/-- D ← the class mask (R83). -/
def execFclass (p : Pred) (ty : FType) (d a : Reg) (s : State) : Out :=
  guarded p s (fun th => operands s th (.fclass p ty d a) [a] (some d) (fun s' vs =>
    fpDone s s' th d (BitVec.ofNat 64 (fpClass (fmtOfFType ty) (fcode ty (vs.getD 0 0)))) 0 false))

/-- The sowing draw of FCVT.SR (R84): K = scr.seed, T = the immediate, S = scr.step, X = C[47:0], P = 0x03, D = 0. -/
def fcvtDraw (th : Thread) (t : BitVec 16) (c : Word) : Nat :=
  sowDraw th.scr.seed (t.setWidth 32) (th.scr.step.setWidth 32) (c.setWidth 48) 0x03 0

/-- A converted code in its register: INT32 is sign-extended (R84). -/
def fcvtWord (ty : FType) (n : Nat) : Word :=
  match ty with
  | .i32 => extTo true 4 (BitVec.ofNat 64 n)
  | _ => BitVec.ofNat 64 n

/-- FCVT (R84). -/
def execFcvt (p : Pred) (dst src : FType) (rm : RMode) (d a c : Reg) (t : BitVec 16) (s : State) : Out :=
  guarded p s (fun th => operands s th (.fcvt p dst src rm d a c t) (if rm = .sr then [a, c] else [a]) (some d) (fun s' vs =>
    let x := fcode src (vs.getD 0 0)
    let r := fpConvert (fmtOfFType dst) (fmtOfFType src) (modeOf rm th.scr.fctl) x (fcvtDraw th t (vs.getD 1 0))
    let sub := (src.isFp && isSubnormal (fmtOfFType src) x) || (dst.isFp && isSubnormal (fmtOfFType dst) r.1)
    fpDone s s' th d (fcvtWord dst r.1) r.2 sub))

end Sys2Proof.Machine
end

