-- ==== Sys2Proof/Machine/Vec.lean ====
section
/-! DEFINITION. Class 5 but for its memory instructions: element-wise work, conversion, shuffles, the reduction tree, keyed
randomness and block quantisation (R161-R171, R174-R180). -/
namespace Sys2Proof.Machine
open Sys2Proof

/-! ### Elements (R161) -/

def etWidth : ET → Nat
  | .f32 | .i32 | .u32 => 32
  | .bf16 | .f16 | .i16 | .u16 => 16
  | .i8 => 8
def etCount (et : ET) : Nat := 512 / etWidth et
def etIsFp : ET → Bool
  | .f32 | .bf16 | .f16 => true
  | _ => false
def etSigned : ET → Bool
  | .i32 | .i16 | .i8 => true
  | _ => false
/-- An integer element's value by its type. -/
def etInt (et : ET) (c : Nat) : Int := if etSigned et then sInt (etWidth et) c else c
/-- An integer result: it wraps, or with .SAT saturates to the type's range (R164). -/
def etWrap (et : ET) (sat : Bool) (x : Int) : Nat :=
  let w := etWidth et
  let lo : Int := if etSigned et then -(2 ^ (w - 1) : Int) else 0
  let hi : Int := if etSigned et then (2 ^ (w - 1) : Int) - 1 else (2 ^ w : Int) - 1
  wrapInt w (if sat then (if x < lo then lo else if hi < x then hi else x) else x)

/-- An element's result: its code, its flags, and whether it went through the normaliser (R60, R164). -/
structure VRes where
  code : Nat
  fl : BitVec 5
  sub : Bool
deriving DecidableEq, Repr

def vPlain (n : Nat) : VRes := ⟨n, 0, false⟩
/-- A floating-point result with its operands: a subnormal among them forfeits. -/
def vFp (f : Fmt) (ops : List Nat) (r : FRes) : VRes := ⟨r.1, r.2, ops.any (isSubnormal f) || isSubnormal f r.1⟩

/-- A register of elements of `w` bits. -/
def vecOf (w : Nat) (l : List Nat) : Line := BitVec.ofNat 512 (packElems w l)

/-- The register that active results give: inactive elements are kept, or zero under .Z (R162). -/
def vecBuild (w n : Nat) (mask : Word) (z : Bool) (old : Line) (r : Nat → Nat) : Line :=
  vecOf w ((List.range n).map (fun e => if active mask e then r e else if z then 0 else elemOf w old e))

/-- Trap 0x30 of a class-5 instruction (R164). -/
def vecTrap (en : BitVec 5) (idx : Nat) : TrapInfo := ⟨0x30, 0, BitVec.ofNat 64 (en.toNat + idx * 256)⟩

/-- The end of a class-5 instruction: flags of all active elements; an enabled exception writes no destination and traps
with the lowest element that raised one (R164). `s` is the state before the operands were popped. -/
def vecDone (s s' : State) (th : Thread) (fls : List (Nat × BitVec 5)) (sub : Bool) (wr : State → State) : State :=
  let fl := fls.foldl (fun a x => a ||| x.2) 0
  let en := enabledFlags th.scr.fctl fl
  let mark (s : State) : State := modThread s s.cur (fun th => forfeitIf sub (orFlags th fl))
  if en != 0 then
    trap (mark s) s.cur (vecTrap en (((fls.find? (fun x => enabledFlags th.scr.fctl x.2 != 0)).map Prod.fst).getD 0))
  else advance (wr (mark s')) s.cur

def setV (d : Reg) (v : Line) (s : State) : State := modThread s s.cur (fun th => writeV th d v)

/-- An element-wise instruction: `f` gives each active element's result. `norm` marks those that forfeit. -/
def vecMap (s s' : State) (th : Thread) (et : ET) (vm : VMod) (norm : Bool) (d : Reg) (f : Nat → VRes) : State :=
  let v := viewOf s s.cur th
  let mask := maskOf v vm.m
  let n := etCount et
  let rs := (List.range n).map (fun e => if active mask e then f e else vPlain 0)
  vecDone s s' th ((List.range n).zip (rs.map VRes.fl)) (norm && rs.any VRes.sub)
    (setV d (vecBuild (etWidth et) n mask vm.z (readV v d) (fun e => (rs.getD e (vPlain 0)).code)))

/-- The scalar operand of a vector source. -/
def vsScalar : VSrc → List Reg
  | .bs r => [r]
  | _ => []
/-- Element e of the B operand: a vector's, the broadcast scalar, or the immediate shift. -/
def vsElem (w : Nat) (v : Thread) (b : VSrc) (vs : List Word) (e : Nat) : Nat :=
  match b with
  | .vec r => elemOf w (readV v r) e
  | .bs _ => (vs.getD 0 0).toNat % 2 ^ w
  | .imm n => n.toNat

/-- A two-operand element-wise instruction. -/
def vec2 (s : State) (i : Instr) (p : Pred) (et : ET) (vm : VMod) (norm : Bool) (d a : Reg) (b : VSrc) (f : Thread → Nat → Nat → VRes) : Out :=
  guarded p s (fun th => operands s th i (vsScalar b) none (fun s' vs =>
    let v := viewOf s s.cur th
    let w := etWidth et
    vecMap s s' th et vm norm d (fun e => f th (elemOf w (readV v a) e) (vsElem w v b vs e))))
/-- A one-operand element-wise instruction. -/
def vec1 (s : State) (p : Pred) (et : ET) (vm : VMod) (norm : Bool) (d a : Reg) (f : Thread → Nat → VRes) : Out :=
  guarded p s (fun th =>
    let v := viewOf s s.cur th
    vecMap s s th et vm norm d (fun e => f th (elemOf (etWidth et) (readV v a) e)))

/-! ### R165 -/

/-- A + B, A − B or A × B by type. -/
def vArith (et : ET) (sat : Bool) (rm : RMode) (fp : Fmt → Rnd → Nat → Nat → FRes) (int : Int → Int → Int) (th : Thread) (a b : Nat) : VRes :=
  if etIsFp et then vFp (fmtOfET et) [a, b] (fp (fmtOfET et) (modeOf rm th.scr.fctl) a b)
  else vPlain (etWrap et sat (int (etInt et a) (etInt et b)))

def execVadd (p : Pred) (et : ET) (sat : Bool) (vm : VMod) (d a : Reg) (b : VSrc) (s : State) : Out :=
  vec2 s (.vadd p et sat vm d a b) p et vm true d a b (vArith et sat vm.rm fpAdd (· + ·))
def execVsub (p : Pred) (et : ET) (sat : Bool) (vm : VMod) (d a : Reg) (b : VSrc) (s : State) : Out :=
  vec2 s (.vsub p et sat vm d a b) p et vm true d a b (vArith et sat vm.rm fpSub (· - ·))
def execVmul (p : Pred) (et : ET) (sat : Bool) (vm : VMod) (d a : Reg) (b : VSrc) (s : State) : Out :=
  vec2 s (.vmul p et sat vm d a b) p et vm true d a b (vArith et sat vm.rm fpMul (· * ·))
def execVfma (p : Pred) (et : ET) (vm : VMod) (d a : Reg) (b : VSrc) (c : Reg) (s : State) : Out :=
  guarded p s (fun th => operands s th (.vfma p et vm d a b c) (vsScalar b) none (fun s' vs =>
    let v := viewOf s s.cur th
    let w := etWidth et
    let f := fmtOfET et
    vecMap s s' th et vm true d (fun e =>
      let x := elemOf w (readV v a) e
      let y := vsElem w v b vs e
      let z := elemOf w (readV v c) e
      vFp f [x, y, z] (fpFma f (modeOf vm.rm th.scr.fctl) x y z))))

def vMinMax (et : ET) (isMax : Bool) (_ : Thread) (a b : Nat) : VRes :=
  if etIsFp et then let r := fpMinMax (fmtOfET et) isMax a b; ⟨r.1, r.2, false⟩
  else vPlain (if decide (etInt et a < etInt et b) != isMax then a else b)
def execVmin (p : Pred) (et : ET) (vm : VMod) (d a : Reg) (b : VSrc) (s : State) : Out :=
  vec2 s (.vmin p et vm d a b) p et vm false d a b (vMinMax et false)
def execVmax (p : Pred) (et : ET) (vm : VMod) (d a : Reg) (b : VSrc) (s : State) : Out :=
  vec2 s (.vmax p et vm d a b) p et vm false d a b (vMinMax et true)

/-- |A|: clears the sign bit, or the integer's magnitude. -/
def vAbs (et : ET) (sat : Bool) (_ : Thread) (a : Nat) : VRes :=
  vPlain (if etIsFp et then fpAbs (fmtOfET et) a else etWrap et sat (etInt et a).natAbs)
/-- −A: flips the sign bit, or negates the integer. -/
def vNeg (et : ET) (sat : Bool) (_ : Thread) (a : Nat) : VRes :=
  vPlain (if etIsFp et then fpNeg (fmtOfET et) a else etWrap et sat (-(etInt et a)))
def execVabs (p : Pred) (et : ET) (sat : Bool) (vm : VMod) (d a : Reg) (s : State) : Out := vec1 s p et vm false d a (vAbs et sat)
def execVneg (p : Pred) (et : ET) (sat : Bool) (vm : VMod) (d a : Reg) (s : State) : Out := vec1 s p et vm false d a (vNeg et sat)

def execVand (p : Pred) (et : ET) (vm : VMod) (d a : Reg) (b : VSrc) (s : State) : Out :=
  vec2 s (.vand p et vm d a b) p et vm false d a b (fun _ x y => vPlain (x &&& y))
def execVor (p : Pred) (et : ET) (vm : VMod) (d a : Reg) (b : VSrc) (s : State) : Out :=
  vec2 s (.vor p et vm d a b) p et vm false d a b (fun _ x y => vPlain (x ||| y))
def execVxor (p : Pred) (et : ET) (vm : VMod) (d a : Reg) (b : VSrc) (s : State) : Out :=
  vec2 s (.vxor p et vm d a b) p et vm false d a b (fun _ x y => vPlain (x ^^^ y))
def execVshl (p : Pred) (et : ET) (vm : VMod) (d a : Reg) (b : VSrc) (s : State) : Out :=
  vec2 s (.vshl p et vm d a b) p et vm false d a b (fun _ x y => vPlain (x * 2 ^ (y % etWidth et) % 2 ^ etWidth et))
def execVshr (p : Pred) (et : ET) (vm : VMod) (d a : Reg) (b : VSrc) (s : State) : Out :=
  vec2 s (.vshr p et vm d a b) p et vm false d a b (fun _ x y => vPlain (x / 2 ^ (y % etWidth et)))
/-- The arithmetic shift copies the top bit of the element, whatever its type. -/
def execVsra (p : Pred) (et : ET) (vm : VMod) (d a : Reg) (b : VSrc) (s : State) : Out :=
  vec2 s (.vsra p et vm d a b) p et vm false d a b
    (fun _ x y => vPlain (wrapInt (etWidth et) (sInt (etWidth et) x / 2 ^ (y % etWidth et))))

/-! ### VCMP and VSEL (R166) -/

def vCond (et : ET) (cc : VCond) (a b : Nat) : Bool × BitVec 5 :=
  if etIsFp et then
    let f := fmtOfET et
    match cc with
    | .eq => fpCmp f .eq a b
    | .ne => fpCmp f .ne a b
    | .lt => fpCmp f .lt a b
    | .le => fpCmp f .le a b
    | .gt => fpCmp f .lt b a
    | .ge => fpCmp f .le b a
    | .un => fpCmp f .un a b
  else
    let x := etInt et a
    let y := etInt et b
    (match cc with
      | .eq => decide (x = y) | .ne => decide (x ≠ y) | .lt => decide (x < y) | .le => decide (x ≤ y)
      | .gt => decide (y < x) | .ge => decide (y ≤ x) | .un => false, 0)

def execVcmp (p : Pred) (cc : VCond) (et : ET) (vm : VMod) (d a : Reg) (b : VSrc) (s : State) : Out :=
  guarded p s (fun th => operands s th (.vcmp p cc et vm d a b) (vsScalar b) none (fun s' vs =>
    let v := viewOf s s.cur th
    let w := etWidth et
    let mask := maskOf v vm.m
    let rs := (List.range (etCount et)).map (fun e =>
      if active mask e then vCond et cc (elemOf w (readV v a) e) (vsElem w v b vs e) else (false, 0))
    let bits := packElems 1 (rs.map (fun r => boolNat r.1))
    vecDone s s' th ((List.range (etCount et)).zip (rs.map Prod.snd)) false
      (fun s => modThread s s.cur (fun th => writeOwn th d (BitVec.ofNat 64 bits)))))

def execVsel (p : Pred) (et : ET) (vm : VMod) (d a b c : Reg) (s : State) : Out :=
  guarded p s (fun th =>
    let v := viewOf s s.cur th
    let w := etWidth et
    let sel := readReg s s.cur v c
    vecMap s s th et vm false d (fun e => vPlain (elemOf w (readV v (if active sel e then a else b)) e)))

/-! ### Conversions, moves, shuffles (R167-R169) -/

/-- VCVT: which element of A gives each element of D, part `h` of a wider unit; none for an element that keeps its value. -/
def cvtSource (dw sw h e : Nat) : Option Nat :=
  if dw = sw then some e
  else if dw < sw then (if e % (sw / dw) = h % (sw / dw) then some (e / (sw / dw)) else none)
  else some (e * (dw / sw) + h % (dw / sw))

def execVcvt (p : Pred) (dst src : ET) (vm : VMod) (d a : Reg) (part : BitVec 2) (s : State) : Out :=
  guarded p s (fun th =>
    let v := viewOf s s.cur th
    let mask := maskOf v vm.m
    let dw := etWidth dst
    let n := etCount dst
    let conv (e : Nat) : Option VRes := (cvtSource dw (etWidth src) part.toNat e).map (fun j =>
      let x := elemOf (etWidth src) (readV v a) j
      let r := fpConvert (fmtOfET dst) (fmtOfET src) (modeOf vm.rm th.scr.fctl) x 0
      ⟨r.1, r.2, (etIsFp src && isSubnormal (fmtOfET src) x) || (etIsFp dst && isSubnormal (fmtOfET dst) r.1)⟩)
    let rs := (List.range n).map (fun e => if active mask e then conv e else none)
    let out := (List.range n).map (fun e =>
      match rs.getD e none with
      | some r => r.code
      | none => if vm.z && !active mask e && (cvtSource dw (etWidth src) part.toNat e).isSome then 0 else elemOf dw (readV v d) e)
    vecDone s s th ((List.range n).zip (rs.map (fun r => (r.map VRes.fl).getD 0))) (rs.any (fun r => (r.map VRes.sub).getD false))
      (setV d (vecOf dw out)))

def execVshuf (p : Pred) (mode : ShufMode) (et : ET) (vm : VMod) (d a : Reg) (s : State) : Out :=
  guarded p s (fun th =>
    let v := viewOf s s.cur th
    let w := etWidth et
    let c := etCount et
    let idx (e : Nat) : Nat := match mode with
      | .idx b => elemOf w (readV v b) e % c
      | .rot r => (e + r.toNat) % c
      | .xor x => (e ^^^ x.toNat) % c
    vecMap s s th et vm false d (fun e => vPlain (elemOf w (readV v a) (idx e))))

def execVbcast (p : Pred) (et : ET) (vm : VMod) (d a : Reg) (s : State) : Out :=
  guarded p s (fun th => operands s th (.vbcast p et vm d a) [a] none (fun s' vs =>
    vecMap s s' th et vm false d (fun _ => vPlain ((vs.getD 0 0).toNat % 2 ^ etWidth et))))
def execVins (p : Pred) (et : ET) (d a : Reg) (n : BitVec 16) (s : State) : Out :=
  guarded p s (fun th => operands s th (.vins p et d a n) [a] none (fun s' vs =>
    let v := viewOf s s.cur th
    let w := etWidth et
    let l := (List.range (etCount et)).map (fun e => if e = n.toNat then (vs.getD 0 0).toNat % 2 ^ w else elemOf w (readV v d) e)
    advance (setV d (vecOf w l) s') s.cur))
def execVext (p : Pred) (et : ET) (d a : Reg) (n : BitVec 16) (s : State) : Out :=
  guarded p s (fun th => operands s th (.vext p et d a n) [] (some d) (fun s' _ =>
    let w := etWidth et
    let x := elemOf w (readV (viewOf s s.cur th) a) n.toNat
    setD s' d (BitVec.ofInt 64 (if etSigned et then sInt w x else x))))

/-! ### The functions of R170 -/

def vFunc (s : State) (p : Pred) (et : ET) (vm : VMod) (d a : Reg) (fn : VFun) : Out :=
  vec1 s p et vm true d a (fun th x => vFp (fmtOfET et) [x] (fpFun (fmtOfET et) fn (modeOf vm.rm th.scr.fctl) x))
def execVrcp (p : Pred) (et : ET) (vm : VMod) (d a : Reg) (s : State) : Out := vFunc s p et vm d a .rcp
def execVrsq (p : Pred) (et : ET) (vm : VMod) (d a : Reg) (s : State) : Out := vFunc s p et vm d a .rsq
def execVexp2 (p : Pred) (et : ET) (vm : VMod) (d a : Reg) (s : State) : Out := vFunc s p et vm d a .exp2
def execVlog2 (p : Pred) (et : ET) (vm : VMod) (d a : Reg) (s : State) : Out := vFunc s p et vm d a .log2

/-! ### The reduction tree (R171) -/

/-- A node: its value, and the lowest active element of its subtree. -/
structure RNode where
  code : Nat
  lo : Option Nat
deriving DecidableEq, Repr
/-- What the tree accumulates: flags, the lowest element under a node that raised an enabled exception, and forfeits. -/
structure RAcc where
  fl : BitVec 5
  bad : Option Nat
  sub : Bool
deriving DecidableEq, Repr

def minOpt (a b : Option Nat) : Option Nat :=
  match a, b with
  | some x, some y => some (min x y)
  | some x, none => some x
  | none, y => y

/-- The value of an inactive element. -/
def redIdent (op : VRedOp) (et : ET) : Nat :=
  let w := etWidth et
  let f := fmtOfET et
  match op with
  | .add => if etIsFp et then 2 ^ (w - 1) else 0
  | .min => if etIsFp et then (2 ^ f.e - 1) * 2 ^ f.m else if etSigned et then 2 ^ (w - 1) - 1 else 2 ^ w - 1
  | .max => if etIsFp et then (2 ^ f.e - 1) * 2 ^ f.m + 2 ^ (w - 1) else if etSigned et then 2 ^ (w - 1) else 0
  | .and => 2 ^ w - 1
  | .or | .xor => 0

/-- One node's operation. -/
def redOp (op : VRedOp) (et : ET) (sat : Bool) (mode : Rnd) (a b : Nat) : FRes :=
  match op with
  | .add => if etIsFp et then fpAdd (fmtOfET et) mode a b else (etWrap et sat (etInt et a + etInt et b), 0)
  | .min => if etIsFp et then fpMinMax (fmtOfET et) false a b else (if etInt et b < etInt et a then b else a, 0)
  | .max => if etIsFp et then fpMinMax (fmtOfET et) true a b else (if etInt et a < etInt et b then b else a, 0)
  | .and => (a &&& b, 0)
  | .or => (a ||| b, 0)
  | .xor => (a ^^^ b, 0)

/-- One level: neighbours are combined, left operand first. -/
def redLevel (f : Nat → Nat → FRes) (en : BitVec 5 → Bool) (isSub : Nat → Bool) : List RNode → RAcc → List RNode × RAcc
  | a :: b :: r, acc =>
    let x := f a.code b.code
    let lo := minOpt a.lo b.lo
    let acc := ⟨acc.fl ||| x.2, if en x.2 then minOpt acc.bad lo else acc.bad, acc.sub || (lo.isSome && isSub x.1)⟩
    let (ns, acc) := redLevel f en isSub r acc
    (⟨x.1, lo⟩ :: ns, acc)
  | l, acc => (l, acc)
/-- The whole tree: adjacent elements within lanes, then the lanes' levels, all by neighbours. -/
def redTree (f : Nat → Nat → FRes) (en : BitVec 5 → Bool) (isSub : Nat → Bool) : Nat → List RNode → RAcc → List RNode × RAcc
  | 0, l, acc => (l, acc)
  | k + 1, l, acc => let (l, acc) := redLevel f en isSub l acc; redTree f en isSub k l acc

def execVred (p : Pred) (op : VRedOp) (et : ET) (sat : Bool) (vm : VMod) (d a : Reg) (s : State) : Out :=
  guarded p s (fun th =>
    let v := viewOf s s.cur th
    let mask := maskOf v vm.m
    let w := etWidth et
    let norm := etIsFp et && op = .add
    let isSub (c : Nat) : Bool := norm && isSubnormal (fmtOfET et) c
    let leaves := (List.range (etCount et)).map (fun e =>
      if active mask e then (⟨elemOf w (readV v a) e, some e⟩ : RNode) else ⟨redIdent op et, none⟩)
    let en (fl : BitVec 5) : Bool := enabledFlags th.scr.fctl fl != 0
    let r := redTree (redOp op et sat (modeOf vm.rm th.scr.fctl)) en isSub (Nat.log2 (etCount et)) leaves
      ⟨0, none, leaves.any (fun x => x.lo.isSome && isSub x.code)⟩
    let code := ((r.1.head?).map RNode.code).getD 0
    vecDone s s th [(r.2.bad.getD 0, r.2.fl)] r.2.sub (setV d (vecOf w [code])))

/-! ### Keyed randomness (R174-R177) -/

/-- A sow descriptor's fields. -/
structure SowDesc where
  t : BitVec 32
  x0 : BitVec 48
  step : BitVec 32
  draw : BitVec 8
  purp : BitVec 8
deriving DecidableEq, Repr

/-- Reads a descriptor; none where it breaks R174: a reserved bit, a PURP or DRAW outside VRNG, a PURP below 0x10 in VRNG. -/
def sowDesc (v : Line) (rng : Bool) : Option SowDesc :=
  let d : SowDesc := ⟨laneOf v 0, (laneOf v 2).setWidth 16 ++ laneOf v 1, laneOf v 3, (laneOf v 4).extractLsb' 8 8, (laneOf v 4).setWidth 8⟩
  if (laneOf v 2).extractLsb' 16 16 != 0 || (laneOf v 4).extractLsb' 16 16 != 0 || v.extractLsb' 160 352 != 0 then none
  else if rng then (if d.purp.toNat < 16 then none else some d)
  else if d.draw = 0 && d.purp = 0 then some d else none
/-- The coordinate of element e. -/
def sowX (d : SowDesc) (e : Nat) : BitVec 48 := BitVec.ofNat 48 (d.x0.toNat + e * d.step.toNat)
/-- The draw of R208 for element e. -/
def sowBits (th : Thread) (d : SowDesc) (purp : BitVec 8) (e : Nat) : Nat :=
  sowDraw th.scr.seed d.t (th.scr.step.setWidth 32) (sowX d e) purp 0

/-- A descriptor that breaks R174 takes trap 0x01 with reason 0x1. -/
def withSow (s : State) (th : Thread) (i : Instr) (k : Reg) (rng : Bool) (f : SowDesc → State) : State :=
  match sowDesc (readV (viewOf s s.cur th) k) rng with
  | none => trap s s.cur (illegalInfo (opOf i) 1 0)
  | some d => f d

def execVrng (p : Pred) (vm : VMod) (d a : Reg) (s : State) : Out :=
  guarded p s (fun th => withSow s th (.vrng p vm d a) a true (fun k =>
    vecMap s s th .u32 vm false d (fun e =>
      vPlain (sow th.scr.seed k.t (th.scr.step.setWidth 32) (sowX k e) k.purp k.draw).toNat)))

/-- VSR (R176): FP32 lanes into part h of D's lanes, mask bit l for lane l. -/
def execVsr (p : Pred) (et : ET) (vm : VMod) (d a b : Reg) (h : Bool) (s : State) : Out :=
  guarded p s (fun th => withSow s th (.vsr p et vm d a b h) b false (fun k =>
    let v := viewOf s s.cur th
    let mask := maskOf v vm.m
    let f := fmtOfET et
    let rs := (List.range 16).map (fun l =>
      if active mask l then
        let x := elemOf 32 (readV v a) l
        let r := roundTo f .sr (valueOf fmtF32 x) (sowBits th k 0x03 l)
        (⟨r.1, r.2, isSubnormal fmtF32 x || isSubnormal f r.1⟩ : VRes)
      else vPlain 0)
    let out := (List.range 32).map (fun e =>
      if e % 2 != boolNat h then elemOf 16 (readV v d) e
      else if active mask (e / 2) then (rs.getD (e / 2) (vPlain 0)).code
      else if vm.z then 0 else elemOf 16 (readV v d) e)
    vecDone s s th ((List.range 16).zip (rs.map VRes.fl)) (rs.any VRes.sub) (setV d (vecOf 16 out))))

/-- VDROP (R177). -/
def execVdrop (p : Pred) (et : ET) (vm : VMod) (d a b c : Reg) (q : BitVec 16) (s : State) : Out :=
  guarded p s (fun th => operands s th (.vdrop p et vm d a b c q) [c] none (fun s' vs =>
    withSow s th (.vdrop p et vm d a b c q) b false (fun k =>
      let v := viewOf s s.cur th
      let f := fmtOfET et
      let sc := (vs.getD 0 0).toNat % 2 ^ 32
      vecMap s s' th et vm true d (fun e =>
        if sowBits th k 0x02 e < q.toNat then vPlain 0
        else
          let x := elemOf (etWidth et) (readV v a) e
          let r := finish f (modeOf vm.rm th.scr.fctl) (mulVal (valueOf f x) (valueOf fmtF32 sc))
          ⟨r.1, r.2, isSubnormal f x || isSubnormal fmtF32 sc || isSubnormal f r.1⟩))))

/-! ### Block quantisation (R178-R180) -/

/-- The container width of an element format (R112). -/
def containerOf (f : Fmt) : Nat := if 7 ≤ fmtWidth f then 8 else if 5 ≤ fmtWidth f then 6 else 4
/-- ⌊log2⌋ of the largest finite value (R178). DESIGN CHOICE (108): of a format whose largest finite value is 0 it is the exponent of
its lowest bit. -/
def fmtEmax (f : Fmt) : Int :=
  match valueOf f (fmtMaxCode f) with
  | .fin _ m e _ => (Nat.log2 m : Int) + e
  | _ => 0
/-- ⌊log2 |x|⌋ of a finite nonzero value. -/
def valLog2 : Val → Int
  | .fin _ m e _ => (Nat.log2 m : Int) + e
  | _ => 0
def scaleVal (v : Val) (k : Int) : Val :=
  match v with
  | .fin n m e st => .fin n m (e + k) st
  | x => x
/-- A group's scale exponent X; none is NaN. -/
def groupScale (f : Fmt) (xs : List Val) : Option Int :=
  if f.scale = 0 then some 0
  else if xs.any (fun v => isNan v || isInf v) then none
  else
    let nz := xs.filter (fun v => !isZero v)
    let x : Int := match nz with
      | [] => -127
      | v :: r => r.foldl (fun m y => max m (valLog2 y)) (valLog2 v) - fmtEmax f
    some (min (max x (-127)) 127)

def execVquant (p : Pred) (n : Fin 8) (vm : VMod) (d a b c : Reg) (s : State) : Out :=
  guarded p s (fun th =>
    let i := Instr.vquant p n vm d a b c
    let v := viewOf s s.cur th
    let f := fmtOfReg v.fmt[n]
    if fmtWidth f < 2 then trap s s.cur (illegalInfo (opOf i) 2 0)
    else
      let go (k : SowDesc) : State :=
        let mask := maskOf v vm.m
        let val (e : Nat) : Val := valueOf fmtF32 (elemOf 32 (readV v (if e < 16 then a else b)) (e % 16))
        let groups : List (List Nat) := if f.scale = 2 then [List.range 16, (List.range 16).map (· + 16)] else [List.range 32]
        let scales := groups.map (fun g => groupScale f ((g.filter (active mask)).map val))
        let gOf (e : Nat) : Option Int := scales.getD (if f.scale = 2 then e / 16 else 0) none
        let rs := (List.range 32).map (fun e =>
          match gOf e with
          | some x => if active mask e then roundTo f (modeOf vm.rm th.scr.fctl) (scaleVal (val e) (-x)) (sowBits th k 0x03 e) else (0, 0)
          | none => ((0, 0) : FRes))
        let codes := packElems (containerOf f) (rs.map Prod.fst)
        let byteOf (x : Option Int) : Nat := match x with
          | some x => (x + 127).toNat
          | none => 255
        let sb := if f.scale = 1 then byteOf (scales.getD 0 none) * 2 ^ 504
          else if f.scale = 2 then byteOf (scales.getD 0 none) * 2 ^ 496 + byteOf (scales.getD 1 none) * 2 ^ 504 else 0
        vecDone s s th ((List.range 32).zip (rs.map Prod.snd)) false (setV d (BitVec.ofNat 512 (codes + sb)))
      if vm.rm = .sr then withSow s th i c false go else go ⟨0, 0, 0, 0, 0⟩)

/-- VDEQ (R180). -/
def execVdeq (p : Pred) (n : Fin 8) (vm : VMod) (d a : Reg) (h : Bool) (s : State) : Out :=
  guarded p s (fun th =>
    let v := viewOf s s.cur th
    let f := fmtOfReg v.fmt[n]
    if fmtWidth f < 2 then trap s s.cur (illegalInfo (opOf (.vdeq p n vm d a h)) 2 0)
    else vecMap s s th .f32 vm false d (fun l =>
      let e := boolNat h * 16 + l
      let blk := readV v a
      let sc := if f.scale = 0 then 127 else if f.scale = 1 then elemOf 8 blk 63 else elemOf 8 blk (62 + e / 16)
      let x := valueOf f (elemOf (containerOf f) blk e % 2 ^ fmtWidth f)
      if sc = 255 || isNan x then vPlain (nanCode fmtF32)
      else
        let r := roundTo fmtF32 (modeOf vm.rm th.scr.fctl) (scaleVal x ((sc : Int) - 127)) 0
        ⟨r.1, r.2, false⟩))

end Sys2Proof.Machine
end

