-- ==== Sys2Proof/Machine/Mat.lean ====
section
/-! DEFINITION. Class 6: the matrix engine and its tiles, operand latches, format registers and furrow transfers (R64-R67,
R109-R135, R181-R187). -/
namespace Sys2Proof.Machine
open Sys2Proof

def accNum : Reg → Nat
  | .acc n => n
  | _ => 0

/-! ### Shapes (R65, R66, R112, R113) -/

/-- The container width of an element. -/
def boxWidth (ty : MmaType) (fr : BitVec 32) : Nat :=
  match ty with
  | .f16 | .bf16 => 16
  | .i8 => 8
  | .mx => if 7 ≤ fmtWidth (fmtOfReg fr) then 8 else if 5 ≤ fmtWidth (fmtOfReg fr) then 6 else 4
def depths : MmaType → Nat
  | .f16 | .bf16 => 16
  | _ => 32
def sideRows (ty : MmaType) (b : Bool) : Nat := if b then depths ty else 16
def rowLen (ty : MmaType) (fr : BitVec 32) (b : Bool) : Nat := (if b then 16 else depths ty) * boxWidth ty fr / 8
/-- Scale bytes per row or column. -/
def scaleCount (ty : MmaType) (fr : BitVec 32) : Nat := if ty = .mx then (fmtOfReg fr).scale else 0
/-- F of a side. -/
def fillTime (ty : MmaType) (fr : BitVec 32) : Nat :=
  match boxWidth ty fr with
  | 6 => 5
  | 4 => 3
  | _ => 6
/-- O and P of an MMA. -/
def mmaTimes (ty : MmaType) (fa fb : BitVec 32) : Nat × Nat :=
  match ty with
  | .f16 | .bf16 => (4, 44)
  | .i8 => (2, 40)
  | .mx => if boxWidth .mx fa = 4 && boxWidth .mx fb = 4 then (1, 38) else (2, 40)

/-- The exact value of an element (R112, R193). -/
def elemVal (ty : MmaType) (fr : BitVec 32) (row : BitVec 256) (n : Nat) : Val :=
  let w := boxWidth ty fr
  let c := row.toNat / 2 ^ (n * w) % 2 ^ w
  match ty with
  | .f16 => valueOf fmtF16 c
  | .bf16 => valueOf fmtBF16 c
  | .i8 => let x := sInt 8 c; .fin (x < 0) x.natAbs 0 false
  | .mx => valueOf (fmtOfReg fr) (c % 2 ^ fmtWidth (fmtOfReg fr))

/-! ### Descriptors (R111, R125) -/

def descLane (d : Line) (n : Nat) : Nat := (laneOf d n).toNat
/-- The reserved bits of an operand descriptor are zero. -/
def descOk (ty : MmaType) (b : Bool) (d : Line) : Bool :=
  (List.range 16).all (fun n => if n < 4 then decide (descLane d n < 2 ^ 22) else descLane d n = 0)
    && (ty = .mx || (descLane d 2 = 0 && descLane d 3 = 0)) && (!b || descLane d 3 = 0)
/-- The reserved bits of a store descriptor are zero; lanes 2-5 belong to ACCST.SR. -/
def storeDescOk (sr : Bool) (d : Line) : Bool :=
  decide (descLane d 0 < 2 ^ 22) && decide (descLane d 1 < 2 ^ 22) && decide (descLane d 4 < 2 ^ 16)
    && (List.range 16).all (fun n => n < 6 || descLane d n = 0)
    && (sr || (List.range 6).all (fun n => n < 2 || descLane d n = 0))

/-- A near range cut where one logical slot's map may change. -/
def cutRange (r : Nat × Nat) : List (Nat × Nat) :=
  let k := 0x8000 - r.1 % 0x8000
  if r.2 ≤ k then [r] else [(r.1, k), (r.1 + k, r.2 - k)]
/-- Ranges by rising address. -/
def cutRanges (rs : List (Nat × Nat)) : List (Nat × Nat) := sortBy Prod.fst ((rs.filter (fun r => r.2 != 0)).flatMap cutRange)

/-- The lowest byte that R250 refuses (R131). -/
def rangesFault (s : State) (g : Nat) (rs : List (Nat × Nat)) (op : Nat) : Option TrapInfo :=
  (cutRanges rs).findSome? (fun r => nearTrap (clusterAt s g) r.1 .engine op)
/-- The race-watch check of near ranges by the issuer (R129, R279). -/
def rangesWatch (s : State) (uid g : Nat) (rs : List (Nat × Nat)) (write : Bool) (op : Nat) : Except TrapInfo State :=
  match findUid s uid with
  | none => .ok s
  | some (t, th) => watchAll s ((cutRanges rs).map (fun r s => nearWatch s t th g r.1 r.2 write op))

/-! ### Fills (R112-R115, R122) -/

/-- The row that a depth or row index is read from. -/
def fillRow (gather : Option Line) (r : Nat) : Nat :=
  match gather with
  | some x => descLane x r
  | none => r
def rowsRead (ty : MmaType) (b : Bool) (mask : Word) : List Nat :=
  (List.range (sideRows ty b)).filter (fun r => if b then depthSel mask r else rowSel mask r)
def rowOff (desc : Line) (gather : Option Line) (r : Nat) : Nat := descLane desc 0 + fillRow gather r * descLane desc 1
def scaleOff (desc : Line) (gather : Option Line) (r : Nat) : Nat := descLane desc 2 + fillRow gather r * descLane desc 3

/-- The near ranges of a fill. -/
def fillRanges (ty : MmaType) (fr : BitVec 32) (b : Bool) (desc : Line) (mask : Word) (gather : Option Line) : List (Nat × Nat) :=
  let rows := rowsRead ty b mask
  let ns := scaleCount ty fr
  rows.map (fun r => (rowOff desc gather r, rowLen ty fr b))
    ++ (if ns = 0 || mask = 0 then [] else if b then [(descLane desc 2, 16 * ns)] else rows.map (fun r => (scaleOff desc gather r, ns)))

def readNear (s : State) (g off n : Nat) : List Byte := placeRead s (.near g off) n

/-- The bytes of a near range from what a fill has read. -/
def imgBytes (img : List (Nat × List Byte)) (r : Nat × Nat) : List Byte :=
  (cutRange r).flatMap (fun x => ((img.find? (fun y => y.1 = x.1 && y.2.length = x.2)).map Prod.snd).getD [])

/-- The image a fill leaves; rows that were not read hold zero elements and scale 127 (R114). -/
def fillImage (img : List (Nat × List Byte)) (slot : Nat) (ty : MmaType) (fr : BitVec 32) (b : Bool) (desc : Line) (mask : Word)
    (gather : Option Line) : Latch :=
  let rows := rowsRead ty b mask
  let ns := scaleCount ty fr
  { slot := slot, ty := ty, fmt := fr
    rows := (List.range (sideRows ty b)).map (fun r =>
      if r ∈ rows then BitVec.ofNat 256 (ofBytesLE (imgBytes img (rowOff desc gather r, rowLen ty fr b))) else 0)
    scales :=
      if ns = 0 || mask = 0 then List.replicate 32 127
      else if b then imgBytes img (descLane desc 2, 16 * ns)
      else (List.range 16).flatMap (fun r => if r ∈ rows then imgBytes img (scaleOff desc gather r, ns) else List.replicate ns 127) }

/-- A fill's checks as it begins: alignment, then R250. -/
def fillFault (s : State) (g op : Nat) (desc : Line) (rs : List (Nat × Nat)) : Option TrapInfo :=
  if descLane desc 0 % 8 != 0 then some (misaligned (BitVec.ofNat 64 (descLane desc 0)) 8)
  else if descLane desc 1 % 8 != 0 then some (misaligned (BitVec.ofNat 64 (descLane desc 0 + descLane desc 1)) 8)
  else rangesFault s g rs op

def latchIdx (b l1 : Bool) : Nat := (if b then 2 else 0) + boolNat l1
def latchAt (k : Core) (i : Nat) : Option Latch := k.latches.toList.getD i none
def setLatch (k : Core) (i : Nat) (l : Option Latch) : Core := if h : i < 4 then { k with latches := k.latches.set i l } else k

/-- A kept latch's failure (R116, R132). -/
def keepFault (k : Core) (slot op : Nat) (ty : MmaType) (fr : BitVec 32) (b l1 : Bool) : Option TrapInfo :=
  let mk (reason : Nat) : Option TrapInfo := some ⟨0x25, 0, info18 op reason (if b then 2 else 1) (boolNat l1)⟩
  match latchAt k (latchIdx b l1) with
  | none => mk 0
  | some l => if l.slot != slot then mk 1 else if l.ty != ty || (ty = .mx && l.fmt != fr) then mk 2 else none

/-! ### Block products (R119, R120) -/

def scaleAt (l : Latch) (b : Bool) (r h : Nat) : Nat :=
  let ns := scaleCount l.ty l.fmt
  let h := if ns = 2 then h else 0
  if ns = 0 then 127 else (l.scales.getD (if b then 16 * h + r else r * ns + h) 127).toNat
/-- A value times a power of two. -/
def timesPow2 (v : Val) (x : Int) : Val :=
  match v with
  | .fin neg m e st => .fin neg m (e + x) st
  | v => v
def zeroVal : Val := .fin false 0 0 false

/-- One block's exact sum, with its scales. -/
def blockSum (a b : Latch) (av bv : List (List Val)) (i j h : Nat) (ks : List Nat) : Val :=
  let sa := scaleAt a false i h
  let sb := scaleAt b true j h
  if sa = 255 || sb = 255 then .nan false
  else
    let v := ks.foldl (fun v k => (addVal v (mulVal ((av.getD i []).getD k zeroVal) ((bv.getD k []).getD j zeroVal)).1 .rne).1) zeroVal
    timesPow2 v ((sa : Int) + sb - 254)

/-- The contribution of an MMA to each selected cell; none where no depth is selected. -/
def mmaContribs (a b : Latch) (mask : Word) (floor : Int) : List (Nat × Contrib) :=
  let n := depths a.ty
  let ks := (List.range n).filter (depthSel mask)
  let blocks := if scaleCount a.ty a.fmt = 2 || scaleCount b.ty b.fmt = 2
    then [(0, ks.filter (fun k => k < 16)), (1, ks.filter (fun k => 16 ≤ k))] else [(0, ks)]
  let blocks := blocks.filter (fun x => x.2 != [])
  let av := (List.range 16).map (fun i => (List.range n).map (elemVal a.ty a.fmt (a.rows.getD i 0)))
  let bv := (List.range n).map (fun k => (List.range 16).map (elemVal b.ty b.fmt (b.rows.getD k 0)))
  if blocks = [] then []
  else (selCells mask).map (fun c =>
    (c, contribOf (blocks.foldl (fun v x => (addVal v (blockSum a b av bv (c / 16) (c % 16) x.1 x.2) .rne).1) zeroVal) floor))

/-- Exact adds into a tile, judged together (R121): the lowest cell out of range while FOV = 0, or the new tile. -/
def commitAdds (fov : Bool) (t : Tile) (adds : List (Nat × Contrib)) : Except Nat Tile :=
  let rs := adds.map (fun x => (x.1, furrowAdd (cellAt t x.1).n.toInt (cellAt t x.1).st x.2))
  match rs.find? (fun x => x.2.2 = .fin && !inRange x.2.1), fov with
  | some x, false => .error x.1
  | _, _ => .ok (rs.foldl (fun t x =>
      if x.2.2 = .fin && !inRange x.2.1 then setCell t x.1 ⟨0, satState x.2.1⟩
      else setCell t x.1 ⟨if x.2.2 = .fin then BitVec.ofInt 200 x.2.1 else 0, x.2.2⟩) t)

def modTile (s : State) (core n : Nat) (f : Tile → Tile) : State := modCore s core (fun k => setTile k n (f (tileAt k n)))
/-- Trap 0x31 or 0x70 of an engine entry at a cell (R132). -/
def tileTrap (op part : Nat) (x : BitVec 8 × Nat) : TrapInfo := ⟨x.1, 0, info18 op 0 part x.2⟩
/-- Trap 0x31 of an engine entry (R132). -/
def overflowTrap (op part cell : Nat) : TrapInfo := tileTrap op part (0x31, cell)
/-- The same of DIGEST.T and NRED, whose 0x70 has the layout of R408, with the tile's register code. -/
def otherTrap (op tile : Nat) (x : BitVec 8 × Nat) (info : Word) : TrapInfo :=
  if x.1 = 0x70 then ⟨0x70, 0, info408 3 op (0x80 + tile)⟩ else ⟨x.1, 0, info⟩

/-! ### Times (R64) -/

def sideFill : EngOp → Bool → Option (Nat × Nat)
  | .mma _ o _ fa fb _ _ _, b =>
    if b then (if o.keepB then none else some (latchIdx true o.lb, fillTime o.ty fb))
    else (if o.keepA then none else some (latchIdx false o.la, fillTime o.ty fa))
  | .latch sb l1 ty fr _ _, b => if sb = b then some (latchIdx b l1, fillTime ty fr) else none
  | _, _ => none
/-- The latches an entry reads. -/
def latchReads : EngOp → List Nat
  | .mma _ o _ _ _ _ _ _ => [latchIdx false o.la, latchIdx true o.lb]
  | _ => []
def occupancy : EngOp → Nat
  | .mma _ o _ fa fb _ _ _ => (mmaTimes o.ty fa fb).1
  | .latch _ _ _ _ _ _ => 0
  | .accz _ _ => 1
  | _ => 2
def latency : EngOp → Nat
  | .mma g o _ fa fb _ _ _ => (mmaTimes o.ty fa fb).2 + (if g.isSome then 12 else 0)
  | .latch _ _ _ _ _ _ => 4
  | .accz _ _ => 10
  | .accmv _ _ | .accadd _ _ => 14
  | .accst _ _ _ _ _ _ _ _ | .accld _ _ _ _ => 32
  | _ => 2
/-- The tiles an entry reads or writes. -/
def tilesOf : EngOp → List Nat
  | .mma _ _ t _ _ _ _ _ => [t]
  | .latch _ _ _ _ _ _ => []
  | .accz t _ => [t]
  | .accmv d a | .accadd d a => [d, a]
  | .accst _ _ _ _ t _ _ _ => [t]
  | .accld _ t _ _ => [t]
  | .frsend _ t _ _ _ => [t]
  | .nred _ _ t _ _ _ => [t]
  | .digest _ t => [t]
def loadsTile : EngOp → Option Nat
  | .accld _ t _ _ => some t
  | _ => none

def cellSize : AccType → Nat
  | .raw => 32
  | .f32 => 4
  | .f16 | .bf16 => 2
  | .fmt => 1
/-- The near offset of a cell. -/
def cellOff (ty : AccType) (desc : Line) (c : Nat) : Nat := descLane desc 0 + c / 16 * descLane desc 1 + c % 16 * cellSize ty
def cellRanges (ty : AccType) (desc : Line) (mask : Word) : List (Nat × Nat) := (selCells mask).map (fun c => (cellOff ty desc c, cellSize ty))

/-- One side of an entry that fills: the opcode, type, format, descriptor, mask and gather of its fill. -/
structure SideFill where
  op : Nat
  ty : MmaType
  fmt : BitVec 32
  desc : Line
  mask : Word
  gather : Option Line
def sideOf : EngOp → Bool → Option SideFill
  | .mma g o _ fa fb da db mask, b =>
    let op := if g.isSome then 0x301 else 0x300
    if b then (if o.keepB then none else some ⟨op, o.ty, fb, db, mask, none⟩)
    else (if o.keepA then none else some ⟨op, o.ty, fa, da, mask, g⟩)
  | .latch sb _ ty fr d mask, b => if sb = b then some ⟨0x307, ty, fr, d, mask, none⟩ else none
  | _, _ => none
def sideRanges (x : SideFill) (b : Bool) : List (Nat × Nat) := cutRanges (fillRanges x.ty x.fmt b x.desc x.mask x.gather)

/-- The cells that an entry moves to or from near space, with their bytes' ranges. -/
def entryCells : EngOp → List (Nat × Nat × Nat)
  | .accst ty _ _ d _ mask _ _ => (selCells mask).map (fun c => (c, cellOff ty d c, cellSize ty))
  | .accld ty _ d mask => (selCells mask).map (fun c => (c, cellOff ty d c, cellSize ty))
  | _ => []
def storesTile : EngOp → Bool
  | .accst _ _ _ _ _ _ _ _ => true
  | _ => false

/-! ### Bank accesses of the engine (R68, R117, R126, R129) -/

def bankOfOff (s : State) (g off : Nat) : Option Nat := liveBank (clusterAt s g) (off / 2 ^ 17)

/-- A side's reads: the ranges of one bank that go in one cycle of the fill's F, with that cycle. -/
def fillGroups (s : State) (g : Nat) (x : SideFill) (b : Bool) : List (Nat × Nat × List (Nat × Nat)) :=
  let rs := sideRanges x b
  let f := fillTime x.ty x.fmt
  (List.range f).flatMap (fun k =>
    let mine := ((rs.zipIdx).filter (fun y => y.2 * f / rs.length = k)).map Prod.fst
    let banks := (mine.filterMap (fun r => bankOfOff s g r.1)).eraseDups
    banks.map (fun bank => (bank, k, mine.filter (fun r => bankOfOff s g r.1 = some bank))))
/-- The cells of an ACCST or ACCLD: those of one bank among eight cell positions, with the cycle from the start. -/
def beatGroups (s : State) (g : Nat) (op : EngOp) : List (Nat × Nat × List Nat) :=
  let cs := entryCells op
  ((cs.map (fun c => c.1 / 8)).eraseDups).flatMap (fun k =>
    let mine := cs.filter (fun c => c.1 / 8 = k)
    let banks := (mine.filterMap (fun c => bankOfOff s g c.2.1)).eraseDups
    banks.map (fun bank => (bank, 1 + k, (mine.filter (fun c => bankOfOff s g c.2.1 = some bank)).map Prod.fst)))

/-- From its issue on, an engine operation keeps its core's place at the port of each bank that it will touch. -/
def reserve (s : State) (core : Nat) (e : EngEntry) : State :=
  let g := clusterOf core
  let side (b : Bool) (s : State) : State :=
    match sideOf e.op b with
    | none => s
    | some x => (((fillGroups s g x b).map Prod.fst).eraseDups).foldl
        (fun s bank => portPut s g ⟨bank, posOf core, none, e.issued, .fill e.id b []⟩) s
  let s := side true (side false s)
  (((beatGroups s g e.op).map Prod.fst).eraseDups).foldl (fun s bank => portPut s g ⟨bank, posOf core, none, e.issued, .beat e.id []⟩) s

def isSide (id : Nat) (b : Bool) : PortAct → Bool
  | .fill i c _ => i = id && c = b
  | _ => false
def isBeat (id : Nat) : PortAct → Bool
  | .beat i _ => i = id
  | _ => false
/-- Drops the requests of which `f` holds. -/
def dropPorts (s : State) (g : Nat) (f : PortAct → Bool) : State := modCluster s g (fun cl => { cl with ports := cl.ports.filter (fun r => !f r.act) })
/-- Puts an engine's requests where it has kept its place; one at a bank where it has none takes a place by its issue. -/
def present (s : State) (g : Nat) (f : PortAct → Bool) (rs : List PortReq) : State :=
  let kept := ((clusterAt s g).ports.filter (fun r => f r.act)).map PortReq.bank
  let s := modCluster s g (fun cl => { cl with ports := cl.ports.flatMap (fun r => if f r.act then rs.filter (fun x => x.bank = r.bank) else [r]) })
  (rs.filter (fun r => r.bank ∉ kept)).foldl (fun s r => portPut s g r) s

def isEngineAct (r : PortReq) : Bool := (actEntry r.act).isSome
/-- A fill that has begun, or an ACCST or ACCLD that has started, touches a bank (R130). -/
def engineTouches (s : State) (g b : Nat) : Bool := (clusterAt s g).ports.any (fun r => r.bank = b && r.at_.isSome && isEngineAct r)

/-! ### Fills in progress (R64) -/

def fillOf (e : EngEntry) (b : Bool) : Option Fill := if b then e.fillB else e.fillA
def setFill (e : EngEntry) (b : Bool) (f : Option Fill) : EngEntry := if b then { e with fillB := f } else { e with fillA := f }
/-- A side is filled, or has nothing to fill. -/
def sideReady (now : Nat) (e : EngEntry) (b : Bool) : Bool :=
  match sideFill e.op b, fillOf e b with
  | none, _ => true
  | some _, some f => f.left = 0 && decide (f.ends ≤ now)
  | some _, none => false
/-- The queued entry whose fill of a side can begin: the side's earlier fills have ended, and no earlier entry still reads the
latch. -/
def fillNext (s : State) (core : Nat) (b : Bool) : Option EngEntry :=
  let k := coreAt s core
  let q := k.engine.queue
  match q.find? (fun e => !sideReady s.now e b) with
  | none => none
  | some e => match sideFill e.op b, fillOf e b with
    | some (i, _), none =>
      let before := q.takeWhile (fun x => x.id != e.id)
      if decide (k.engine.latchFree.toList.getD i 0 ≤ s.now) && before.all (fun x => i ∉ latchReads x.op) then some e else none
    | _, _ => none
def modQueued (s : State) (core id : Nat) (f : EngEntry → EngEntry) : State :=
  modCore s core (fun k => { k with engine := { k.engine with queue := k.engine.queue.map (fun e => if e.id = id then f e else e) } })
/-- A side's fill begins: its checks, then its reads are presented, one group a cycle; a fill that faults reads nothing. -/
def beginFill (s : State) (core : Nat) (e : EngEntry) (b : Bool) : State :=
  match sideOf e.op b with
  | none => s
  | some x =>
    let g := clusterOf core
    let ends := s.now + fillTime x.ty x.fmt
    match fillFault s g x.op x.desc (sideRanges x b) with
    | some ti => modQueued (dropPorts s g (isSide e.id b)) core e.id (fun e => setFill e b (some ⟨0, ends, [], some ti⟩))
    | none =>
      let rs := (fillGroups s g x b).map (fun y => ⟨y.1, posOf core, some (s.now + y.2.1), e.issued, .fill e.id b y.2.2⟩)
      modQueued (present s g (isSide e.id b) rs) core e.id (fun e => setFill e b (some ⟨rs.length, ends, [], none⟩))

/-- The order of R424 among the causes that an engine operation meets. -/
def causeRank (c : BitVec 8) : Nat :=
  match c.toNat with
  | 0x25 => 0 | 0x13 => 1 | 0x14 => 2 | 0x16 => 3 | 0x15 => 4 | 0x70 => 5 | _ => 6
/-- The first of two faults by R424; the former where it ranks them alike. -/
def firstFault (a b : Option TrapInfo) : Option TrapInfo :=
  match a, b with
  | some x, some y => if causeRank y.cause < causeRank x.cause then some y else some x
  | some x, none => some x
  | none, y => y
/-- The same among accesses of one side: by address where the causes are alike. -/
def lowerAddr (a b : Option TrapInfo) : Option TrapInfo :=
  match a, b with
  | some x, some y => if x.cause = y.cause && decide (y.addr.toNat < x.addr.toNat) then some y else firstFault a b
  | _, _ => firstFault a b

/-- What one group of reads meets: a range that R250 refuses by now, race watch, an uncorrectable error (R129, R131). -/
def groupFault (s : State) (uid g op part : Nat) (rs : List (Nat × Nat)) (write : Bool) : Except TrapInfo State :=
  match rangesFault s g rs op with
  | some ti => .error ti
  | none => match rangesWatch s uid g rs write op with
    | .error ti => .error ti
    | .ok s => match rs.find? (fun r => !write && placeErr s (.near g r.1) r.2) with
      | some r => .error ⟨0x70, BitVec.ofNat 64 r.1, info18 op 0 part 0⟩
      | none => .ok s

/-- The bank serves a group of a fill's reads. The fill ends when its last read is served, and not before its F. -/
def serveFill (s : State) (core id : Nat) (b : Bool) (rs : List (Nat × Nat)) : State :=
  match (coreAt s core).engine.queue.find? (fun e => e.id = id) with
  | none => s
  | some e => match sideOf e.op b with
    | none => s
    | some x =>
      let g := clusterOf core
      let (s, f) := match groupFault s e.uid g x.op (if b then 2 else 1) rs false with
        | .ok s => (s, none)
        | .error ti => (s, some ti)
      let img := rs.map (fun r => (r.1, readNear s g r.1 r.2))
      modQueued s core id (fun e => setFill e b ((fillOf e b).map (fun y =>
        { y with left := y.left - 1, ends := max y.ends (s.now + 1), image := y.image ++ img, fault := lowerAddr y.fault f })))

def testing (s : State) (u : UnitKind) (core : Nat) : Bool :=
  s.tests.any (fun x => x.u = u && x.die = dieOf core && x.cluster = clusterOf core % 16 && x.index = posOf core && decide (s.now < x.busyUntil))

/-- NRED towards another package waits while the package seals nothing more (R399). -/
def sealReady (s : State) (e : EngOp) : Bool :=
  match e with
  | .nred g _ _ _ _ _ => gRootPkg (groupLine s g) = s.pkg || sealRoom s 1025
  | _ => true

/-- The head entry may start now (R64, R128, R399, R434, R437). -/
def engineReady (s : State) (core : Nat) : Bool :=
  let k := coreAt s core
  match k.engine.queue with
  | [] => false
  | e :: _ =>
    decide (k.engine.freeAt ≤ s.now) && sideReady s.now e false && sideReady s.now e true
      && decide (s.now % 8 + s.power.mduty < 8)
      && k.engine.active.all (fun x => match loadsTile x.op with
        | some t => t ∉ tilesOf e.op
        | none => true)
      && !testing s .engine core && sealReady s e.op

/-! ### What an entry does at its start -/

/-- A side's fault: that of its fill, or of the latch that it keeps. -/
def sideFault (k : Core) (e : EngEntry) (op : Nat) (ty : MmaType) (fr : BitVec 32) (b keep l1 : Bool) : Option TrapInfo :=
  if keep then keepFault k e.t.slot op ty fr b l1 else (fillOf e b).bind Fill.fault
/-- The latch that a side's fill leaves: empty after a fault (R114, R115). -/
def fillLatch (s : State) (core : Nat) (e : EngEntry) (b l1 : Bool) : State :=
  match sideOf e.op b, fillOf e b with
  | some x, some f =>
    modCore s core (fun k => setLatch k (latchIdx b l1)
      (if f.fault.isSome then none else some (fillImage f.image e.t.slot x.ty x.fmt b x.desc x.mask x.gather)))
  | _, _ => s
def startLatch (s : State) (core : Nat) (e : EngEntry) (b l1 : Bool) : State × Option TrapInfo :=
  (fillLatch s core e b l1, (fillOf e b).bind Fill.fault)

/-- MMA and MMAG at their start (R119-R121). A kept latch that fails leaves every latch as it was (R116). DESIGN CHOICE (48): where
one side's fill faults and the other's does not, the other's latch holds its new image all the same, since R131 empties only the
latch being filled. -/
def startMma (s : State) (core : Nat) (e : EngEntry) (g : Option Line) (o : MmaArg) (tile : Nat) (fa fb : BitVec 32) (mask : Word) :
    State × Option TrapInfo :=
  let op := if g.isSome then 0x301 else 0x300
  let k := coreAt s core
  let fA := sideFault k e op o.ty fa false o.keepA o.la
  let fB := sideFault k e op o.ty fb true o.keepB o.lb
  let s := if (o.keepA && fA.isSome) || (o.keepB && fB.isSome) then s else fillLatch (fillLatch s core e false o.la) core e true o.lb
  match firstFault fA fB with
  | some ti => (s, some ti)
  | none =>
    match latchAt (coreAt s core) (latchIdx false o.la), latchAt (coreAt s core) (latchIdx true o.lb) with
    | some a, some b =>
      match judge e.fov (tileAt (coreAt s core) tile) (selCells mask) with
      | .error x => (s, some (tileTrap op 0 x))
      | .ok t => match commitAdds e.fov t (mmaContribs a b mask t.floor.toInt) with
        | .error c => (s, some (overflowTrap op 0 c))
        | .ok t => (modTile s core tile (fun _ => t), none)
    | _, _ => (s, none)

/-- A cell as a contribution to a tile of its own floor. -/
def cellContrib (c : Cell) : Contrib := if c.st = .fin then .int c.n.toInt else .sp c.st
def allCells : List Nat := List.range 256

def startAccmv (s : State) (core : Nat) (e : EngEntry) (d a : Nat) : State × Option TrapInfo :=
  if d = a then (s, none)
  else match judge e.fov (tileAt (coreAt s core) a) allCells with
    | .error x => (s, some (tileTrap 0x305 1 x))
    | .ok t => (modTile (modTile s core a (fun _ => t)) core d (fun x => { x with cells := t.cells, floor := t.floor, bad := [] }), none)

/-- Of two tiles' faults the one that R424 ranks first: 0x70 before 0x31, then the lower cell, then the former. -/
def cellFirst (x y : BitVec 8 × Nat) : Bool := if x.1 = y.1 then decide (x.2 ≤ y.2) else x.1 = 0x70
def startAccadd (s : State) (core : Nat) (e : EngEntry) (d a : Nat) : State × Option TrapInfo :=
  let k := coreAt s core
  let td := tileAt k d
  let ta := tileAt k a
  match judge e.fov td allCells, judge e.fov ta allCells with
  | .error x, .error y => (s, some (if cellFirst x y then tileTrap 0x306 0 x else tileTrap 0x306 1 y))
  | .error x, _ => (s, some (tileTrap 0x306 0 x))
  | _, .error y => (s, some (tileTrap 0x306 1 y))
  | .ok td, .ok ta =>
    if td.floor != ta.floor then (s, some ⟨0x32, 0, info18 0x306 0 0 0⟩)
    else match commitAdds e.fov td (allCells.map (fun c => (c, cellContrib (cellAt ta c)))) with
      | .error c => (s, some (overflowTrap 0x306 0 c))
      | .ok t => (modTile (modTile s core a (fun _ => ta)) core d (fun _ => t), none)

/-- A cell's stored bytes and flags (R126). -/
def storeCell (ty : AccType) (rm : AccRm) (fr : BitVec 32) (floor : BitVec 16) (c : Cell) (draw : Nat) : List Byte × BitVec 5 :=
  match ty with
  | .raw => (cellImage c.n.toInt c.st floor, 0)
  | ty =>
    let f := match ty with
      | .f16 => fmtF16
      | .bf16 => fmtBF16
      | .fmt => fmtOfReg fr
      | _ => fmtF32
    let r := roundTo f (accMode rm) (furrowVal c.n.toInt c.st floor.toInt) draw
    (bytesLE r.1 (cellSize ty), r.2)
/-- The sowing draw of one cell: X = X0 + i × L + j modulo 2^48, P = 0x01, D = 0. -/
def cellDraw (desc : Line) (seed step : Word) (c : Nat) : Nat :=
  sowDraw seed (laneOf desc 2) (step.setWidth 32)
    (BitVec.ofNat 48 (descLane desc 3 + descLane desc 4 % 2 ^ 16 * 2 ^ 32 + c / 16 * descLane desc 5 + c % 16)) 0x01 0

/-- A fault of an ACCST at a cell; scr.eaddr is the cell's near offset (R131). DESIGN CHOICE (48): PART is 0, the value for a tile,
since R132 names none for a tile in field B. -/
def accstTrap (ty : AccType) (desc : Line) (x : BitVec 8 × Nat) : TrapInfo := ⟨x.1, BitVec.ofNat 64 (cellOff ty desc x.2), info18 0x303 0 0 x.2⟩
/-- The writes or reads of an ACCST or ACCLD that starts now are presented at their banks. -/
def presentBeats (s : State) (core : Nat) (e : EngEntry) : State :=
  let g := clusterOf core
  present s g (isBeat e.id) ((beatGroups s g e.op).map (fun y => ⟨y.1, posOf core, some (s.now + y.2.1), e.issued, .beat e.id y.2.2⟩))
/-- A failed entry keeps no place at a bank. -/
def failEntry (s : State) (core : Nat) (e : EngEntry) (ti : TrapInfo) : State × EngEntry :=
  (later (dropPorts s (clusterOf core) (isBeat e.id)) 32 (.engineEntryDone core e.id), { e with fault := some ti })
/-- An entry with no cells is done after 32 cycles; any other when its last cell is served. -/
def beatsEnd (s : State) (core : Nat) (e : EngEntry) : State := if e.beats = [] then later s 32 (.engineEntryDone core e.id) else s

/-- The entry with the effects of its start, and the state after it. -/
def startAccst (s : State) (core : Nat) (e : EngEntry) (ty : AccType) (rm : AccRm) (fr : BitVec 32) (desc : Line) (tile : Nat) (mask : Word)
    (seed step : Word) : State × EngEntry :=
  match rangesFault s (clusterOf core) (cellRanges ty desc mask) 0x303 with
  | some ti => failEntry s core e ti
  | none => match judge e.fov (tileAt (coreAt s core) tile) (selCells mask) with
    | .error x => failEntry s core e (accstTrap ty desc x)
    | .ok t =>
      let outs := (selCells mask).map (fun c => (c, storeCell ty rm fr t.floor (cellAt t c) (cellDraw desc seed step c)))
      let e := { e with beats := outs.map (fun x => ⟨x.1, cellOff ty desc x.1, x.2.1, false⟩)
                        flags := outs.foldl (fun f x => f ||| x.2.2) 0 }
      (beatsEnd (presentBeats (modTile s core tile (fun _ => t)) core e) core e, e)

def startAccld (s : State) (core : Nat) (e : EngEntry) (ty : AccType) (desc : Line) (mask : Word) : State × EngEntry :=
  match rangesFault s (clusterOf core) (cellRanges ty desc mask) 0x304 with
  | some ti => failEntry s core e ti
  | none =>
    let e := { e with beats := (selCells mask).map (fun c => ⟨c, cellOff ty desc c, [], false⟩) }
    (beatsEnd (presentBeats s core e) core e, e)

def startFrsend (s : State) (core : Nat) (e : EngEntry) (dest : Word) (tile : Nat) (tag : BitVec 8) (mask : Word) : State × EngEntry :=
  match judge e.fov (tileAt (coreAt s core) tile) (selCells mask) with
  | .error x => (later s 2 (.frsendComplete core e.id), { e with fault := some ⟨x.1, 0, info187 0x30A 0 0 0 (BitVec.ofNat 8 x.2)⟩ })
  | .ok t =>
    (later (modTile s core tile (fun _ => t)) 2 (.frsendInject core e.id),
     { e with nextInj := s.now + 2
              msgs := furrowMsgs dest.toNat e.launch core e.id t.floor false tag
                ((selCells mask).map (fun c => (c, (cellAt t c).n.toInt, (cellAt t c).st))) })

/-- NRED's entry: the member's contribution sets out, one message a cycle from start + 2. -/
def startNred (s : State) (core : Nat) (e : EngEntry) (group round tile : Nat) (tag : BitVec 8) (mask : Word) : State × EngEntry :=
  match judge e.fov (tileAt (coreAt s core) tile) (selCells mask) with
  | .error x => (later s 2 (.frsendComplete core e.id),
      { e with fault := some (otherTrap 0x396 tile x (info187 0x396 0 0 0 (BitVec.ofNat 8 x.2))) })
  | .ok t =>
    let cells := (selCells mask).map (fun c => (c, (cellAt t c).st, (cellAt t c).n.toInt))
    let n := (furrowMsgs 0 e.launch core 0 t.floor false tag (cells.map (fun x => (x.1, x.2.2, x.2.1)))).length
    let m : NredMsg := ⟨group, BitVec.ofNat 20 round, 0, (memberIndex s group core).getD 0, switchMode s group round, t.floor, tag,
      cells.filter (fun x => x.2.1 != .fin || x.2.2 != 0)⟩
    (later (sendNred (modTile s core tile (fun _ => t)) core (1 + n) m) (1 + n + nredAck s core group) (.frsendComplete core e.id), e)

/-- A request joins the queue of its die's SHA-256 engine (R352). -/
def shaJoin (s : State) (g len : Nat) (who : ShaWho) : State := { s with shaQ := s.shaQ ++ [⟨g / 16, g, s.now, shaBlockCount len, who⟩] }

/-- DIGEST.T's entry: the 256 cell images, in CELL order. -/
def startDigest (s : State) (core : Nat) (e : EngEntry) (tile : Nat) : State × EngEntry :=
  match judge e.fov (tileAt (coreAt s core) tile) allCells with
  | .error x => (later s 2 (.engineEntryDone core e.id), { e with fault := some (otherTrap 0x397 tile x (info18 0x397 0 0 x.2)) })
  | .ok t =>
    (shaJoin (modTile s core tile (fun _ => t)) (clusterOf core) 8192 (.entry core e.id), { e with value := digest64 (allCells.flatMap (fun c => cellImage (cellAt t c).n.toInt (cellAt t c).st t.floor)) })

/-- The effects of an entry's start, and its end laid down. -/
def entryEffect (s : State) (core : Nat) (e : EngEntry) : State × EngEntry :=
  let fin (r : State × Option TrapInfo) : State × EngEntry :=
    (later r.1 (latency e.op) (.engineEntryDone core e.id), { e with fault := r.2 })
  match e.op with
  | .mma g o tile fa fb _ _ mask => fin (startMma s core e g o tile fa fb mask)
  | .latch b l1 _ _ _ _ => fin (startLatch s core e b l1)
  | .accz tile floor => fin (modTile s core tile (fun _ => { tileReset with floor := floor }), none)
  | .accmv d a => fin (startAccmv s core e d a)
  | .accadd d a => fin (startAccadd s core e d a)
  | .accst ty rm fr desc tile mask seed step => startAccst s core e ty rm fr desc tile mask seed step
  | .accld ty _ desc mask => startAccld s core e ty desc mask
  | .frsend dest tile tag mask _ => startFrsend s core e dest tile tag mask
  | .nred g r tile tag mask _ => startNred s core e g r tile tag mask
  | .digest _ tile => startDigest s core e tile

/-- An operation that parks its issuer (R61). -/
def parksIssuer : EngOp → Bool
  | .accst _ _ _ _ _ _ _ _ | .accld _ _ _ _ | .frsend _ _ _ _ _ | .nred _ _ _ _ _ _ => false
  | _ => true
/-- A deferred fault waits for the issuer: its parked instruction takes that trap, and has no effect (R131). -/
def faultWaits (s : State) (uid : Nat) : Bool := ((findUid s uid).map (fun x => x.2.deferred != [])).getD false
/-- Keeps what an entry has changed at its start, from a core `k` before it. -/
def keepUndo (s : State) (core : Nat) (k : Core) (e : EngEntry) : EngEntry :=
  let k' := coreAt s core
  { e with
    undoTiles := ((tilesOf e.op).map (fun t => (t, tileAt k t, tileAt k' t))).filter (fun x => x.2.1 != x.2.2)
    undoLatches := ((List.range 4).map (fun i => (i, latchAt k i, latchAt k' i))).filter (fun x => x.2.1 != x.2.2) }
/-- Takes back what an entry has changed. DESIGN CHOICE (22): where another entry has changed a tile or latch since, it stays. -/
def undoEntry (s : State) (core : Nat) (e : EngEntry) : State :=
  let s := e.undoTiles.foldl (fun s x => modTile s core x.1 (fun t => if t = x.2.2 then x.2.1 else t)) s
  e.undoLatches.foldl (fun s x => modCore s core (fun k => if latchAt k x.1 = x.2.2 then setLatch k x.1 x.2.1 else k)) s

/-- The entry leaves the queue at its start; the engine and the latches it reads are busy for O (R64). -/
def startEntry (s : State) (core : Nat) : State :=
  match (coreAt s core).engine.queue with
  | [] => s
  | e :: rest =>
    let k := coreAt s core
    let o := occupancy e.op
    let eng := { k.engine with
      queue := rest, freeAt := s.now + o
      latchFree := (latchReads e.op).foldl (fun v i => v.setIfInBounds i (s.now + o)) k.engine.latchFree }
    let s := setCore s core { k with engine := eng }
    let (s, e) :=
      if parksIssuer e.op && faultWaits s e.uid then (later s (latency e.op) (.engineEntryDone core e.id), e) else entryEffect s core e
    let e := { keepUndo s core k e with started := some s.now }
    modCore s core (fun k => { k with engine := { k.engine with active := k.engine.active ++ [e] } })

/-- ENGINE_ENTRY_START: the head of the queue starts when R64 lets it. -/
def execEngineEntryStart (core : Nat) (s : State) : Out := .next (if engineReady s core then startEntry s core else s)

/-- FILL_START and the like have no row of the table: a fill that can begin does so in the cycle of R64. -/
def beginNext (s : State) (core : Nat) : Option State :=
  match fillNext s core false, fillNext s core true with
  | some e, _ => some (beginFill s core e false)
  | none, some e => some (beginFill s core e true)
  | none, none => none

/-! ### Bank accesses of ACCST and ACCLD (R126) -/

def dropEntry (s : State) (core id : Nat) : State :=
  modCore s core (fun k => { k with engine := { k.engine with active := k.engine.active.filter (fun e => e.id != id) } })
def entryOf (s : State) (core id : Nat) : Option EngEntry := (coreAt s core).engine.active.find? (fun e => e.id = id)

/-- The cells of a group with their ranges. -/
def groupCells (e : EngEntry) (cells : List Nat) : List (Nat × Nat × Nat) := (entryCells e.op).filter (fun c => c.1 ∈ cells)
/-- The end of an entry whose last cell has been served, 32 cycles after its start or later (R65, R126). -/
def lastBeat (s : State) (core : Nat) (e : EngEntry) : State :=
  later s ((e.started.getD 0 + 32) - s.now) (.engineEntryDone core e.id)
/-- The first group of an ACCST is checked with all its cells, so that a refused one writes none (R131, R283). -/
def checkRanges (e : EngEntry) (cells : List Nat) : List (Nat × Nat) :=
  let cs := if storesTile e.op && e.beats.all (fun b => !b.done) then entryCells e.op else if storesTile e.op then [] else groupCells e cells
  cs.map Prod.snd
/-- A fault at an ACCLD's read names the cell. -/
def cellFault (e : EngEntry) (cells : List Nat) (ti : TrapInfo) : TrapInfo :=
  if ti.cause = 0x70 then
    match (groupCells e cells).find? (fun c => c.2.1 = ti.addr.toNat) with
    | some c => { ti with info := info18 0x304 0 0 c.1 }
    | none => ti
  else ti
/-- The bank serves a group of cells: an ACCST's are written and an ACCLD's read. The entry ends with its last cell, or when an
access is refused. -/
def serveBeat (s : State) (core id : Nat) (cells : List Nat) : State :=
  match entryOf s core id with
  | none => s
  | some e =>
    let g := clusterOf core
    match groupFault s e.uid g (if storesTile e.op then 0x303 else 0x304) 0 (checkRanges e cells) (storesTile e.op) with
    | .error ti =>
      lastBeat (modEntry (dropPorts s g (isBeat id)) core id (fun e => { e with fault := some (cellFault e cells ti) })) core e
    | .ok s =>
      let s := if storesTile e.op then (e.beats.filter (fun b => b.cell ∈ cells)).foldl (fun s b => homeWrite s (.near g b.off) b.bytes) s else s
      let got := (groupCells e cells).map (fun c => (c.1, readNear s g c.2.1 c.2.2))
      let e := { e with beats := e.beats.map (fun b => if b.cell ∈ cells then { b with done := true, bytes := (look b.cell got).getD b.bytes } else b) }
      let s := modEntry s core id (fun _ => e)
      if e.beats.all Beat.done then lastBeat s core e else s

/-! ### What an entry does when it is done -/

/-- An ACCLD's image of one cell (R127, R204): none where a .RAW image is bad. -/
def loadCell (ty : AccType) (floor : BitVec 16) (bs : List Byte) : Option Cell :=
  match ty with
  | .raw => match parseCell bs with
    | some (n, st, f) => if f = floor then some ⟨BitVec.ofInt 200 n, st⟩ else none
    | none => none
  | _ => some (match contribOf (valueOf fmtF32 (ofBytesLE bs)) floor.toInt with
    | .int n => if inRange n then ⟨BitVec.ofInt 200 n, .fin⟩ else ⟨0, satState n⟩
    | .sp st => ⟨0, st⟩)

def commitAccld (s : State) (core : Nat) (e : EngEntry) (ty : AccType) (tile : Nat) : State × Option TrapInfo :=
  let t := tileAt (coreAt s core) tile
  let xs := e.beats.map (fun b => (b, loadCell ty t.floor b.bytes))
  match xs.find? (fun x => x.2.isNone) with
  | some (b, _) => (s, some ⟨0x32, BitVec.ofNat 64 b.off, info18 0x304 1 0 b.cell⟩)
  | none => (modTile s core tile (fun t => xs.foldl (fun t x => setCell t x.1.cell (x.2.getD cellReset)) t), none)

/-- The thread that waits for an entry is told of its end. -/
def tellEngine (s : State) (e : EngEntry) : State :=
  modUid s e.uid (fun th => match th.park with
    | some p => if p.why = .engine e.id then { th with park := some { p with why := .engineDone e.fault } } else th
    | none => th)

/-- A fault of an entry that does not park its issuer is deferred (R131). -/
def deferEntry (s : State) (e : EngEntry) (fault : Option TrapInfo) : State :=
  match fault with
  | some ti => deferTo s e.uid e.t e.launch ti
  | none => s

/-- ENGINE_ENTRY_DONE. DESIGN CHOICE (48): an ACCST that has failed raises no flags (R126 gives none to one that does not complete). -/
def endEntry (s : State) (core : Nat) (e : EngEntry) : State :=
  let s := dropEntry s core e.id
  let s := if parksIssuer e.op && faultWaits s e.uid then undoEntry s core e else s
  match e.op with
  | .accst _ _ _ _ _ _ _ _ =>
    let s := if e.fault.isNone then modUid s e.uid (fun th => orFlags th e.flags) else s
    deferEntry (endOp s e.id) e e.fault
  | .accld ty tile _ _ =>
    let (s, f) := if e.fault.isSome then (s, e.fault) else commitAccld s core e ty tile
    deferEntry (endOp s e.id) e f
  | .digest _ _ => tellEngine (modUid s e.uid (fun th => if e.fault.isNone && th.deferred = [] then { th with latch := some [e.value], cont := 2 } else th)) e
  | _ => tellEngine s e
def execEngineEntryDone (core : Nat) (id : Nat) (s : State) : Out :=
  .next (match entryOf s core id with
    | some e => endEntry s core e
    | none => s)

/-! ### Injection and completion of furrow transfers (R183) -/

def injectMsg (s : State) (core : Nat) (e : EngEntry) : State :=
  if s.now < e.nextInj || s.held.any (fun h => h.act = .frsendInject core e.id) then s
  else match e.msgs with
    | [] => s
    | m :: r =>
      let s := modEntry (sendFurrow s core m) core e.id (fun e => { e with msgs := r, nextInj := s.now + 1 })
      if r = [] then later s (furrowDone core m.core) (.frsendComplete core e.id) else later s 1 (.frsendInject core e.id)
def execFrsendInject (core : Nat) (id : Nat) (s : State) : Out :=
  .next (match entryOf s core id with
    | some e => injectMsg s core e
    | none => s)
/-- FRSEND_COMPLETE: st falls, and a fault met on the way is deferred. -/
def execFrsendComplete (core : Nat) (id : Nat) (s : State) : Out :=
  .next (match entryOf s core id with
    | some e => deferEntry (endOp (dropEntry s core id) id) e e.fault
    | none => s)

/-! ### Issue (R64, R71, R131) -/

def newEntry (s : State) (t : TId) (th : Thread) (op : EngOp) (id : Nat) : EngEntry :=
  ⟨id, t, th.uid, op, s.now, th.scr.fctl.getLsbD 8, th.launch, none, none, none, [], 0, [], 0, 0, none, [], []⟩
def engineFull (s : State) (core : Nat) : Bool := decide (8 ≤ (coreAt s core).engine.queue.length)
def enqueue (s : State) (core : Nat) (e : EngEntry) : State :=
  reserve (modCore s core (fun k => { k with engine := { k.engine with queue := k.engine.queue ++ [e] } })) core e
/-- What an operation that makes near accesses waits for before it takes its entry (R117, R268). -/
def engineWaits (s : State) (th : Thread) (op : EngOp) : List Nat :=
  if (sideOf op false).isSome || (sideOf op true).isSome || !(entryCells op).isEmpty then engineBlockers s th.uid else []

/-- An operation that parks its issuer: until an entry leaves a full queue, then until it is done. -/
def engineParks (s : State) (t : TId) (th : Thread) (i : Instr) (op : EngOp) (retry : Option Instr) : State :=
  if engineWaits s th op != [] then park s t (.opsDone (engineWaits s th op)) (some i)
  else if engineFull s t.core then park s t .engineQueue (some i)
  else
    let id := s.nextId
    park (enqueue { s with nextId := id + 1 } t.core (newEntry s t th op id)) t (.engine id) retry

/-- An operation that does not park: its counter rises while it is outstanding. `f` acts on the id it gets. -/
def enginePosts (s : State) (t : TId) (th : Thread) (i : Instr) (op : EngOp) (kind : OpKind) (f : State → Nat → State) : State :=
  if engineWaits s th op != [] then park s t (.opsDone (engineWaits s th op)) (some i)
  else if engineFull s t.core then park s t .engineQueue (some i)
  else
    let (s, id) := addOp s t kind none
    advance (f (enqueue s t.core (newEntry s t th op id)) id) t

/-- Trap 0x01 at run time (R55, R131). -/
def illegalNow (s : State) (i : Instr) (reason : Nat) : State := trap s s.cur (illegalInfo (opOf i) reason 0)

def mmaIssue (s : State) (i : Instr) (p : Pred) (o : MmaArg) (e : Option Reg) : Out :=
  guarded p s (fun th => operands s th i o.mask.toList none (fun s' vs =>
    let v := viewOf s s.cur th
    let da := readV v o.a
    let db := readV v o.b
    let fa := if o.ty = .mx then v.fmt[o.fa] else 0
    let fb := if o.ty = .mx then v.fmt[o.fb] else 0
    if !(o.keepA || descOk o.ty false da) || !(o.keepB || descOk o.ty true db) then illegalNow s i 1
    else if o.ty = .mx && (fmtWidth (fmtOfReg fa) < 2 || fmtWidth (fmtOfReg fb) < 2) then illegalNow s i 2
    else
      let gather := e.map (fun r => readV v r)
      engineParks (keeping s' vs) s.cur th i (.mma gather o (accNum o.d) fa fb da db (maskWord vs.head?)) none))
def execMma (p : Pred) (o : MmaArg) (s : State) : Out := mmaIssue s (.mma p o) p o none
def execMmag (p : Pred) (o : MmaArg) (e : Reg) (s : State) : Out := mmaIssue s (.mmag p o e) p o (some e)

def execLatch (p : Pred) (ty : MmaType) (sideB l1 : Bool) (f : Fin 8) (a : Reg) (mask : Option Reg) (s : State) : Out :=
  let i := Instr.latch p ty sideB l1 f a mask
  guarded p s (fun th => operands s th i mask.toList none (fun s' vs =>
    let v := viewOf s s.cur th
    let fr := if ty = .mx then v.fmt[f] else 0
    if !descOk ty sideB (readV v a) then illegalNow s i 1
    else if ty = .mx && fmtWidth (fmtOfReg fr) < 2 then illegalNow s i 2
    else engineParks (keeping s' vs) s.cur th i (.latch sideB l1 ty fr (readV v a) (maskWord vs.head?)) none))

def execAccz (p : Pred) (d : Reg) (floor : BitVec 16) (s : State) : Out :=
  guarded p s (fun th => engineParks s s.cur th (.accz p d floor) (.accz (accNum d) floor) none)
def execAccmv (p : Pred) (d a : Reg) (s : State) : Out :=
  guarded p s (fun th => engineParks s s.cur th (.accmv p d a) (.accmv (accNum d) (accNum a)) none)
def execAccadd (p : Pred) (d a : Reg) (s : State) : Out :=
  guarded p s (fun th => engineParks s s.cur th (.accadd p d a) (.accadd (accNum d) (accNum a)) none)

/-- The alignment and near checks that ACCST and ACCLD make at issue (R125, R131). -/
def tileFault (s : State) (core : Nat) (ty : AccType) (desc : Line) (mask : Word) (op : Nat) : Option TrapInfo :=
  let z := min (cellSize ty) 8
  if descLane desc 0 % z != 0 then some (misaligned (BitVec.ofNat 64 (descLane desc 0)) z)
  else if descLane desc 1 % z != 0 then some (misaligned (BitVec.ofNat 64 (descLane desc 0 + descLane desc 1)) z)
  else rangesFault s (clusterOf core) (cellRanges ty desc mask) op

def execAccst (p : Pred) (ty : AccType) (rm : AccRm) (fr : Fin 8) (a b : Reg) (mask : Option Reg) (s : State) : Out :=
  let i := Instr.accst p ty rm fr a b mask
  guarded p s (fun th => operands s th i mask.toList none (fun s' vs =>
    let v := viewOf s s.cur th
    let desc := readV v a
    let f := v.fmt[fr]
    let m := maskWord vs.head?
    if !storeDescOk (rm = .sr) desc then illegalNow s i 1
    else if ty = .fmt && (fmtWidth (fmtOfReg f) < 2 || (fmtOfReg f).scale != 0) then illegalNow s i 2
    else match tileFault s s.cur.core ty desc m (opOf i) with
      | some ti => trap s s.cur ti
      | none => enginePosts (keeping s' vs) s.cur th i (.accst ty rm f desc (accNum b) m th.scr.seed th.scr.step) .tl (fun s _ => s)))
def execAccld (p : Pred) (ty : AccType) (d a : Reg) (mask : Option Reg) (s : State) : Out :=
  let i := Instr.accld p ty d a mask
  guarded p s (fun th => operands s th i mask.toList none (fun s' vs =>
    let desc := readV (viewOf s s.cur th) a
    let m := maskWord vs.head?
    if !storeDescOk false desc then illegalNow s i 1
    else match tileFault s s.cur.core ty desc m (opOf i) with
      | some ti => trap s s.cur ti
      | none => enginePosts (keeping s' vs) s.cur th i (.accld ty (accNum d) desc m) .tl (fun s _ => s)))

/-! ### Format registers (R181) -/

def fmtRegOk (a : Word) : Bool :=
  let r : BitVec 32 := a.setWidth 32
  let f := fmtOfReg r
  a.extractLsb' 32 32 = 0 && r.extractLsb' 21 11 = 0 && f.specials != 3 && f.scale != 3 && decide (fmtWidth f ≤ 8)
    && !(f.e = 0 && (f.bias != 0 || f.specials != 0))
def writeFmt (th : Thread) (d : Reg) (v : BitVec 32) : Thread :=
  match d with
  | .fmt n => { th with fmt := th.fmt.set n v }
  | _ => th
def execFmtsetReg (p : Pred) (d a : Reg) (s : State) : Out :=
  guarded p s (fun th => operands s th (.fmtsetReg p d a) [a] none (fun s' vs =>
    let v := vs.getD 0 0
    if fmtRegOk v then advance (modThread s' s.cur (fun th => writeFmt th d (v.setWidth 32))) s.cur
    else illegalNow s (.fmtsetReg p d a) 1))
def execFmtsetPreset (p : Pred) (d : Reg) (pre : Preset) (sc : ScaleF) (sat : Bool) (s : State) : Out :=
  guarded p s (fun _ => advance (modThread s s.cur (fun th => writeFmt th d (presetReg pre sc sat))) s.cur)
def execFmtget (p : Pred) (d a : Reg) (s : State) : Out :=
  guarded p s (fun th => operands s th (.fmtget p d a) [] (some d) (fun s' _ =>
    setD s' d ((readFmt (viewOf s s.cur th) a).setWidth 64)))

/-! ### FRSEND and FRWAIT (R182, R185) -/

def execFrsend (p : Pred) (a b : Reg) (tag : BitVec 8) (mask : Option Reg) (s : State) : Out :=
  let i := Instr.frsend p a b tag mask
  guarded p s (fun th => operands s th i (a :: mask.toList) none (fun s' vs =>
    let dest := vs.getD 0 0
    if 2048 ≤ dest.toNat then trap s s.cur ⟨0x11, dest, info187 0x30A 0 0 0 0⟩
    else
      let before := earlier s th.uid
      enginePosts (keeping s' vs) s.cur th i (.frsend dest (accNum b) tag (maskWord vs.tail.head?) 0) .msg
        (fun s id => holdUntil s s.cur th.uid before true 0 (.frsendInject s.cur.core id))))

/-- FRWAIT's wait is over, or the tile is saturated. -/
def frwaitOk (t : Tile) (n : Nat) : Bool := t.sends = 256 || (decide (n ≤ t.sends) && t.arr = t.ann)

/-- What FRWAIT does at the end of its wait. It reads every cell: a parity error is trapped first, with no effect (R109, R408, R424). -/
def frwaitTake (s : State) (th : Thread) (i : Instr) (tile n : Nat) : State :=
  let core := s.cur.core
  let t := tileAt (coreAt s core) tile
  let t' := { t with sends := t.sends - n, arr := 0, ann := 0, mism := none }
  match allCells.find? (fun c => c ∈ t.bad), t.mism with
  | some c, _ => trap s s.cur ⟨0x70, 0, info187 (opOf i) 0 0 0 (BitVec.ofNat 8 c)⟩
  | none, some (cell, tag, f) => trap (modTile s core tile (fun _ => t')) s.cur ⟨0x32, 0, info187 (opOf i) 2 f tag cell⟩
  | none, none =>
    let bad := allCells.filter (fun c => cellOut (cellAt t' c))
    if th.scr.fctl.getLsbD 8 || bad = [] then
      let s := modTile s core tile (fun _ => bad.foldl (fun t c => setCell t c (satCell (cellAt t c))) t')
      advance (acquireAt s (clusterOf core) .pkg) s.cur
    else
      trap (modTile s core tile (fun _ => bad.foldl (fun t c => setCell t c ⟨0, .nan⟩) t')) s.cur
        ⟨0x31, 0, info187 (opOf i) 0 0 0 (BitVec.ofNat 8 (bad.headD 0))⟩

def execFrwait (p : Pred) (d a : Reg) (s : State) : Out :=
  let i := Instr.frwait p d a
  guarded p s (fun th => operands s th i [a] none (fun s' vs =>
    let n := (vs.getD 0 0).toNat % 256
    let t := tileAt (coreAt s s.cur.core) (accNum d)
    if t.sends = 256 then trap s s.cur ⟨0x32, 0, info187 (opOf i) 3 0 0 0⟩
    else if frwaitOk t n then frwaitTake (keeping s' vs) th i (accNum d) n
    else park (keeping s' vs) s.cur (.frwait (accNum d) n) (some i)))

end Sys2Proof.Machine
end

