-- ==== Sys2Proof/Machine/Sync.lean ====
section
/-! DEFINITION. Barriers, the sweeps of watched groups, and channel bindings (R234-R239, R281, R282). -/
namespace Sys2Proof.Machine
open Sys2Proof

/-! ### Groups (R234, R235) -/

/-- A group of no members. -/
def groupReset (pg : Bool) (die g : Nat) : Group := ⟨pg, if pg then 0 else die, g, [], 0, [], 0, 0, []⟩
def setGroup (s : State) (gr : Group) : State :=
  let rest := s.groups.filter (fun x => !(x.pg = gr.pg && x.die = gr.die && x.g = gr.g))
  { s with groups := if gr.members = [] then rest else rest ++ [gr] }
def modGroup (s : State) (pg : Bool) (die g : Nat) (f : Group → Group) : State :=
  match findGroup s pg die g with
  | some gr => setGroup s (f gr)
  | none => s
/-- Cycles from a recording to its report (R236). -/
def reportDelay (pg : Bool) : Nat := if pg then 48 else 12

/-- The watch homes of a group (R278, R281): its WATCH banks, and every base-die channel unit while a launch has set it. -/
def watchHomes (s : State) (gr : Group) : List HomeId :=
  let area : BitVec 7 := BitVec.ofNat 7 (boolNat gr.pg * 64 + gr.g)
  let banks := s.clusters.flatMap (fun x =>
    if gr.pg || x.1 / 16 = gr.die then
      ((List.range 32).filter (fun b => (bankAt x.2 b).mode = .watch && (bankAt x.2 b).watch.setWidth 7 = area)).map (fun b => HomeId.bank x.1 b)
    else [])
  banks ++ (match s.wtGroup with
    | some w => if w.1.setWidth 7 = area && (gr.pg || w.2 = gr.die) then (List.range 512).map HomeId.channel else []
    | none => [])

/-- The minima from the one announced to the one now recorded, which is at most 3 ahead. -/
def newMinima (gr : Group) : List (BitVec 32) :=
  if phaseLe gr.announced (groupRec gr) then
    (List.range (min 4 (groupRec gr - gr.announced).toNat)).map (fun i => gr.announced + 1 + BitVec.ofNat 32 i)
  else []
/-- The highest minimum that every watch home has finished sweeping (R281). -/
def sweptMin (gr : Group) : BitVec 32 :=
  match gr.sweeping with
  | [] => gr.announced
  | x :: _ => x.2 - 1
/-- A minimum that has advanced is sent to every watch home, which sweeps for one minimum after the other; with no home it is
swept at once (R281). -/
def announce (s : State) (gr : Group) : Group × List (Instr) :=
  let ms := newMinima gr
  let homes := watchHomes s gr
  if ms = [] then (gr, [])
  else if homes = [] then ({ gr with announced := groupRec gr, swept := groupRec gr, sweeping := [] }, [])
  else
    let idle := homes.filter (fun h => gr.sweeping.all (fun x => x.1 ≠ h))
    let gr' := { gr with announced := groupRec gr, sweeping := gr.sweeping ++ ms.flatMap (fun m => homes.map (fun h => (h, m))) }
    ({ gr' with swept := sweptMin gr' }, idle.map (fun h => .watchSweep h gr.pg gr.die gr.g (gr.announced + 1)))

/-- After a recording or a removal: an advanced minimum is announced and its completion is on its way (R236, R281). -/
def settleGroup (s : State) (gr : Group) : State :=
  let (gr, evs) := announce s gr
  let m := groupRec gr
  let last := ((gr.reports.getLast?).map Prod.snd).getD gr.reported
  let new := m != last && phaseLe last m
  let gr := if new then { gr with reports := gr.reports ++ [(s.now + reportDelay gr.pg, m)] } else gr
  let s := evs.foldl (fun s e => later s 0 e) (setGroup s gr)
  if new && gr.members != [] then later s (reportDelay gr.pg) (.barrierComplete gr.pg gr.die gr.g) else s

/-- Removes a thread from a group (R235); a wait held back by it may then complete. -/
def leaveGroup (s : State) (uid : Nat) (gr : Group) : State :=
  if (member? gr uid).isNone then s
  else
    let gr := { gr with members := gr.members.filter (fun m => m.uid != uid) }
    if gr.members = [] then setGroup s gr else settleGroup s gr
/-- QUIT and REAP remove the thread from every group (R235). -/
def leaveAll (s : State) (uid : Nat) : State := s.groups.foldl (fun s gr => leaveGroup s uid gr) s

/-- Adds a thread to a group at its minimum phase, or at 0 in an empty group. -/
def joinGroup (s : State) (uid : Nat) (pg : Bool) (die g : Nat) : State :=
  let gr := (findGroup s pg die g).getD (groupReset pg die g)
  if (member? gr uid).isSome then s
  else
    let ph := groupMin gr
    setGroup s { gr with members := gr.members ++ [⟨uid, ph, ph, ph⟩] }

/-- scr.einfo of trap 0x21 (R243). -/
def groupTrap (s : State) (uid : Nat) (pg : Bool) (die g reason : Nat) : TrapInfo :=
  let ph := (((findGroup s pg die g).bind (fun gr => member? gr uid)).map Member.phase).getD 0
  ⟨0x21, 0, BitVec.ofNat 64 (ph.toNat * 2 ^ 32 + reason * 4096 + boolNat pg * 128 + g)⟩

/-! ### ARRIVE, BWAIT and BAR (R236) -/

/-- The phase against which the lead limit is judged: the swept minimum of a watched group (R281), else the minimum. -/
def leadBase (s : State) (gr : Group) : BitVec 32 := if watchHomes s gr = [] then groupMin gr else gr.swept
def leadOk (s : State) (gr : Group) (m : Member) : Bool := decide ((m.phase - leadBase s gr).toNat ≤ 2)

def setMember (gr : Group) (m : Member) : Group :=
  { gr with members := gr.members.map (fun x => if x.uid = m.uid then m else x) }

/-- The member's phase rises; its arrival is recorded once st = 0 and the cluster's dirty lines are written back. -/
def makeArrival (s : State) (t : TId) (gr : Group) (m : Member) : State :=
  let s := setGroup s (setMember gr { m with phase := m.phase + 1 })
  holdUntil s t m.uid [] true 0 (.barrierArrivalRecord m.uid gr.pg gr.die gr.g (m.phase + 1))

/-- BWAIT's condition as the barrier unit has reported it. -/
def phaseDone (s : State) (pg : Bool) (die g : Nat) (p : BitVec 32) : Bool :=
  match findGroup s pg die g with
  | some gr => phaseLe p gr.reported
  | none => true

/-- A barrier wait completes: the member's completed phase rises, and clean lines are invalidated (R268, R281). -/
def passBarrier (s : State) (t : TId) (uid : Nat) (pg : Bool) (die g : Nat) (p : BitVec 32) : State :=
  let s := modGroup s pg die g (fun gr =>
    { gr with members := gr.members.map (fun m => if m.uid = uid && phaseLe m.completed p then { m with completed := p } else m) })
  invalidateClean s (clusterOf t.core)

def execArrive (p : Pred) (d : Reg) (g : GroupArg) (s : State) : Out :=
  guarded p s (fun th =>
    let die := dieOf s.cur.core
    match (findGroup s g.pg die g.g.toNat).bind (fun gr => (member? gr th.uid).map (fun m => (gr, m))) with
    | none => trap s s.cur (groupTrap s th.uid g.pg die g.g.toNat 0)
    | some (gr, m) =>
      if !leadOk s gr m then
        modThread (park s s.cur (.arrive g.pg die g.g.toNat) (some (.arrive p d g))) s.cur (fun th => { th with cont := 1 })
      else
        let s := makeArrival s s.cur gr m
        advance ((if th.cont = 1 then writeAtWake else writeReg) s s.cur d ((m.phase + 1).setWidth 64)) s.cur)

def execBwait (p : Pred) (g : GroupArg) (a : Reg) (s : State) : Out :=
  guarded p s (fun th => operands s th (.bwait p g a) [a] none (fun s' vs =>
    let die := dieOf s.cur.core
    let ph : BitVec 32 := (vs.getD 0 0).setWidth 32
    match (findGroup s g.pg die g.g.toNat).bind (fun gr => member? gr th.uid) with
    | none => trap s s.cur (groupTrap s th.uid g.pg die g.g.toNat 0)
    | some m =>
      let ahead := (ph - m.phase).toNat
      if 0 < ahead && ahead < 2 ^ 31 then trap s s.cur (groupTrap s th.uid g.pg die g.g.toNat 2)
      else if phaseDone s g.pg die g.g.toNat ph then advance (passBarrier s' s.cur th.uid g.pg die g.g.toNat ph) s.cur
      else park (keeping s' vs) s.cur (.bwait g.pg die g.g.toNat ph false) (some (.bwait p g a))))

/-- BAR: ARRIVE, then BWAIT on the new phase, the thread's own in the group; `barArr` says that the arrival has been made, also in
a thread restored with BARHALF (R322). -/
def execBar (p : Pred) (d : Reg) (g : GroupArg) (s : State) : Out :=
  guarded p s (fun th =>
    let die := dieOf s.cur.core
    let i := Instr.bar p d g
    match (findGroup s g.pg die g.g.toNat).bind (fun gr => (member? gr th.uid).map (fun m => (gr, m))) with
    | none => trap s s.cur (groupTrap s th.uid g.pg die g.g.toNat 0)
    | some (gr, m) =>
      match th.barArr with
      | some _ =>
        let ph := m.phase
        if phaseDone s g.pg die g.g.toNat ph then
          let s := modThread (passBarrier s s.cur th.uid g.pg die g.g.toNat ph) s.cur (fun th => { th with barArr := none })
          advance (writeAtWake s s.cur d (ph.setWidth 64)) s.cur
        else park s s.cur (.bwait g.pg die g.g.toNat ph true) (some i)
      | none =>
        if !leadOk s gr m then park s s.cur (.arrive g.pg die g.g.toNat) (some i)
        else
          let s := modThread (makeArrival s s.cur gr m) s.cur (fun th => { th with barArr := some (m.phase + 1) })
          park s s.cur (.bwait g.pg die g.g.toNat (m.phase + 1) true) (some i))

def execBgrpJoin (p : Pred) (g : GroupArg) (s : State) : Out :=
  guarded p s (fun th =>
    let die := dieOf s.cur.core
    let n := g.g.toNat
    let gr := (findGroup s g.pg die n).getD (groupReset g.pg die n)
    if (member? gr th.uid).isSome then advance s s.cur
    else if 4 ≤ (s.groups.filter (fun x => (member? x th.uid).isSome)).length then trap s s.cur (groupTrap s th.uid g.pg die n 3)
    else if 65535 ≤ gr.members.length then trap s s.cur (groupTrap s th.uid g.pg die n 4)
    else advance (joinGroup s th.uid g.pg die n) s.cur)

/-- BGRP.LEAVE by a thread that is no member changes nothing. -/
def execBgrpLeave (p : Pred) (g : GroupArg) (s : State) : Out :=
  guarded p s (fun th => match findGroup s g.pg (dieOf s.cur.core) g.g.toNat with
    | some gr => advance (leaveGroup s th.uid gr) s.cur
    | none => advance s s.cur)

/-! ### Events of barriers and sweeps -/

/-- BARRIER_ARRIVAL_RECORD: the member's arrival goes to the barrier unit. -/
def execBarrierArrivalRecord (uid : Nat) (pg : Bool) (die g : Nat) (phase : BitVec 32) (s : State) : Out :=
  .next (later s 0 (.barrierMessage pg die g uid phase))

/-- BARRIER_MESSAGE: the barrier unit records an arrival (R236). -/
def recordArrival (s : State) (pg : Bool) (die g uid : Nat) (phase : BitVec 32) : State :=
  match findGroup s pg die g with
  | none => s
  | some gr => match member? gr uid with
    | none => s
    | some m => if phaseLe m.recorded phase then settleGroup s (setMember gr { m with recorded := phase }) else s
def execBarrierMessage (pg : Bool) (die g uid : Nat) (phase : BitVec 32) (s : State) : Out :=
  .next (recordArrival s pg die g uid phase)

/-- BARRIER_COMPLETE: the completions that are due are reported to the waiters. -/
def execBarrierComplete (pg : Bool) (die g : Nat) (s : State) : Out :=
  .next (modGroup s pg die g (fun gr =>
    let due := gr.reports.filter (fun x => x.1 ≤ s.now)
    { gr with reported := ((due.getLast?).map Prod.snd).getD gr.reported, reports := gr.reports.filter (fun x => s.now < x.1) }))

/-- The entries that are not zero of a table of `n` (R377). -/
def tableWords (m : List Host.Cell) (tbl n : Nat) : List Word :=
  ((m.filter (fun x => decide (tbl ≤ x.1) && decide (x.1 < tbl + 8 * n))).map (fun x => x.1 / 8)).eraseDups.map (fun k => wordLE (memBytes m (8 * k) 8))
/-- The frames of local memory that the WT leaves below a table map, as first frame and level. -/
def wtLeaves (m : List Host.Cell) : Nat → Nat → List (Nat × Nat)
  | 0, tbl => ((tableWords m tbl 1024).filter (fun e => e.getLsbD 0 && entLevel e = 0 && leafOk e && entAp e = 0 && e.getLsbD 5)).map (fun e => (entFrame e, 0))
  | lvl + 1, tbl =>
    (tableWords m tbl (if lvl = 2 then 2048 else 1024)).flatMap (fun e =>
      if !e.getLsbD 0 then []
      else if entLevel e = 3 then (if tableOk e (lvl + 1) then wtLeaves m lvl (entTable e) else [])
      else if lvl < 2 && entLevel e = lvl + 1 && leafOk e && entAp e = 0 && e.getLsbD 5 then [(entFrame e, lvl + 1)] else [])
/-- The WT lines homed at a base-die channel unit (R282): of every 64 KiB frame 32 lines lie at each channel of its stack (R259). -/
def wtLines (s : State) (ch : Nat) : Nat :=
  let leaves := ((s.queues.map (fun x => x.2.root.toNat)).eraseDups.flatMap (wtLeaves s.hbm 3)).eraseDups
  ((leaves.filter (fun x => x.1 * 65536 / 2 ^ 36 = ch / 32)).map (fun x => 32 * 2 ^ (10 * x.2))).sum
/-- The cycles of a sweep (R282). -/
def sweepTime (s : State) : HomeId → Nat
  | .channel c => ceilDiv (wtLines s c) 8
  | _ => 4096
/-- Clears the records of phase m − 1 in an entry (R282). -/
def sweepEntry (m : BitVec 32) (e : BitVec 21) : BitVec 21 :=
  let old : BitVec 2 := (m - 1).setWidth 2
  let e1 := if e.extractLsb' 11 2 = old then e &&& 0x7FF#21 else e
  if e1.extractLsb' 1 2 = old then e1 &&& ~~~(0x7FF#21) else e1
def sweepMap (m : BitVec 32) (mine : Nat → Bool) (l : List (Nat × BitVec 21)) : List (Nat × BitVec 21) :=
  l.filterMap (fun x => if mine x.1 then (if sweepEntry m x.2 = 0 then none else some (x.1, sweepEntry m x.2)) else some x)

/-- WATCH_SWEEP: the home begins its sweep for a minimum. -/
def execWatchSweep (h : HomeId) (pg : Bool) (die g : Nat) (m : BitVec 32) (s : State) : Out :=
  .next (later s (sweepTime s h) (.watchSweepDone h pg die g m))

/-- WATCH_SWEEP_DONE: the home has cleared the retired phase; when every home has, the swept minimum advances, and the
home goes on with the next minimum that it was sent. -/
def endSweep (s : State) (h : HomeId) (pg : Bool) (die g : Nat) (m : BitVec 32) : State :=
  let s := match h with
    | .bank c b => modCluster s c (fun cl => { cl with shadow := sweepMap m (fun k => k / 12288 = b) cl.shadow })
    | .channel c => { s with wtShadow := sweepMap m (fun k => hbmUnit (k * 8) = c) s.wtShadow }
    | _ => s
  match findGroup s pg die g with
  | none => s
  | some gr =>
    let gr := { gr with sweeping := gr.sweeping.filter (fun x => x ≠ (h, m)) }
    let s := setGroup s { gr with swept := sweptMin gr }
    match gr.sweeping.find? (fun x => x.1 = h) with
    | some x => later s 0 (.watchSweep h pg die g x.2)
    | none => s
def execWatchSweepDone (h : HomeId) (pg : Bool) (die g : Nat) (m : BitVec 32) (s : State) : Out :=
  .next (endSweep s h pg die g m)

/-! ### Channel bindings (R237, R239) -/

def chTarget (t : BitVec 5) (k : ChKind) : Nat :=
  match k with
  | .slot => t.toNat % 16
  | .nbr => t.toNat % 4
  | _ => t.toNat
/-- The reason of trap 0x22 for an illegal target (R237, R243). -/
def bindFault (s : State) (t : TId) (k : ChKind) (target : Nat) : Option Nat :=
  match k with
  | .slot => if target = 0 then some 3 else none
  | .nbr => if (neighbour t.core target).isNone then some 1 else none
  | .fifo => if (fifoBank (clusterAt s (clusterOf t.core)) target).isNone then some 2 else none
  | .none => none

def execChbind (p : Pred) (kind : ChKind) (d : Reg) (target : BitVec 5) (s : State) : Out :=
  guarded p s (fun _ =>
    match d with
    | .ch n =>
      match bindFault s s.cur kind (chTarget target kind) with
      | some r => trap s s.cur (chTrap r n)
      | none => advance (modThread s s.cur (fun th => { th with ch := th.ch.set n ⟨kind, BitVec.ofNat 5 (chTarget target kind)⟩ })) s.cur
    | _ => advance s s.cur)

def chKindCode : ChKind → Nat
  | .none => 0 | .slot => 1 | .nbr => 2 | .fifo => 3
/-- CHSTAT's word (R239). -/
def chStatus (s : State) (t : TId) (th : Thread) (n : Fin 8) : Word :=
  let b := th.ch[n]
  let free := ((chQueue s t th n true).map (fun q => chFree s q)).getD 0
  let avail := ((chQueue s t th n false).map (fun q => (readyWords s q).length)).getD 0
  BitVec.ofNat 64 (min free 255 * 65536 + min avail 255 * 256 + (if b.kind = .none then 0 else b.target.toNat) * 8 + chKindCode b.kind)
def execChstat (p : Pred) (d a : Reg) (s : State) : Out :=
  guarded p s (fun th =>
    match a with
    | .ch n => advance (writeReg s s.cur d (chStatus s s.cur (viewOf s s.cur th) n)) s.cur
    | _ => advance s s.cur)

end Sys2Proof.Machine
end

