-- ==== Sys2Proof/Machine/Copy.lean ====
section
/-! DEFINITION. Copy engines and shape records, the token instructions, and PUBLISH (R336-R347, R359-R367, R371). -/
namespace Sys2Proof.Machine
open Sys2Proof

/-! ### Token tables (R336, R340, R343) -/

def tokenEnt (cl : Cluster) (tok : BitVec 16) : Option TokenEnt := (look (tok.toNat % 1024) cl.tokens).filter (fun e => e.token = tok)
/-- The state code of a token: 4 for one that is unknown. -/
def tokenState (s : State) (g : Nat) (tok : BitVec 16) : Nat :=
  if tok = 0 then 4 else ((tokenEnt (clusterAt s g) tok).map TokenEnt.state).getD 4
def setToken (s : State) (g : Nat) (e : TokenEnt) : State :=
  modCluster s g (fun cl => { cl with tokens := put (e.token.toNat % 1024) e cl.tokens })
def pendingTok (s : State) (g : Nat) (tok : BitVec 16) : Bool := tokenState s g tok = 0

/-- scr.einfo of trap 0x50 and CTEST.FI's word. -/
def copyInfo (tok : BitVec 16) (cause : BitVec 8) (op kind : Nat) : Word :=
  BitVec.ofNat 64 (tok.toNat * 2 ^ 48 + cause.toNat * 2 ^ 32 + op * 2 ^ 18 + kind * 2 ^ 12)

/-! ### The shape record (R359-R362) -/

def recField (r : Line) (byte n : Nat) : Nat := r.toNat / 2 ^ (8 * byte) % 2 ^ (8 * n)
def ctl (r : Line) (lo n : Nat) : Nat := recField r 24 4 / 2 ^ lo % 2 ^ n
def ctlBit (r : Line) (i : Nat) : Bool := ctl r i 1 = 1
def shSnear (r : Line) : Bool := ctlBit r 4
def shDnear (r : Line) : Bool := ctlBit r 5
def shAnear (r : Line) : Bool := ctlBit r 15
def hasAux (r : Line) : Bool := ctlBit r 1 || ctlBit r 2
def dimWord (r : Line) (k : Nat) : Nat := recField r (24 + 8 * k) 8
def typeSize : Nat → Nat
  | 1 => 4
  | _ => 2
/-- Bytes of a source and of a destination element. -/
def srcSize (r : Line) : Nat := 2 ^ ctl r 6 2
def dstSize (r : Line) : Nat := if ctl r 10 2 = 0 then srcSize r else typeSize (ctl r 10 2)
def extents (r : Line) : List Nat :=
  recField r 28 4 :: ((List.range 4).map (fun i => if i + 1 < ctl r 12 3 then dimWord r (i + 1) % 2 ^ 16 else 1))
/-- The elements of the walk. -/
def shapeCount (r : Line) : Nat := (extents r).foldl (fun a b => a * b) 1
/-- The record keeps R360-R362, R367. -/
def shapeOk (r : Line) : Bool :=
  let nd := ctl r 12 3
  let st := ctl r 8 2
  let dt := ctl r 10 2
  decide (1 ≤ nd) && decide (nd ≤ 5) && (List.range 4).all (fun i => decide (i + 1 < nd) || dimWord r (i + 1) = 0)
    && ((st = 0 && dt = 0) || (st != 0 && dt != 0 && st != dt && srcSize r = typeSize st))
    && !(ctlBit r 1 && ctlBit r 2) && (hasAux r || recField r 16 8 = 0)
/-- Some payload or completion address is global (R338). -/
def shapeGlobal (r : Line) : Bool := !shSnear r || !shDnear r || (hasAux r && !shAnear r)

def copyType : Nat → Fmt
  | 1 => fmtF32
  | 2 => fmtBF16
  | _ => fmtF16
/-- Convert of one element (R362). -/
def convertElem (r : Line) (bs : List Byte) : List Byte :=
  if ctl r 8 2 = 0 then bs
  else bytesLE (fpConvert (copyType (ctl r 10 2)) (copyType (ctl r 8 2)) .rne (ofBytesLE bs) 0).1 (dstSize r)

/-- The walk's coordinates of element e, dimension 0 first. -/
def walkCoords (exts : List Nat) (e : Nat) : List Nat :=
  match exts with
  | [] => []
  | x :: r => e % x :: walkCoords r (e / x)
/-- The source and destination address of element e (R361). -/
def elemAddrs (c : CopyEnt) (r : Line) (e : Nat) : Word × Word :=
  let cs := walkCoords (extents r) e
  let strides (lo size : Nat) : Word := (List.range 4).foldl (fun (a : Word) k =>
    a + BitVec.ofNat 64 (cs.getD (k + 1) 0) * (BitVec.ofNat 24 (dimWord r (k + 1) / 2 ^ lo)).signExtend 64) (BitVec.ofNat 64 (cs.headD 0 * size))
  (c.sb.getD (BitVec.ofNat 64 (recField r 0 8)) + strides 16 (srcSize r),
   c.db.getD (BitVec.ofNat 64 (recField r 8 8)) + strides 40 (dstSize r))

/-- The next address continues a run inside one 64-byte block. -/
def runsOn (a b : Word) (size : Nat) : Bool := b = a + BitVec.ofNat 64 size && a.toNat / 64 = (b.toNat + size - 1) / 64
/-- How many elements the beat at element e takes (R363): at least one, at most what the block holds. -/
def beatCount (c : CopyEnt) (r : Line) (e : Nat) : Nat :=
  let more (k : Nat) : Bool :=
    let x := elemAddrs c r (e + k)
    let y := elemAddrs c r (e + k + 1)
    decide (e + k + 1 < shapeCount r) && runsOn x.1 y.1 (srcSize r) && runsOn x.2 y.2 (dstSize r)
  1 + ((List.range 63).takeWhile more).length

/-! ### Translation through the cluster TLB (R363, R365, R380, R381) -/

def fillCluster (s : State) (g root : Nat) (va : Word) (e : Word) (lvl : Nat) : State :=
  let n : TlbEnt := ⟨root, va.toNat % 2 ^ 57 / 2 ^ lvlShift lvl, lvlShift lvl, e, lvl, s.now⟩
  modCluster s g (fun cl =>
    if (tlbHit cl.tlb root va).isSome then { cl with tlb := tlbTouch cl.tlb root va s.now }
    else { cl with tlb := tlbAdd cl.tlb (fun m => m.vpn % 512 = n.vpn % 512) 8 n })

/-- A peer's answer enters the cluster's peer TLB (R381, R384). -/
def fillPeer (s : State) (g root pkg frame : Nat) (entry : Word) : State :=
  modCluster s g (fun cl =>
    let n : PeerTlbEnt := ⟨root, pkg, frame, entry, [], s.now, false⟩
    let l := cl.peerTlb.filter (fun e => e.dead || !(e.root = root && e.pkg = pkg && e.frame = frame))
    if l.length < 256 then { cl with peerTlb := l ++ [n] }
    else match oldest PeerTlbEnt.lastUse l with
      | some v => { cl with peerTlb := l.map (fun e => if e = v then n else e) }
      | none => cl)

/-- A granted leaf enters the cluster's TLB, and the peer's answer the peer TLB; a refusal enters none (R381). -/
def fillFound (s : State) (g root : Nat) (va e : Word) (lvl : Nat) (export_ : Word) : State :=
  let s := fillCluster s g root va e lvl
  if entAp e != 1 then s
  else
    let fr := windowFrame e lvl va
    let s := if (peerHit (clusterAt s g) root (entPkg e) fr).isSome then s else fillPeer s g root (entPkg e) fr export_
    touchPeer s g ⟨root, va, false, false, false, false, false, false, 0⟩ e lvl

/-- What a leaf and, on an AP=01 page, the peer's export entry answer: the cycles that the peer's answer adds, and the entry. -/
def clusterSettle (s : State) (g : Nat) (x : Xl) (e : Word) (lvl : Nat) : Nat × Except TrapInfo Word :=
  match leafJudge x e lvl with
  | some ti => (0, .error ti)
  | none =>
    if entAp e != 1 then (0, .ok 0)
    else
      let fr := windowFrame e lvl x.va
      let judged (w : Word) : Except TrapInfo Word := match exportJudge x w e lvl with
        | some ti => .error ti
        | none => .ok w
      match peerHit (clusterAt s g) x.root (entPkg e) fr with
      | some pe => (0, judged pe.entry)
      | none => (2800, judged ((look fr (peerAt s (entPkg e)).exports).getD 0))

/-- A translation without a thread, through the cluster TLB: the cycles after which it is settled, and then the leaf with its
level and the peer's export entry, or the refusal. -/
def clusterXlate (s : State) (g : Nat) (x : Xl) : State × Nat × Except TrapInfo (Word × Nat × Word) :=
  let found (s : State) (d : Nat) (e : Word) (lvl : Nat) : State × Nat × Except TrapInfo (Word × Nat × Word) :=
    match clusterSettle s g x e lvl with
    | (d', .ok w) => (s, d + d', .ok (e, lvl, w))
    | (d', .error ti) => (s, d + d', .error ti)
  if !canonical x.va then (s, 0, .error (xlTrap x 0x10 2 0 0))
  else match tlbHit (clusterAt s g).tlb x.root x.va with
    | some e => found s 0 e.leaf e.level
    | none =>
      let d := walkDelay s (g / 16) x.root x.va
      let s := addWalk s (g / 16) x.root x.va d
      match walk s x.root x.va with
      | .bad r e lvl => (s, d, .error (xlTrap x 0x10 r (e.toNat % 65536) lvl))
      | .leaf e lvl => found s d e lvl

/-- A translation for a core: through its own TLB at once, through its cluster's in 12 cycles, or by a walk (R381, R441). -/
def coreXlate (s : State) (core : Nat) (x : Xl) : State × Nat × Except TrapInfo (Word × Nat × Word) :=
  let g := clusterOf core
  match (if canonical x.va then tlbHit (coreAt s core).tlb x.root x.va else none) with
  | some e => match clusterSettle s g x e.leaf e.level with
    | (d, .ok w) => (s, d, .ok (e.leaf, e.level, w))
    | (d, .error ti) => (s, d, .error ti)
  | none =>
    let hit := (tlbHit (clusterAt s g).tlb x.root x.va).isSome
    match clusterXlate s g x with
    | (s, d, r) => (s, if canonical x.va && hit then d + 12 else d, r)

/-- The place of an address by a granted leaf. -/
def foundPlace (e : Word) (lvl : Nat) (export_ va : Word) : Option Place :=
  match entAp e with
  | 0 => localPlace (leafAddr e lvl va)
  | 1 => some (.peer (entPkg e) (entFrame export_ * 65536 + va.toNat % 65536))
  | _ => some (.host (leafAddr e lvl va))
/-- The same with the place of the address. -/
def clusterPlace (s : State) (g : Nat) (x : Xl) : State × Nat × Except TrapInfo (Place × Word × Nat × Word) :=
  match clusterXlate s g x with
  | (s, d, .error ti) => (s, d, .error ti)
  | (s, d, .ok (e, lvl, w)) => match foundPlace e lvl w x.va with
    | some p => (s, d, .ok (p, e, lvl, w))
    | none => (s, d, .error (xlTrap x 0x10 3 (e.toNat % 65536) lvl))

/-- The twin of a leaf's frame (R365), where the page has one. -/
def twinLeaf (e : Word) (lvl : Nat) : Option Word :=
  let z := 2 ^ (10 * lvl)
  let f := entFrame e
  let low := if f / z % 2 = 1 then f - z else f
  if e.getLsbD 6 && entAp e = 0 && low % (2 * z) = 0 then some (e ^^^ BitVec.ofNat 64 (z * 65536)) else none

def copyXl (root : Nat) (va : Word) (write : Bool) : Xl := ⟨root, va, !write, write, false, false, false, true, 0⟩

def copyShadow (c : CopyEnt) : Bool := c.sh || (c.shape.map (fun r => ctlBit r 0)).getD false

/-- The page of an address that the copy has looked up. -/
def pageOf (c : CopyEnt) (va : Word) (write : Bool) : Option CopyPage :=
  c.pages.find? (fun p => !p.fillOnly && p.write = write && va.toNat % 2 ^ 57 / 2 ^ p.bits = p.vpn)
/-- The place of an address on a page: on its twin for the destination of a shadow copy. -/
def onPage (p : CopyPage) (va : Word) : Option Place :=
  if p.refused.isSome then none
  else foundPlace (if p.twin then (twinLeaf p.leaf p.level).getD p.leaf else p.leaf) p.level p.export_ va

/-- Looks a page up, once per copy; peer pages go by window frame. -/
def lookPage (s : State) (g : Nat) (c : CopyEnt) (va : Word) (write : Bool) : State × CopyEnt :=
  match pageOf c va write with
  | some _ => (s, c)
  | none =>
    let twin := write && copyShadow c
    let page (bits d : Nat) (e : Word) (lvl : Nat) (w : Word) (bad : Option (BitVec 8)) : CopyPage :=
      ⟨va.toNat % 2 ^ 57 / 2 ^ bits, bits, write, twin, s.now + d, e, lvl, w, bad, false, false⟩
    match clusterXlate s g (copyXl c.root va write) with
    | (s, d, .error ti) => (s, { c with pages := c.pages ++ [page 16 d 0 0 0 (some ti.cause)] })
    | (s, d, .ok (e, lvl, w)) =>
      let bits := if entAp e = 1 then 16 else lvlShift lvl
      (s, { c with pages := c.pages ++ [page bits d e lvl w (if twin && (twinLeaf e lvl).isNone then some 0x11 else none)] })
/-- The pages of a beat's bytes are looked up: their state, and the cycle at which the last of them is settled. -/
def lookPages (s : State) (g : Nat) (c : CopyEnt) (write : Bool) (as : List Word) : State × CopyEnt × Nat :=
  let (s, c) := as.foldl (fun (acc : State × CopyEnt) a => lookPage acc.1 g acc.2 a write) (s, c)
  (s, c, as.foldl (fun n a => max n (((pageOf c a write).map CopyPage.at_).getD 0)) 0)
/-- The first byte of a beat on a page that is refused. -/
def pageFault (c : CopyEnt) (write : Bool) (as : List Word) : Option (BitVec 8 × Word) :=
  as.findSome? (fun a => match pageOf c a write with
    | none => some (0x10, a)
    | some p => match p.refused, onPage p a with
      | some k, _ => some (k, a)
      | none, none => some (0x10, a)
      | none, some _ => none)
def modCopy (s : State) (g : Nat) (tok : BitVec 16) (f : CopyEnt → CopyEnt) : State :=
  modCluster s g (fun cl => { cl with copies := cl.copies.map (fun c => if c.token = tok then f c else c) })
def copyOf (s : State) (g : Nat) (tok : BitVec 16) : Option CopyEnt := (clusterAt s g).copies.find? (fun c => c.token = tok)
/-- The translation of a copy's record or completion word, which enters the TLBs when it is settled. -/
def fillLater (s : State) (g : Nat) (c : CopyEnt) (va : Word) (d : Nat) (e : Word) (lvl : Nat) (w : Word) : State :=
  if d = 0 then fillFound s g c.root va e lvl w
  else
    let p : CopyPage := ⟨va.toNat % 2 ^ 57 / 2 ^ 16, 16, false, false, s.now + d, e, lvl, w, none, false, true⟩
    modCopy s g c.token (fun c => { c with pages := c.pages ++ [p] })
/-- Settled translations enter the TLBs. -/
def fillPages (s : State) (g : Nat) (c : CopyEnt) : State :=
  let due (p : CopyPage) : Bool := !p.filled && p.refused.isNone && decide (p.at_ ≤ s.now)
  if c.pages.any due then
    modCopy ((c.pages.filter due).foldl (fun s p => fillFound s g c.root (BitVec.ofNat 64 (p.vpn * 2 ^ p.bits)) p.leaf p.level p.export_) s)
      g c.token (fun c => { c with pages := c.pages.map (fun p => if due p then { p with filled := true } else p) })
  else s

/-- The byte addresses of a run of elements. -/
def elemBytes (c : CopyEnt) (r : Line) (first count : Nat) (dst : Bool) : List Word :=
  (List.range count).flatMap (fun i =>
    let a := elemAddrs c r (first + i)
    (List.range (if dst then dstSize r else srcSize r)).map (fun k => (if dst then a.2 else a.1) + BitVec.ofNat 64 k))
/-- The places of a beat's bytes as ranges. -/
def rangesOf (ps : List Place) : List (Place × Nat) :=
  ps.foldl (fun (l : List (Place × Nat)) p => match l.getLast? with
    | some (q, n) => if placeAdd q n = p then l.dropLast ++ [(q, n + 1)] else l ++ [(p, 1)]
    | none => [(p, 1)]) []
/-- The places of byte ranges, byte by byte. -/
def eachByte (rs : List (Place × Nat)) : List Place := rs.flatMap (fun x => (List.range x.2).map (placeAdd x.1))

/-- The refusal of an aperture byte: a slot that no SCRATCH or WATCH bank holds (R258), or the unmapped part of a WATCH slot (R254). -/
def apertureFault (s : State) (p : Place) : Option (BitVec 8) :=
  match p with
  | .near g off => (match liveBank (clusterAt s g) (off / 2 ^ 17) with
    | none => some 0x11
    | some b =>
      if (bankAt (clusterAt s g) b).mode = .fifo then some 0x11
      else if (bankAt (clusterAt s g) b).mode = .watch && decide (0x18000 ≤ off % 2 ^ 17) then some 0x14 else none)
  | _ => none
/-- The refusal of a near byte (R250), or of a shadow byte whose slot has no twin (R365). -/
def nearCopyFault (s : State) (g : Nat) (shadow : Bool) (a : Word) : Option (BitVec 8) :=
  if (nearFault (clusterAt s g) a.toNat .copy).isSome || (shadow && (twinBank (clusterAt s g) (a.toNat / 2 ^ 17)).isNone) then some 0x14 else none
/-- The first byte of one side of a beat that its bank refuses. -/
def bytesFault (s : State) (g : Nat) (near shadow : Bool) (xs : List (Word × Place)) : Option (BitVec 8 × Word) :=
  xs.findSome? (fun x => (if near then nearCopyFault s g shadow x.1 else apertureFault s x.2).map (fun k => (k, x.1)))

/-! ### Issue (R337, R338) -/

def copyQueueFull (s : State) (g : Nat) : Bool := decide (64 ≤ ((clusterAt s g).copies.filter (fun c => c.engine.isNone)).length)

/-- Issues a token and enqueues its copy. -/
def addCopy (s : State) (g : Nat) (t : TId) (op root : Nat) (launch : BitVec 16) (addr : Word) (near sh : Bool) (sb db : Option Word)
    (before : List Nat) : State × BitVec 16 :=
  let n := (clusterAt s g).nextToken
  let tok := BitVec.ofNat 16 n
  let c : CopyEnt :=
    { token := tok, t := t, op := op, root := root, launch := launch, addr := addr, near := near, shape := none
      arrived := false, back := false, sb := sb, db := db, sh := sh, before := before, ready := 0, engine := none, cycle := 0, beat := 0, elem := 0
      reads := [], waiting := [], sent := [], pages := [], aux := none, wrote := [], lastAck := 0, endAt := 0, cancelled := false, ending := false
      fault := none, bytes := [], digest := 0 }
  (modCluster (setToken s g ⟨tok, 0, none, 0⟩) g (fun cl =>
    { cl with nextToken := if n = 65535 then 1 else n + 1, copies := cl.copies ++ [c] }), tok)

/-- What the engine needs before its first read, once the record is there and the thread's earlier accesses are complete: with a
global payload the cluster's dirty lines go home (R338). -/
def prepareCopy (s : State) (g : Nat) (c : CopyEnt) : State :=
  if !c.arrived || c.back || !allDone s c.before then s
  else
    let global := c.fault.isNone && (c.shape.map (fun r => shapeOk r && shapeGlobal r)).getD false
    let (s, d) := if global then writeBackAll s g else (s, 0)
    modCopy s g c.token (fun c => { c with back := true, ready := s.now + d, cycle := if c.engine.isSome then max c.cycle (s.now + d + 9) else c.cycle })

/-- COPY_RECORD_ARRIVAL: the record is there (R363). -/
def shapeArrival (s : State) (g : Nat) (tok : BitVec 16) : State :=
  match copyOf s g tok with
  | none => s
  | some c => if c.arrived then s else prepareCopy (modCopy s g tok (fun c => { c with arrived := true })) g { c with arrived := true }
/-- The record arrives after `d` cycles; with a refusal the token faults when its entry is in an engine (KIND 0). -/
def recordIn (s : State) (g : Nat) (tok : BitVec 16) (d : Nat) (r : Except (BitVec 8 × Word) Line) : State :=
  let s := modCopy s g tok (fun c => match r with
    | .ok l => { c with shape := some l }
    | .error (k, a) => { c with fault := some ⟨0, 0, k, a⟩ })
  if d = 0 then shapeArrival s g tok else later s d (.copyRecordArrival g tok.toNat)

/-- The bytes that a store writes, with their place. -/
def storedBytes (q : MemReq) : List (Place × List Byte) :=
  match q.op with
  | .store n v => [(q.place, leBytes n v)]
  | .stff v | .stfe v => [(q.place, leBytes 8 v)]
  | .vstore _ d => q.lanes.map (fun x => (x.place, bytesLE (laneOf d x.n).toNat 4))
  | _ => []
/-- The bytes of a place with the thread's own earlier stores that are still on their way (R338). -/
def withStores (s : State) (before : List Nat) (p : Place) (bs : List Byte) : List Byte :=
  let st := ((s.ops.filter (fun o => o.id ∈ before)).filterMap Op.q).flatMap storedBytes
  st.foldl (fun bs x => (x.2.zipIdx).foldl (fun bs y =>
    match (List.range 64).find? (fun i => placeAdd p i = placeAdd x.1 y.2) with
    | some i => bs.set i y.1
    | none => bs) bs) bs
/-- An earlier atomic of the thread on the record's line is still on its way. -/
def recordBlocked (s : State) (c : CopyEnt) : Bool :=
  s.ops.any (fun o => o.id ∈ c.before && (match o.q with
    | some q => opHome q.op && storedBytes q = [] && q.near = c.near && q.va.toNat / 64 = c.addr.toNat / 64
    | none => false))

/-- Reads a copy's record at the CPY's issue (R338): the bytes as they stand in the thread's program order. A near record arrives
when port 16 of its bank serves the read, a global one in the time of R62. -/
def readRecord (s : State) (g : Nat) (c : CopyEnt) : State :=
  let tok := c.token
  if c.near then
    match rangesFault s g [(c.addr.toNat, 64)] 0x380, placeBank s (.near g c.addr.toNat) with
    | none, some (_, b) =>
      let p : Place := .near g c.addr.toNat
      let s := modCopy s g tok (fun c' => { c' with shape := some (bytesLine (withStores s c.before p (placeRead s p 64))) })
      portPut s g ⟨b, 16, some s.now, s.now, .copyRecord tok⟩
    | ti, _ => recordIn s g tok 0 (.error ((ti.map TrapInfo.cause).getD 0x14, c.addr))
  else match clusterPlace s g { copyXl c.root c.addr false with opc := 0x380 } with
    | (s, d, .error ti) => recordIn s g tok d (.error (ti.cause, c.addr))
    | (s, d, .ok (p, e, lvl, w)) =>
      let s := fillLater s g c c.addr d e lvl w
      if cached s g p (e.getLsbD 4) then
        let (s, hit) := touchLine s g p
        recordIn s g tok (d + (if hit then 64 else farTime g p false)) (.ok (bytesLine (withStores s c.before p (cacheBytes s g p 64))))
      else match apertureFault s p with
        | some k => recordIn s g tok (d + farTime g p false) (.error (k, c.addr))
        | none =>
          if placeErr s p 64 then recordIn s g tok (d + farTime g p false) (.error (0x70, c.addr))
          else recordIn s g tok (d + farTime g p false) (.ok (bytesLine (withStores s c.before p (placeRead s p 64))))
/-- The bank serves the read of a near record, checked again (R250). -/
def serveRecord (s : State) (g : Nat) (tok : BitVec 16) : State :=
  match copyOf s g tok with
  | none => s
  | some c => match rangesFault s g [(c.addr.toNat, 64)] 0x380 with
    | some ti => recordIn s g tok 0 (.error (ti.cause, c.addr))
    | none => if placeErr s (.near g c.addr.toNat) 64 then recordIn s g tok 0 (.error (0x70, c.addr)) else shapeArrival s g tok

/-- CPY's record read is made at issue, in program order. -/
def startRecord (s : State) (g : Nat) (tok : BitVec 16) : State :=
  match copyOf s g tok with
  | none => s
  | some c =>
    if c.arrived || c.shape.isSome || c.fault.isSome then shapeArrival s g tok
    else if c.addr.toNat % 64 != 0 then recordIn s g tok 0 (.error (0x13, c.addr))
    else if recordBlocked s c then later s 1 (.copyRecordArrival g tok.toNat)
    else readRecord s g c

def execCpy (p : Pred) (near sh : Bool) (d a : Reg) (b c : Option Reg) (s : State) : Out :=
  let i := Instr.cpy p near sh d a b c
  guarded p s (fun th => operands s th i (a :: (b.toList ++ c.toList)) (some d) (fun s' vs =>
    let g := clusterOf s.cur.core
    if copyQueueFull s g then park (keeping s' vs) s.cur .copyQueue (some i)
    else
      let sb := b.map (fun _ => vs.getD 1 0)
      let db := c.map (fun _ => vs.getD (1 + boolNat b.isSome) 0)
      let before := earlier s th.uid
      let (s', id) := addOp s' s.cur .cp none
      let (s', tok) := addCopy s' g s.cur id (rootOf s th) th.launch (vs.getD 0 0) near sh sb db before
      let s' := writeD s' s.cur d (tok.setWidth 64)
      advance (startRecord s' g tok) s.cur))

def execCopyRecordArrival (cluster : Nat) (token : Nat) (s : State) : Out := .next (startRecord s cluster (BitVec.ofNat 16 token))

/-! ### The engines (R363) -/

def engineBusy (s : State) (g e : Nat) : Bool := (clusterAt s g).copies.any (fun c => c.engine = some e)
/-- A free engine is free from the cycle after its last copy left it. -/
def copyEngineFree (s : State) (g e : Nat) : Bool := !engineBusy s g e && decide (((look e (clusterAt s g).engFree).getD 0) ≤ s.now)
/-- The head of the queue may start (R338); its record may still be on its way. -/
def copyReady (s : State) (c : CopyEnt) : Bool := allDone s c.before && (!c.arrived || (c.back && decide (c.ready ≤ s.now)))

/-- COPY_ENGINE_TAKE: a free engine takes the head of the queue; its first read waits for the record, and comes 9 cycles on. -/
def takeCopy (s : State) (g e : Nat) : State :=
  if !copyEngineFree s g e then s
  else match (clusterAt s g).copies.find? (fun c => c.engine.isNone) with
    | none => s
    | some c =>
      if copyReady s c then modCopy s g c.token (fun c => { c with engine := some e, cycle := s.now + 9 }) else s
def execCopyEngineTake (cluster engine : Nat) (s : State) : Out := .next (takeCopy s cluster engine)

/-- The end of a copy whose writes have all been acknowledged, but for its digest: the completion word or tag adds its time. -/
def endCycle (s : State) (g : Nat) (c : CopyEnt) : Nat :=
  let ack := max s.now c.lastAck
  if c.cancelled || c.fault.isSome || !((c.shape.map hasAux).getD false) then ack
  else match c.aux with
    | some (t, some p, _) => max ack t + (match p with
      | .host _ | .peer _ _ => farTime g p false
      | _ => 128)
    | some (t, none, _) => max ack t
    | none => ack + 128
/-- Lays down the end of a copy, whose digest joins the die's SHA-256 engine first (R339, R352). -/
def endLater (s : State) (g : Nat) (c : CopyEnt) : State :=
  let at_ := endCycle s g c
  let s := modCopy s g c.token (fun c => { c with ending := true, endAt := at_ })
  if c.cancelled then later s (at_ - s.now) (.copyComplete g c.token.toNat)
  else if c.fault.isSome then later s (at_ - s.now) (.copyFault g c.token.toNat)
  else if (c.shape.map (fun r => ctlBit r 3)).getD false then
    let payload := (sortBy Prod.fst c.bytes).flatMap Prod.snd
    shaJoin (modCopy s g c.token (fun c => { c with digest := digest64 payload, bytes := [] })) g payload.length (.copy g c.token)
  else later s (at_ - s.now) (.copyComplete g c.token.toNat)
/-- A copy ends when nothing more of it is on its way: every issued read has returned, and every write has been served. -/
def tryEnd (s : State) (g : Nat) (tok : BitVec 16) : State :=
  match copyOf s g tok with
  | none => s
  | some c =>
    if c.ending || c.sent != [] then s
    else if c.cancelled then endLater s g c
    else if c.reads = [] && (c.fault.isSome || (c.arrived && (c.shape.map (fun r => decide (c.elem = shapeCount r))).getD false && s.now + 9 ≥ c.cycle && c.beat != 0))
    then endLater s g c else s

/-- The address of a copy's completion word or tag. -/
def auxAddr (r : Line) : Word := BitVec.ofNat 64 (recField r 16 8)
/-- The completion word's or tag's address is translated from the start, beside the payload: the tag's swap is a home operation, the
word's write a synchronising store (R270, R371). -/
def lookAux (s : State) (g : Nat) (c : CopyEnt) (r : Line) : State :=
  let va : Word := BitVec.ofNat 64 (recField r 16 8)
  if !hasAux r || shAnear r || c.aux.isSome then s
  else match clusterPlace s g { copyXl c.root va true with read := ctlBit r 2, home := ctlBit r 2, data := false } with
    | (s, d, .error ti) => modCopy s g c.token (fun c => { c with aux := some (s.now + d, none, ti.cause) })
    | (s, d, .ok (p, e, lvl, w)) =>
      let s := fillLater s g c va d e lvl w
      modCopy s g c.token (fun c => { c with aux := some (s.now + d, some p, 0) })

/-- A fault found at a beat (R339): no further read, and no write from that beat on; the beats before it go on. -/
def faultAt (s : State) (g : Nat) (c : CopyEnt) (f : CopyFlt) : State :=
  let better := match c.fault with
    | some o => decide (f.beat < o.beat)
    | none => true
  let c' := if better then { c with
      fault := some f
      reads := c.reads.filter (fun b => !(b.n ∈ c.waiting && decide (f.beat ≤ b.n)))
      waiting := c.waiting.filter (fun n => decide (n < f.beat)) } else c
  tryEnd (modCopy s g c.token (fun _ => c')) g c.token

/-- The bank accesses of one side of a beat: near ones at the engine's own port, those of another cluster's scratchpad at its
message port half a round trip later. -/
def beatPorts (s : State) (g : Nat) (c : CopyEnt) (near shadow : Bool) (rs : List (Place × Nat)) (act : PortAct) : List (Nat × PortReq) :=
  let banks := (rs.flatMap (fun x => match x.1 with
    | .near g' off => (cutRange (off, x.2)).filterMap (fun y =>
        if shadow then (twinBank (clusterAt s g') (y.1 / 2 ^ 17)).map (fun b => (g', b)) else placeBank s (.near g' y.1))
    | _ => [])).eraseDups
  banks.map (fun x =>
    let wait := if near then 0 else farTime g (.near x.1 0) false / 2
    (x.1, ⟨x.2, if near then 16 + c.engine.getD 0 else 18, some (s.now + wait), s.now, act⟩))
def putAll (s : State) (rs : List (Nat × PortReq)) : State := rs.foldl (fun s r => portPut s r.1 r.2) s
/-- The cycles from a side's bank access, or from its issue for another home, to its data or acknowledgement. -/
def restTime (g : Nat) (near : Bool) (rs : List (Place × Nat)) : Nat :=
  if near then 20 else rs.foldl (fun n x => max n (match x.1 with
    | .near _ _ => farTime g x.1 false - farTime g x.1 false / 2
    | p => farTime g p false)) 0

/-- A beat's read is performed: its bytes as they stand, or what refuses them; the data arrives in its time (R363). -/
def sampleBeat (s : State) (g : Nat) (c : CopyEnt) (r : Line) (b : CopyBeat) : State :=
  let va := elemBytes c r b.first b.count false
  let ps := eachByte b.src
  let bad := match bytesFault s g (shSnear r) false (va.zip ps) with
    | some x => some x
    | none => ((va.zip ps).find? (fun x => placeErr s x.2 1)).map (fun x => (0x70, x.1))
  let bs := b.src.flatMap (fun x => placeRead s x.1 x.2)
  let data := (List.range b.count).flatMap (fun i => convertElem r ((bs.drop (i * srcSize r)).take (srcSize r)))
  let s := modCopy s g c.token (fun c => { c with reads := c.reads.map (fun x => if x.n = b.n then { x with data := data, bad := bad, left := 0 } else x) })
  later s (restTime g (shSnear r) b.src) (.copyBeatWrite g c.token.toNat b.n)
/-- A bank has served one read of a beat. -/
def serveRead (s : State) (g : Nat) (tok : BitVec 16) (n : Nat) : State :=
  match copyOf s g tok with
  | none => s
  | some c => match c.reads.find? (fun b => b.n = n), c.shape with
    | some b, some r =>
      if 1 < b.left then modCopy s g tok (fun c => { c with reads := c.reads.map (fun x => if x.n = n then { x with left := x.left - 1 } else x) })
      else sampleBeat s g c r b
    | _, _ => s

/-- The copies of a cluster look the pages of a root again that `f` names by their first and last-but-one byte, also for a completion
word or tag still to come: their translations have been dropped. -/
def relookCopies (s : State) (g root : Nat) (f : Nat → Nat → Bool) : State :=
  let s := modCluster s g (fun cl => { cl with copies := cl.copies.map (fun c =>
    if c.root = root then { c with pages := c.pages.filter (fun p => !f (p.vpn * 2 ^ p.bits) (2 ^ p.bits)) } else c) })
  ((clusterAt s g).copies.filter (fun c => c.root = root && !c.ending && c.aux.isSome)).foldl (fun s c => match c.shape with
    | some r =>
      if f ((auxAddr r).toNat % 2 ^ 57) 1 then lookAux (modCopy s g c.token (fun c => { c with aux := none })) g { c with aux := none } r else s
    | none => s) s

/-- Issues the read of the next beat, once its source pages are settled and no PUBLISH.G holds its pages (R346, R363). -/
def issueRead (s : State) (g : Nat) (c : CopyEnt) (r : Line) : State :=
  let count := beatCount c r c.elem
  let src := elemBytes c r c.elem count false
  let dst := elemBytes c r c.elem count true
  let held := (!shSnear r && src.any (pageHeld s c.root)) || (!shDnear r && dst.any (pageHeld s c.root))
  if held then modCopy s g c.token (fun _ => { c with cycle := s.now + 1 })
  else
    let (s, c, at_) := if shSnear r then (s, c, 0) else lookPages s g c false src
    if s.now < at_ then modCopy s g c.token (fun _ => { c with cycle := at_ })
    else match (if shSnear r then bytesFault s g true false (src.map (fun a => (a, .near g a.toNat))) else pageFault c false src) with
      | some (k, a) => faultAt s g c ⟨c.beat, 2, k, a⟩
      | none =>
        let (s, c, dstAt) := if shDnear r then (s, c, 0) else lookPages s g c true dst
        let places (near write : Bool) (as : List Word) : List (Place × Nat) :=
          rangesOf (as.filterMap (fun a => if near then some (.near g a.toNat) else (pageOf c a write).bind (fun p => onPage p a)))
        let b : CopyBeat := ⟨c.beat, c.elem, count, places (shSnear r) false src, places (shDnear r) true dst, s.now, dstAt, 0, [], none⟩
        let ports := beatPorts s g c (shSnear r) false b.src (.copyRead g c.token b.n)
        let b := { b with left := ports.length }
        let c := { c with reads := c.reads ++ [b], beat := b.n + 1, elem := b.first + b.count, cycle := s.now + 1 }
        let s := putAll (modCopy s g c.token (fun _ => c)) ports
        if ports = [] then sampleBeat s g c r b else s

/-- One copy in an engine, in one cycle: its refusals, its next read, or the end of a copy of no beats. -/
def copyCycle (s : State) (g : Nat) (c : CopyEnt) : State :=
  if c.engine.isNone || c.ending || !c.arrived || !c.back || s.now + 9 < c.cycle then s
  else if c.fault.isSome || c.cancelled then tryEnd s g c.token
  else match c.shape with
    | none => s
    | some r =>
      if !shapeOk r then faultAt s g c ⟨0, 1, 0x01, c.addr⟩
      else
        let s := if c.beat = 0 then lookAux s g c r else s
        let c := (copyOf s g c.token).getD c
        if s.now < c.cycle then s
        else if shapeCount r = 0 then endLater s g { c with lastAck := s.now }
        else if c.elem < shapeCount r then issueRead s g c r
        else s

/-- Writes bytes of the payload at one place: to the twin bank for a near shadow copy, else at its home. -/
def writeDst (s : State) (g : Nat) (twin : Bool) (p : Place) (bs : List Byte) : State :=
  match p, twin with
  | .near _ off, true => (bs.zipIdx).foldl (fun s x =>
      match twinBank (clusterAt s g) ((off + x.2) / 2 ^ 17) with
      | some b => { s with sram := memPut s.sram (sramAddr g b ((off + x.2) % 2 ^ 17)) x.1 }
      | none => s) s
  | _, _ => homeWrite (clearShadow s p bs.length) p bs
/-- The writes of a beat are performed, or its bank refuses them. -/
def performBeat (s : State) (g : Nat) (c : CopyEnt) (r : Line) (b : CopyBeat) : State :=
  let va := elemBytes c r b.first b.count true
  let twin := shDnear r && copyShadow c
  match bytesFault s g (shDnear r) twin (va.zip (eachByte b.dst)) with
  | some (k, a) => faultAt s g c ⟨b.n, 3, k, a⟩
  | none =>
    let (s, _) := b.dst.foldl (fun (acc : State × List Byte) x => (writeDst acc.1 g twin x.1 (acc.2.take x.2), acc.2.drop x.2)) (s, b.data)
    let c' (c : CopyEnt) : CopyEnt := { c with
      lastAck := max c.lastAck (s.now + restTime g (shDnear r) b.dst)
      wrote := if shDnear r then c.wrote else c.wrote ++ b.dst
      bytes := if ctlBit r 3 then c.bytes ++ [(b.n, b.data)] else c.bytes }
    tryEnd (modCopy s g c.token c') g c.token
/-- A bank has served one write of a beat. -/
def serveWrite (s : State) (g : Nat) (tok : BitVec 16) (n : Nat) : State :=
  match copyOf s g tok with
  | none => s
  | some c => match c.sent.find? (fun b => b.n = n), c.shape with
    | some b, some r =>
      if 1 < b.left then modCopy s g tok (fun c => { c with sent := c.sent.map (fun x => if x.n = n then { x with left := x.left - 1 } else x) })
      else
        let c := { c with sent := c.sent.filter (fun x => x.n != n) }
        performBeat (modCopy s g tok (fun _ => c)) g c r b
    | _, _ => s

/-- Issues the write of a beat whose data has arrived. -/
def issueWrite (s : State) (g : Nat) (c : CopyEnt) (r : Line) (b : CopyBeat) : State :=
  let c := { c with reads := c.reads.filter (fun x => x.n != b.n), waiting := c.waiting.filter (fun n => n != b.n) }
  let va := elemBytes c r b.first b.count true
  let refused := if shDnear r then bytesFault s g true (copyShadow c) (va.map (fun a => (a, .near g a.toNat))) else pageFault c true va
  match refused with
  | some (k, a) => faultAt (modCopy s g c.token (fun _ => c)) g c ⟨b.n, 3, k, a⟩
  | none =>
    let ports := beatPorts s g c (shDnear r) (shDnear r && copyShadow c) b.dst (.copyWrite g c.token b.n)
    if ports = [] then performBeat (modCopy s g c.token (fun _ => c)) g c r b
    else putAll (modCopy s g c.token (fun _ => { c with sent := c.sent ++ [{ b with left := ports.length }] })) ports
/-- The writes whose destination is settled issue, in the order in which their data arrived. -/
def issueWrites (s : State) (g : Nat) (tok : BitVec 16) : List Nat → State
  | [] => s
  | n :: rest =>
    let s := match copyOf s g tok with
      | none => s
      | some c => match c.reads.find? (fun b => b.n = n), c.shape with
        | some b, some r =>
          if n ∈ c.waiting && decide (b.dstAt ≤ s.now) then issueWrite s g c r b else s
        | _, _ => s
    issueWrites s g tok rest

/-- The engine lets go of its entry once every read has returned. -/
def dropCopy (s : State) (g : Nat) (tok : BitVec 16) : State :=
  match copyOf s g tok with
  | none => s
  | some c =>
    if c.reads != [] then s
    else modCluster s g (fun cl => { cl with
      copies := cl.copies.filter (fun c => c.token != tok)
      engFree := match c.engine with
        | some e => put e (s.now + 1) cl.engFree
        | none => cl.engFree })

/-- COPY_BEAT_WRITE: a beat's data has arrived, and its write issues (R363); a copy that has stopped before it discards it. -/
def beatArrives (s : State) (g : Nat) (tok : BitVec 16) (n : Nat) : State :=
  match copyOf s g tok with
  | none => s
  | some c => match c.reads.find? (fun b => b.n = n) with
    | none => s
    | some b =>
      let gone := { c with reads := c.reads.filter (fun x => x.n != n), waiting := c.waiting.filter (fun x => x != n) }
      if c.cancelled then
        let s := modCopy s g tok (fun _ => gone)
        if pendingTok s g tok then s else dropCopy s g tok
      else if (c.fault.map (fun f => decide (f.beat ≤ n))).getD false then tryEnd (modCopy s g tok (fun _ => gone)) g tok
      else match b.bad with
        | some (k, a) => faultAt (modCopy s g tok (fun _ => gone)) g gone ⟨n, 2, k, a⟩
        | none =>
          let again := n ∈ c.waiting
          let s := if again || b.dstAt ≤ s.now then s else later s (b.dstAt - s.now) (.copyBeatWrite g tok.toNat n)
          let w := if again then c.waiting else c.waiting ++ [n]
          issueWrites (modCopy s g tok (fun c => { c with waiting := w })) g tok w
def execCopyBeatWrite (cluster token beat : Nat) (s : State) : Out := .next (beatArrives s cluster (BitVec.ofNat 16 token) beat)

/-! ### Ends (R339, R367, R371) -/

/-- A token leaves pending and cp falls. -/
def settleToken (s : State) (g : Nat) (c : CopyEnt) (st : Nat) (fault : Option (Nat × BitVec 8 × Word)) : State :=
  endOp (dropCopy (setToken s g ⟨c.token, st, fault, if st = 1 then c.digest else 0⟩) g c.token) c.op

/-- The lines that overlap the destination leave the issuing cluster's cache; their dirty bytes outside it go home. -/
def dropDest (s : State) (g : Nat) (c : CopyEnt) : State :=
  let hit (p : Place) (i : Nat) : Bool := c.wrote.any (fun w => lineOf w.1 = p && decide (placeNum w.1 % 64 ≤ i) && decide (i < placeNum w.1 % 64 + w.2))
  let covered (l : CacheLine) : Bool := (List.range 64).any (hit l.place)
  let s := ((clusterAt s g).cache.filter covered).foldl (fun s l =>
    storeDirty s { l with dirty := (List.range 64).foldl (fun (m : BitVec 64) i => if hit l.place i then m &&& ~~~((1 : BitVec 64) <<< i) else m) l.dirty }) s
  modCluster s g (fun cl => { cl with cache := cl.cache.filter (fun l => !covered l) })

/-- The completion word or tag at its home: the state, or its fault. The tag's swap first drops the cluster's line (R220). -/
def writeAux (s : State) (g : Nat) (c : CopyEnt) (r : Line) : Except (Nat × BitVec 8 × Word) State :=
  let va : Word := BitVec.ofNat 64 (recField r 16 8)
  let kind := if ctlBit r 1 then 4 else 5
  let place : Except (BitVec 8) Place :=
    if shAnear r then (if (nearFault (clusterAt s g) va.toNat .copy).isSome then .error 0x14 else .ok (.near g va.toNat))
    else match c.aux with
      | some (_, some p, _) => (match apertureFault s p with
        | some k => .error k
        | none => .ok p)
      | some (_, none, k) => .error k
      | none => .error 0x10
  if ctlBit r 1 && va.toNat % 8 != 0 then .error (4, 0x13, va)
  else match place with
    | .error k => .error (kind, k, va)
    | .ok p =>
      if ctlBit r 1 then .ok (homeWrite (clearShadow s p 8) p (bytesLE (ctl r 16 16) 8))
      else
        let s := if shAnear r then s else writeBack s g p true
        if placeGet s p = 1 then .ok (homeWrite (clearShadow s p 1) p [2]) else .error (5, 0x01, va)

/-- COPY_COMPLETE: the end of a copy, or the settling of a cancelled one. -/
def copyEnd (s : State) (g : Nat) (tok : BitVec 16) : State :=
  match copyOf s g tok with
  | none => s
  | some c =>
    if c.cancelled then settleToken s g c 3 none
    else match c.shape with
      | none => s
      | some r =>
        let s := dropDest s g c
        if !hasAux r then settleToken s g c 1 none
        else match writeAux s g c r with
          | .ok s => settleToken s g c 1 none
          | .error f => settleToken s g c 2 (some f)
def execCopyComplete (cluster token : Nat) (s : State) : Out := .next (copyEnd s cluster (BitVec.ofNat 16 token))

/-- COPY_FAULT: the token of a copy that stopped becomes faulted. -/
def copyFaulted (s : State) (g : Nat) (tok : BitVec 16) : State :=
  match copyOf s g tok with
  | none => s
  | some c => settleToken s g c 2 (c.fault.map (fun f => (f.kind, f.cause, f.addr)))
def execCopyFault (cluster token : Nat) (s : State) : Out := .next (copyFaulted s cluster (BitVec.ofNat 16 token))

def isCopyAct : PortAct → Bool
  | .copyRecord _ | .copyRead _ _ _ | .copyWrite _ _ _ => true
  | _ => false
/-- A copy engine's access has begun on a bank (R255). -/
def copyTouches (s : State) (g b : Nat) : Bool :=
  (clusterAt s g).ports.any (fun r => r.bank = b && isCopyAct r.act && (match r.at_ with
    | some c => decide (c ≤ s.now)
    | none => false))

/-! ### The die's SHA-256 engine (R352) -/

/-- The next request of a die's engine: first in, first out, ties to the lower cluster. -/
def shaNext (s : State) (die : Nat) : Option ShaReq :=
  if ((look die s.shaFree).getD 0) ≤ s.now then
    oldest (fun r => r.joined * 128 + r.cluster) (s.shaQ.filter (fun r => r.die = die))
  else none
/-- The engine takes a request: 8 cycles a block, and the digest 40 cycles later still. -/
def shaTake (s : State) (r : ShaReq) : State :=
  let d := 40 + 8 * r.blocks
  let s := { s with shaQ := s.shaQ.erase r, shaFree := put r.die (s.now + 8 * r.blocks) s.shaFree }
  match r.who with
  | .thread uid => modUid s uid (fun th => { th with park := th.park.map (fun p => { p with why := .until (s.now + d) }) })
  | .entry core id => later s d (.engineEntryDone core id)
  | .copy g tok => match copyOf s g tok with
    | some c => later s (max d (c.endAt - s.now)) (.copyComplete g tok.toNat)
    | none => s
def shaCycle (s : State) : State :=
  (List.range 8).foldl (fun s die => match shaNext s die with
    | some r => shaTake s r
    | none => s) s

/-! ### CTEST, CWAIT, CCANCEL (R340-R342) -/

/-- A token operand: A[63:16] must be zero. -/
def tokenArg (s : State) (i : Instr) (v : Word) (k : BitVec 16 → State) : State :=
  if v.extractLsb' 16 48 != 0 then illegalNow s i 1 else k (v.setWidth 16)

def faultOf (s : State) (g : Nat) (tok : BitVec 16) : Option (Nat × BitVec 8 × Word) := (tokenEnt (clusterAt s g) tok).bind TokenEnt.fault
def ctestVal (s : State) (g : Nat) (sel : CSel) (tok : BitVec 16) : Word :=
  match sel with
  | .state => BitVec.ofNat 64 (tokenState s g tok)
  | .dg => if tokenState s g tok = 1 then ((tokenEnt (clusterAt s g) tok).map TokenEnt.digest).getD 0 else 0
  | .fi => if tokenState s g tok = 2 then ((faultOf s g tok).map (fun f => copyInfo tok f.2.1 0x381 f.1)).getD 0 else 0
  | .fa => if tokenState s g tok = 2 then ((faultOf s g tok).map (fun f => f.2.2)).getD 0 else 0
def execCtest (p : Pred) (sel : CSel) (d a : Reg) (s : State) : Out :=
  guarded p s (fun th => operands s th (.ctest p sel d a) [a] (some d) (fun s' vs =>
    tokenArg s (.ctest p sel d a) (vs.getD 0 0) (fun tok => setD s' d (ctestVal s (clusterOf s.cur.core) sel tok))))

def execCwait (p : Pred) (d a : Reg) (s : State) : Out :=
  let i := Instr.cwait p d a
  guarded p s (fun th => operands s th i [a] none (fun s' vs =>
    tokenArg s i (vs.getD 0 0) (fun tok =>
      let g := clusterOf s.cur.core
      match tokenState s g tok with
      | 0 => park (keeping s' vs) s.cur (.token tok) (some i)
      | 2 => let f := (faultOf s g tok).getD (0, 0, 0); trap s s.cur ⟨0x50, f.2.2, copyInfo tok f.2.1 0x382 f.1⟩
      | n => writeLate (keeping s' vs) s.cur th i d (BitVec.ofNat 64 n))))

/-- Every payload write of the copy has been issued: none is left before its end or its fault (R342). -/
def writesIssued (c : CopyEnt) : Bool :=
  match c.fault, c.shape with
  | some f, _ => c.reads.all (fun b => decide (f.beat ≤ b.n))
  | none, some r => c.arrived && shapeOk r && c.reads = [] && c.elem = shapeCount r && c.beat != 0
  | none, none => false
/-- The cancel reaches the queue at issue + 4. -/
def cancelNow (s : State) (i : Instr) (tok : BitVec 16) : State :=
  let g := clusterOf s.cur.core
  let answer (s : State) (st : Nat) : State :=
    modThread (park s s.cur (.until (s.now + 4)) (some i)) s.cur (fun th => { th with cont := 2, latch := some [tok.setWidth 64, BitVec.ofNat 64 st] })
  match pendingTok s g tok, copyOf s g tok with
  | true, some c =>
    let waitEnd (s : State) : State := modThread (park s s.cur (.token tok) (some i)) s.cur (fun th => { th with cont := 3 })
    if c.engine.isNone then answer (settleToken s g c 3 none) 3
    else if c.ending || c.cancelled || writesIssued c then waitEnd s
    else
      let s := modCopy s g tok (fun c => { c with cancelled := true, reads := c.reads.filter (fun b => b.n ∉ c.waiting), waiting := [] })
      waitEnd (tryEnd s g tok)
  | _, _ => answer s (tokenState s g tok)

def execCcancel (p : Pred) (d a : Reg) (s : State) : Out :=
  let i := Instr.ccancel p d a
  guarded p s (fun th => operands s th i [a] none (fun s' vs =>
    tokenArg s i (vs.getD 0 0) (fun tok =>
      match th.cont with
      | 0 => modThread (park (keeping s' vs) s.cur (.until (s.now + 4)) (some i)) s.cur (fun th => { th with cont := 1 })
      | 1 => cancelNow s i tok
      | 2 => writeLate s s.cur th i d (vs.getD 1 0)
      | _ => writeLate s s.cur th i d (BitVec.ofNat 64 (tokenState s (clusterOf s.cur.core) tok)))))

/-! ### PUBLISH (R344, R345) -/

/-- scr.einfo of trap 0x51 (R347). -/
def publishInfo (tok : BitVec 16) (reason slot : Nat) : Word := BitVec.ofNat 64 (tok.toNat * 2 ^ 48 + 0x384 * 2 ^ 18 + reason * 2 ^ 12 + slot)

/-- A publish's token: a wait while it is pending, trap 0x51 for a bad one, else `k`. -/
def publishToken (s : State) (i : Instr) (tok : BitVec 16) (k : State) : State :=
  if tok = 0 then k
  else match tokenState s (clusterOf s.cur.core) tok with
    | 0 => park s s.cur (.token tok) (some i)
    | 1 => k
    | 2 => trap s s.cur ⟨0x51, 0, publishInfo tok 0 0⟩
    | 3 => trap s s.cur ⟨0x51, 0, publishInfo tok 1 0⟩
    | _ => trap s s.cur ⟨0x51, 0, publishInfo tok 2 0⟩

/-- The first masked slot that cannot be swapped: 3 for no live bank, 4 for no twin. -/
def swapFault (cl : Cluster) (mask : Word) : Option (Nat × Nat) :=
  ((List.range 32).filter mask.getLsbD).findSome? (fun i =>
    match bankWhere cl (fun b => b.slot = i && (b.mode = .scratch || b.mode = .watch)) with
    | none => some (3, i)
    | some _ => if (twinBank cl i).isNone then some (4, i) else none)

def execPublish (p : Pred) (a b : Reg) (s : State) : Out :=
  let i := Instr.publish p a b
  guarded p s (fun th => operands s th i [a, b] none (fun s' vs =>
    if (vs.getD 0 0).extractLsb' 32 32 != 0 || (vs.getD 1 0).extractLsb' 16 48 != 0 then illegalNow s i 1
    else if th.cont = 2 then advance s s.cur
    else
      let fresh := th.release.isNone
      let first := th.release.getD s.now
      let s := modThread (keeping s' vs) s.cur (fun th => { th with release := some first })
      publishToken s i ((vs.getD 1 0).setWidth 16) (
        if earlier s th.uid != [] then park s s.cur (.opsDone (earlier s th.uid)) (some i)
        else
          let at_ := max (first + 8) (if fresh then 0 else s.now + 1)
          later (park s s.cur .event (some i)) (at_ - s.now) (.publishSwap s.cur))))

/-- Clears a bank's shadow area and entries (R256). -/
def clearTop (s : State) (g b : Nat) : State :=
  let lo := sramAddr g b 0x18000
  modCluster { s with sram := s.sram.filter (fun x => x.1 < lo || lo + 0x8000 ≤ x.1) } g (fun cl =>
    { cl with shadow := cl.shadow.filter (fun x => x.1 / 12288 != b) })

/-- The requests at two banks' ports change places with the banks, but for the shadow writes that follow the twin. -/
def swapPorts (s : State) (g b w : Nat) : State :=
  modCluster s g (fun cl => { cl with ports := cl.ports.map (fun r => if r.bank = b then { r with bank := w } else if r.bank = w then { r with bank := b } else r) })
/-- Exchanges the entries of one slot's live bank and twin. -/
def swapSlot (s : State) (g i : Nat) : State :=
  let cl := clusterAt s g
  match bankWhere cl (fun b => b.slot = i && (b.mode = .scratch || b.mode = .watch)), twinBank cl i with
  | some b, some w =>
    let old := bankAt cl b
    let s := modCluster (swapPorts s g b w) g (fun cl =>
      modBank (modBank cl b (fun x => { x with mode := .shadow, watch := 0 })) w (fun x => { x with mode := old.mode, watch := old.watch }))
    let s := if old.mode = .watch then
        later (modCluster (clearTop s g w) g (fun cl => modBank cl w (fun x => { x with held := some (s.now + 256) }))) 256 (.bankcfgComplete g w)
      else s
    pokeHome s (.bank g w)
  | _, _ => s

def publishRank (t : TId) : Nat := posOf t.core * 16 + t.slot
/-- The masked slots of a thread that waits to swap. -/
def swapMask (s : State) (t : TId) : Word := (((thread? s t).bind Thread.latch).getD []).headD 0

/-- PUBLISH_SWAP: the publish point of the near form. Of two that would swap one slot in one cycle, the lower core position and
then the lower slot goes first. -/
def publishSwap (s : State) (t : TId) : State :=
  let g := clusterOf t.core
  let mask := swapMask s t
  let rival (e : Nat × Instr) : Bool := match e.2 with
    | .publishSwap u => e.1 ≤ s.now && u != t && clusterOf u.core = g && (swapMask s u &&& mask) != 0
    | _ => false
  let first (e : Nat × Instr) : Bool := match e.2 with
    | .publishSwap u => rival e && decide (publishRank u < publishRank t)
    | _ => false
  if s.agenda.any first then later s 1 (.publishSwap t)
  else
    let late := s.agenda.filter rival
    let s := late.foldl (fun s e => later s 1 e.2) { s with agenda := s.agenda.filter (fun e => !rival e) }
    let park' (s : State) (w : Why) : State := modThread s t (fun th => { th with cont := 2, park := th.park.map (fun p => { p with why := w }) })
    match swapFault (clusterAt s g) mask with
    | some (r, i) =>
      let tok : BitVec 16 := ((((thread? s t).bind Thread.latch).getD []).getD 1 0).setWidth 16
      park' s (.trapNow ⟨0x51, BitVec.ofNat 64 (i * 2 ^ 17), publishInfo tok r i⟩)
    | none =>
      let slots := (List.range 32).filter mask.getLsbD
      let watch := slots.any (fun i => (bankWhere (clusterAt s g) (fun b => b.slot = i && (b.mode = .scratch || b.mode = .watch))).any
        (fun b => (bankAt (clusterAt s g) b).mode = .watch))
      park' (slots.foldl (fun s i => swapSlot s g i) s) (.until (s.now + (if watch then 256 else 4)))
def execPublishSwap (t : TId) (s : State) : Out := .next (publishSwap s t)

/-! ### PUBLISH.G (R346) -/

/-- The address of a leaf entry. -/
def leafEntryAddr (s : State) (root : Nat) (va : Word) : Nat → Nat → Nat
  | tbl, 0 => tbl + 8 * lvlIndex va 0
  | tbl, lvl + 1 =>
    let a := tbl + 8 * lvlIndex va (lvl + 1)
    let e := wordLE (memBytes s.hbm a 8)
    if entLevel e = 3 then leafEntryAddr s root va (entTable e) lvl else a

def canonVa (n : Nat) : Word := if 2 ^ 56 ≤ n then BitVec.ofNat 64 (n + (2 ^ 64 - 2 ^ 57)) else BitVec.ofNat 64 n

/-- The pages of a range, lowest first, with their leaves and levels; or the trap. They are translated one after the other: the cycles
until the answer is known. -/
def publishPages (s : State) (core root : Nat) (tok : BitVec 16) (hi : Nat) : Nat → Nat → Nat → State × Nat × Except TrapInfo (List (Nat × Word × Nat))
  | 0, lo, d => (s, d, if lo < hi then .error ⟨0x51, canonVa lo, publishInfo tok 6 0⟩ else .ok [])
  | fuel + 1, lo, d =>
    if hi ≤ lo then (s, d, .ok [])
    else match coreXlate s core { copyXl root (canonVa lo) false with read := false, opc := 0x384, data := false } with
      | (s, d', .error ti) => (s, d + d', .error ti)
      | (s, d', .ok (e, lvl, _)) =>
        let size := 2 ^ lvlShift lvl
        let base := lo / size * size
        if (twinLeaf e lvl).isNone then (s, d + d', .error ⟨0x51, canonVa base, publishInfo tok 5 0⟩)
        else match publishPages s core root tok hi fuel (base + size) (d + d') with
          | (s, d, .ok l) => (s, d, .ok ((base, e, lvl) :: l))
          | r => r
/-- The range of addresses that the pages cover. -/
def pagesSpan (pages : List (Nat × Word × Nat)) : Nat × Nat :=
  (((pages.head?).map Prod.fst).getD 0, ((pages.getLast?).map (fun x => x.1 + 2 ^ lvlShift x.2.2)).getD 0)
/-- An address lies on one of the pages. -/
def onPages (pages : List (Nat × Word × Nat)) (va : Nat) : Bool := pages.any (fun x => decide (x.1 ≤ va) && decide (va < x.1 + 2 ^ lvlShift x.2.2))

/-- The two frames of a page. -/
def inFrames (e : Word) (lvl : Nat) (p : Place) : Bool :=
  let size := 2 ^ lvlShift lvl
  let f (e : Word) : Nat := entFrame e * 65536
  match p with
  | .hbm a => (decide (f e ≤ a) && decide (a < f e + size)) || (match twinLeaf e lvl with
    | some e' => decide (f e' ≤ a) && decide (a < f e' + size)
    | none => false)
  | _ => false

/-- Every cluster writes back and drops its lines of both frames; the longest acknowledgement. -/
def dropFrames (s : State) (pages : List (Nat × Word × Nat)) : State × Nat :=
  let hit (l : CacheLine) : Bool := pages.any (fun x => inFrames x.2.1 x.2.2 l.place)
  s.clusters.foldl (fun acc x =>
    let ls := (clusterAt acc.1 x.1).cache.filter hit
    let s := ls.foldl storeDirty acc.1
    (modCluster s x.1 (fun cl => { cl with cache := cl.cache.filter (fun l => !hit l) }),
     ls.foldl (fun n l => if l.dirty = 0 then n else max n (backTime x.1 l)) acc.2)) (s, 0)

/-- A copy's access that has been translated to places of which `hit` holds is not complete: a beat that has been read or is written, or
the completion word of a copy that ends. -/
def copyUses (hit : Place → Bool) (c : CopyEnt) : Bool :=
  (c.reads ++ c.sent).any (fun b => b.src.any (fun y => hit y.1) || b.dst.any (fun y => hit y.1))
    || (c.ending && (match c.aux with
      | some (_, some p, _) => hit p
      | _ => false))
def copyInFlight (s : State) (hit : Place → Bool) : Bool := s.clusters.any (fun x => x.2.copies.any (copyUses hit))
/-- An access already translated to the pages is not complete. -/
def inFlightTo (s : State) (pages : List (Nat × Word × Nat)) : Bool :=
  let frames (p : Place) : Bool := pages.any (fun x => inFrames x.2.1 x.2.2 p)
  let hit (q : MemReq) : Bool := !q.near && (placesOf q).any (fun y => frames y.place)
  s.ops.any (fun o => (o.q.map hit).getD false) || copyInFlight s frames || (allThreads s).any (fun x => match x.2.park.map Park.why with
    | some (.far q) => hit q
    | _ => false)

/-- The range that PUBLISH.G names, in the 57-bit space. -/
def publishRange (va len : Word) : Nat × Nat := (va.toNat % 2 ^ 57, min (2 ^ 57) (va.toNat % 2 ^ 57 + len.toNat))

/-- PUBLISH.G's release: the cluster's dirty lines go home, and the thread waits until st = 0. -/
def publishRelease (s : State) (i : Instr) : State :=
  let (s, c) := releaseLines s (clusterOf s.cur.core) .sys
  modThread (park s s.cur .drain (some i)) s.cur (fun th => { th with cont := 2, release := some c })
/-- The pages are translated: their leaves enter the TLBs, and the release begins. -/
def publishFound (s : State) (i : Instr) (root : Nat) (pages : List (Nat × Word × Nat)) : State :=
  publishRelease (pages.foldl (fun s x => fillTlb s s.cur.core root (canonVa x.1) x.2.1 x.2.2) s) i

/-- PUBLISH.G. The parts: 1 the translations are known (R441), 2 the release, 3 the publish point is over; the event that waits for it
holds the thread in part 4 from the swap on. -/
def execPublishG (p : Pred) (a b c : Reg) (s : State) : Out :=
  let i := Instr.publishG p a b c
  guarded p s (fun th => operands s th i [a, b, c] none (fun s' vs =>
    let s0 := keeping s' vs
    let root := rootOf s th
    let (lo, hi) := publishRange (vs.getD 0 0) (vs.getD 1 0)
    let tok : BitVec 16 := (vs.getD 2 0).setWidth 16
    if (vs.getD 2 0).extractLsb' 16 48 != 0 then illegalNow s i 1
    else match th.cont with
      | 0 => publishToken s0 i tok (match publishPages s0 s.cur.core root tok hi 1024 lo 0 with
          | (s, 0, .error ti) => trap s s.cur ti
          | (s, 0, .ok pages) => publishFound s i root pages
          | (s, d, _) => modThread (park s s.cur (.until (s.now + d)) (some i)) s.cur (fun th => { th with cont := 1 }))
      | 1 => (match publishPages s0 s.cur.core root tok hi 1024 lo 0 with
          | (_, _, .error ti) => trap s0 s.cur ti
          | (_, _, .ok pages) => publishFound s0 i root pages)
      | 2 =>
        let again (s : State) (c : Nat) : State := modThread (park s s.cur .drain (some i)) s.cur (fun th => { th with release := some c })
        if th.st != 0 || s.now < th.release.getD 0 then again s0 (th.release.getD 0)
        else
          let (s, c) := releaseLines s0 (clusterOf s.cur.core) .sys
          if s.now < c then again s c
          else if hi = lo then advance s s.cur
          else match publishPages s s.cur.core root tok hi 1024 lo 0 with
            | (_, _, .error ti) => trap s s.cur ti
            | (_, _, .ok pages) =>
              let (from_, to_) := pagesSpan pages
              let (s, d) := dropFrames { s with pageHolds := s.pageHolds ++ [⟨th.uid, root, from_, to_⟩] } pages
              later (park s s.cur .event (some i)) (max (400 + 16 * pages.length) d) (.publishPoint s.cur)
      | _ => advance s0 s.cur))

/-- Drops a root's translations of the pages from every TLB of the package, and from its copy engines. -/
def dropTlbs (s : State) (root : Nat) (pages : List (Nat × Word × Nat)) : State :=
  let keep (e : TlbEnt) : Bool := !(e.root = root && pages.any (fun x => e.vpn * 2 ^ e.bits = x.1))
  let s : State := { s with
    cores := s.cores.map (fun x => (x.1, { x.2 with tlb := x.2.tlb.filter keep }))
    clusters := s.clusters.map (fun x => (x.1, { x.2 with tlb := x.2.tlb.filter keep })) }
  (s.clusters.map Prod.fst).foldl (fun s g => relookCopies s g root (fun lo _ => onPages pages lo)) s
/-- A peer's holder of an exported frame of the pages. -/
def holdsFrame (s : State) (pages : List (Nat × Word × Nat)) (h : Holder) : Bool :=
  pages.any (fun x => inFrames x.2.1 x.2.2 (.hbm (entFrame (exportEntry s h.frame) * 65536)))

/-- The held accesses are released, and the publisher goes on. -/
def publishEnd (s : State) (t : TId) (uid : Nat) : State :=
  modThread { s with pageHolds := s.pageHolds.filter (fun h => h.uid != uid) } t
    (fun th => { th with cont := 3, park := th.park.map (fun p => { p with why := .until s.now }) })
/-- The frames of the pages are swapped, their translations dropped, and the peers' holders told. -/
def swapFrames (s : State) (root : Nat) (pages : List (Nat × Word × Nat)) : State :=
  let (s, _) := dropFrames s pages
  let s := pages.foldl (fun s x =>
    { s with hbm := memPutBytes s.hbm (leafEntryAddr s root (canonVa x.1) root 3) (leBytes 8 ((twinLeaf x.2.1 x.2.2).getD x.2.1)) }) s
  sendInvals (dropTlbs s root pages) (holdsFrame s pages)
/-- PUBLISH_POINT: once no access to the held pages is in flight their frames are swapped; once the peers' acknowledgements are in, the
holds are released. -/
def publishPoint (s : State) (t : TId) : State :=
  match thread? s t with
  | none => s
  | some th =>
    let root := rootOf s th
    let vs := th.latch.getD []
    let (lo, hi) := publishRange (vs.getD 0 0) (vs.getD 1 0)
    match (publishPages s t.core root 0 hi 1024 lo 0).2.2 with
    | .error _ => publishEnd s t th.uid
    | .ok pages =>
      let swapped := th.cont = 4
      if !swapped && inFlightTo s pages then later s 1 (.publishPoint t)
      else
        let s := if swapped then s else modThread (swapFrames s root pages) t (fun th => { th with cont := 4 })
        if s.holders.any (holdsFrame s pages) then later s 1 (.publishPoint t) else publishEnd s t th.uid
def execPublishPoint (t : TId) (s : State) : Out := .next (publishPoint s t)

end Sys2Proof.Machine
end

