-- ==== Sys2Proof/Machine/Sys.lean ====
section
/-! DEFINITION. Status and control registers, TLBINV, the window's spill and fill, and the digest and reduction instructions
(R91, R92, R100-R108, R348-R353). -/
namespace Sys2Proof.Machine
open Sys2Proof

/-! ### SRD and SWR (R100-R105) -/

/-- scr.cnt (R105). -/
def cntWord (th : Thread) : Word := BitVec.ofNat 64 (th.ld % 64 + th.st % 64 * 2 ^ 6 + th.cp % 64 * 2 ^ 12 + th.tl % 64 * 2 ^ 18)
def scrRead (s : State) (t : TId) (th : Thread) (r : ScrName) : Word :=
  match r with
  | .epc => th.scr.epc | .ecause => th.scr.ecause | .eaddr => th.scr.eaddr | .einfo => th.scr.einfo
  | .tvec => th.scr.tvec | .save => th.scr.save | .fflags => th.scr.fflags | .fctl => th.scr.fctl
  | .waitlim => th.scr.waitlim | .wsp => th.scr.wsp | .dqspill => (coreAt s t.core).dqspill
  | .seed => th.scr.seed | .step => th.scr.step | .watch => th.scr.watch | .ckpt => th.scr.ckpt
  | .cnt => cntWord th | .cycle => BitVec.ofNat 64 s.now | .turns => BitVec.ofNat 64 th.turns

/-- The value keeps every reserved field zero, and an RW field holds no reserved value. -/
def scrWriteOk (r : ScrName) (v : Word) : Bool :=
  match r with
  | .ecause => decide (v.toNat < 2 ^ 9)
  | .fflags => decide (v.toNat < 2 ^ 5)
  | .fctl => decide (v.toNat < 2 ^ 10) && decide ((v.extractLsb' 0 3).toNat ≤ 4)
  | .waitlim | .step => decide (v.toNat < 2 ^ 32)
  | _ => true
/-- The register file after a write; scr.ecause.IN is RO, and registers all of whose fields are RO keep their value. -/
def scrWrite (f : ScrFile) (r : ScrName) (v : Word) : ScrFile :=
  match r with
  | .epc => { f with epc := v } | .ecause => { f with ecause := (f.ecause &&& 0x100) ||| (v &&& 0xFF) }
  | .eaddr => { f with eaddr := v } | .einfo => { f with einfo := v } | .tvec => { f with tvec := v }
  | .save => { f with save := v } | .fflags => { f with fflags := v } | .fctl => { f with fctl := v }
  | .waitlim => { f with waitlim := v } | .wsp => { f with wsp := v } | .seed => { f with seed := v }
  | .step => { f with step := v }
  | _ => f

/-- SRD reads at its issue, also where its result waits for room in a channel (R238). -/
def execSrd (p : Pred) (d : Reg) (r : ScrName) (s : State) : Out :=
  let i := Instr.srd p d r
  guarded p s (fun th =>
    match th.latch with
    | some vs => writeLate s s.cur th i d (vs.getD 0 0)
    | none =>
      let v := scrRead s s.cur th r
      match opsFault s th (opOf i) [] (some d), chBlocked s s.cur th [] (some d) with
      | some ti, _ => trap s s.cur ti
      | none, some why => park (keeping s [v]) s.cur why (some i)
      | none, none => setD s d v)
def execSwr (p : Pred) (r : ScrName) (a : Reg) (s : State) : Out :=
  guarded p s (fun th => operands s th (.swr p r a) [a] none (fun s' vs =>
    let v := vs.getD 0 0
    if scrWriteOk r v then advance (modThread s' s.cur (fun th => { th with scr := scrWrite th.scr r v })) s.cur
    else illegalNow s (.swr p r a) 1))

/-! ### TLBINV (R106-R108) -/

def tlbScope : TScope → Scope
  | .core => .core
  | .cluster => .cl
  | .die => .die
  | .pkg => .pkg
def tlbTime : TScope → Nat
  | .core => 16
  | .cluster => 40
  | .die => 120
  | .pkg => 400
/-- The core c lies in the scope of an instruction of core `me`. -/
def inScope (sc : TScope) (me c : Nat) : Bool :=
  match sc with
  | .core => c = me
  | .cluster => clusterOf c = clusterOf me
  | .die => dieOf c = dieOf me
  | .pkg => true
/-- The cluster TLB of g lies in the scope. -/
def clusterInScope (sc : TScope) (me g : Nat) : Bool :=
  match sc with
  | .core => false
  | .cluster => g = clusterOf me
  | .die => g / 16 = dieOf me
  | .pkg => true

/-- A range of the 57-bit space; none is .ALL. -/
def rangeHits (r : Option (Nat × Nat)) (lo size : Nat) : Bool :=
  match r with
  | none => true
  | some (a, b) => decide (lo < b) && decide (a < lo + size)

def emptyRange : Option (Nat × Nat) → Bool
  | some (a, b) => a = b
  | none => false

/-- Drops a root's translations of the range in the scope, those of the copy engines, and the peer TLB entries that translate such
pages, each of which is released at the peer's agent (R385). -/
def dropScope (s : State) (me : Nat) (sc : TScope) (root : Nat) (r : Option (Nat × Nat)) : State :=
  let keep (e : TlbEnt) : Bool := !(e.root = root && rangeHits r (e.vpn * 2 ^ e.bits) (2 ^ e.bits))
  let peers (g : Nat) : Bool := g = clusterOf me || clusterInScope sc me g
  let dead (e : PeerTlbEnt) : Bool := !e.dead && e.root = root && e.pages.any (fun y => rangeHits r (y * 65536) 65536)
  let gone := s.clusters.flatMap (fun x => if peers x.1 then (x.2.peerTlb.filter dead).map (fun e => (x.1, e)) else [])
  let s : State := { s with
    cores := s.cores.map (fun x => (x.1, if inScope sc me x.1 then { x.2 with tlb := x.2.tlb.filter keep } else x.2))
    clusters := s.clusters.map (fun x => (x.1,
      let cl := if clusterInScope sc me x.1 then { x.2 with tlb := x.2.tlb.filter keep } else x.2
      if peers x.1 then { cl with peerTlb := cl.peerTlb.filter (fun e => !dead e) } else cl)) }
  let s := gone.foldl (fun s x => sendPeer s x.1 x.2.pkg (.invalidationAck s.pkg x.1 x.2.frame 1 true)) s
  ((s.clusters.map Prod.fst).filter (clusterInScope sc me)).foldl (fun s g => relookCopies s g root (rangeHits r)) s

/-- Somebody in the scope waits for the walk of a page: a thread's access, a fetch, or a copy. -/
def walkAsked (s : State) (me : Nat) (sc : TScope) (w : Walk) : Bool :=
  s.cores.any (fun x => inScope sc me x.1 && (s.agenda.any (fun e => match e.2 with
    | .lineFetchArrival t va => t.core = x.1 && va.toNat / 65536 = w.page
    | _ => false)))
  || s.clusters.any (fun x => clusterInScope sc me x.1 && x.2.copies.any (fun c => c.root = w.root &&
    c.pages.any (fun p => decide (s.now < p.at_) && p.vpn * 2 ^ p.bits / 65536 ≤ w.page % 2 ^ 41 && w.page % 2 ^ 41 ≤ (p.vpn * 2 ^ p.bits + 2 ^ p.bits - 1) / 65536)))
/-- A walk in the scope that overlaps the range is not finished. -/
def walksOver (s : State) (me : Nat) (sc : TScope) (root : Nat) (r : Option (Nat × Nat)) : Bool :=
  (allThreads s).any (fun x => inScope sc me x.1.core && (match x.2.park.map Park.why with
    | some (.translation y _) => y.root = root && rangeHits r (y.va.toNat % 2 ^ 57) 1
    | _ => false))
  || s.walks.any (fun w => decide (s.now < w.done) && w.root = root && rangeHits r (w.page * 65536 % 2 ^ 57) 65536 && walkAsked s me sc w)

/-- An address span of the range. -/
def vaHits (r : Option (Nat × Nat)) (va : Word) (n : Nat) : Bool := rangeHits r (va.toNat % 2 ^ 57) n
/-- A far request into the range. -/
def reqHits (r : Option (Nat × Nat)) (q : MemReq) : Bool := !q.near && (placesOf q).any (fun x => vaHits r x.va (opBytes q.op))
/-- A copy's access into the range that was translated by cycle c is not complete: its record, a beat, or the last write of one that
ends. -/
def copyOver (s : State) (me : Nat) (sc : TScope) (root : Nat) (r : Option (Nat × Nat)) (c : Nat) : Bool :=
  s.clusters.any (fun x => clusterInScope sc me x.1 && x.2.copies.any (fun y => y.root = root &&
    ((!y.near && !y.arrived && vaHits r y.addr 64) || (match y.shape with
      | none => false
      | some l =>
        (y.reads ++ y.sent).any (fun b => decide (b.issued ≤ c) &&
          ((!shSnear l && (elemBytes y l b.first b.count false).any (fun a => vaHits r a 1))
            || (!shDnear l && (elemBytes y l b.first b.count true).any (fun a => vaHits r a 1))))
        || (y.ending && hasAux l && !shAnear l && vaHits r (auxAddr l) 1)))))
/-- An access of the scope that was issued by cycle c, and that a dropped entry translated, is not complete. Stores of threads that
have quit count too. -/
def accessesOver (s : State) (me : Nat) (sc : TScope) (root : Nat) (r : Option (Nat × Nat)) (c : Nat) : Bool :=
  (allThreads s).any (fun x => inScope sc me x.1.core && rootOf s x.2 = root && (match x.2.park with
    | some p => decide (p.since ≤ c) && (match p.why with
      | .far q => q.tag != 2 && reqHits r q
      | _ => false)
    | none => false))
  || s.ops.any (fun o => inScope sc me o.t.core && (queueAt s (queueOfLaunch o.launch)).root.toNat = root && o.tag.isSome
    && (decide (o.lastSent ≤ c) || o.resends != 0) && (o.q.map (reqHits r)).getD false)
  || copyOver s me sc root r c

/-- TLBINV's course: its release, with what became dirty before st = 0 written back too (R225), the walks it waits for, the drop, its
scope time, and the accesses it waits for. -/
def tlbinvRun (s : State) (th : Thread) (i : Instr) (sc : TScope) (r : Option (Nat × Nat)) : State :=
  let me := s.cur.core
  let root := rootOf s th
  let again (s : State) (n d : Nat) : State := modThread (park s s.cur (.until (s.now + d)) (some i)) s.cur (fun th => { th with cont := n })
  let drain (s : State) (c : Nat) : State := modThread (park s s.cur .drain (some i)) s.cur (fun th => { th with cont := 1, release := some c })
  match th.cont with
  | 0 => let (s, c) := releaseLines s (clusterOf me) (tlbScope sc); drain s c
  | 1 =>
    if th.st != 0 || s.now < th.release.getD 0 then drain s (th.release.getD 0)
    else
      let (s, c) := releaseLines s (clusterOf me) (tlbScope sc)
      if s.now < c then drain s c
      else if emptyRange r then advance s s.cur
      else modThread (again s 2 0) s.cur (fun th => { th with release := some (s.now + tlbTime sc) })
  | 2 =>
    if walksOver s me sc root r then again s 2 1
    else
      let s := dropScope s me sc root r
      modThread (again s 3 (th.release.getD 0 - s.now)) s.cur (fun th => { th with release := some s.now })
  | _ => if accessesOver s me sc root r (th.release.getD 0) then again s 3 1 else advance s s.cur

def execTlbinv (p : Pred) (sc : TScope) (a b : Reg) (s : State) : Out :=
  let i := Instr.tlbinv p sc a b
  guarded p s (fun th => operands s th i [a, b] none (fun s' vs =>
    tlbinvRun (keeping s' vs) th i sc (some (publishRange (vs.getD 0 0) (vs.getD 1 0)))))
def execTlbinvAll (p : Pred) (sc : TScope) (s : State) : Out :=
  guarded p s (fun th => tlbinvRun s th (.tlbinvAll p sc) sc none)

/-! ### WSPILL and WFILL (R91, R92) -/

/-- The near form (R91): the words go to their banks one a cycle from issue + 4, each an ordinary access, and the last one's time is
that of any near access: 52 cycles in all. -/
def nearFrame (s : State) (t : TId) (th : Thread) (i : Instr) (base : Word) (op : HomeOp) : State :=
  let g := clusterOf t.core
  let lanes := (List.range 32).map (fun j => let a := base + BitVec.ofNat 64 (8 * j); (⟨j, .near g a.toNat, a, false, 0, 0⟩ : Lane))
  nearAccess (modThread s t (fun th => { th with latch := some (List.replicate 32 0) })) t th i
    ⟨if opWrites op then .st else .ld, true, true, false, false⟩
    { mkReq t th i op .frame base with near := true, data := true, place := .near g base.toNat, lanes := lanes, total := 21 } (some i)

/-- The lanes of a far frame image. -/
def frameLanes (base : Word) : List (Nat × Word) := (List.range 32).map (fun j => (j, base + BitVec.ofNat 64 (8 * j)))
def spillPark (s : State) (i : Instr) (d n : Nat) : State :=
  modThread (park s s.cur (.until (s.now + d)) (some i)) s.cur (fun th => { th with cont := n })

/-- WSPILL has written the image: the oldest resident frame leaves the window. -/
def endSpill (s : State) : State :=
  advance (modThread s s.cur (fun th => { th with lower := th.lower.dropLast, scr := { th.scr with wsp := th.scr.wsp + 256 } })) s.cur
def execWspill (p : Pred) (near : Bool) (s : State) : Out :=
  let i := Instr.wspill p near
  guarded p s (fun th =>
    let t := s.cur
    if nres th = 1 then advance s t
    else if th.cont = 3 then endSpill s
    else if th.cont = 2 then (if near then endSpill s else spillPark s i 3 3)
    else
      let lo := (th.depth + 1 - nres th) * 32
      let ws := ((th.lower.getLast?).getD (Vector.replicate 32 0)).toList
      let wsp := th.scr.wsp
      if wsp.toNat % 8 != 0 then trap s t (misaligned wsp 8)
      else if th.absent.any (fun r => match r with
        | .w a => decide (lo ≤ a) && decide (a < lo + 32)
        | _ => false) then park s t (.framePresent lo) (some i)
      else if near then nearFrame s t th i wsp (.writeFrame ws)
      else
        let q := { mkReq t th i (.writeFrame ws) .frame wsp with data := true }
        farPieces s t th i q ⟨8, false, ws⟩ 32 false (some i) (frameLanes wsp))

/-- WFILL has read the image: it becomes the oldest resident frame. -/
def endFill (s : State) (ws : List Word) : State :=
  let f : Vector Word 32 := Vector.ofFn (fun j : Fin 32 => ws.getD j 0)
  advance (modThread s s.cur (fun th => { th with lower := th.lower ++ [f], scr := { th.scr with wsp := th.scr.wsp - 256 } })) s.cur
def execWfill (p : Pred) (near : Bool) (s : State) : Out :=
  let i := Instr.wfill p near
  guarded p s (fun th =>
    let t := s.cur
    if nres th = 6 || th.depth + 1 = nres th then advance s t
    else if th.cont = 3 then endFill s (th.latch.getD [])
    else if th.cont = 2 then (if near then endFill s (th.latch.getD []) else spillPark s i 3 3)
    else
      let base := th.scr.wsp - 256
      if th.scr.wsp.toNat % 8 != 0 then trap s t (misaligned th.scr.wsp 8)
      else if near then nearFrame s t th i base .readFrame
      else
        let q := { mkReq t th i .readFrame .frame base with data := true }
        farPieces s t th i q ⟨8, true, []⟩ 32 false (some i) (frameLanes base))

/-! ### DIGEST (R352) -/

/-- The lowest byte of a buffer that R250 refuses. -/
def bufferFault (s : State) (g off len op : Nat) : Option TrapInfo :=
  let marks := off :: (List.range 129).map (fun k => (off / 0x8000 + 1 + k) * 0x8000)
  (marks.filter (fun a => decide (a < off + len))).findSome? (fun a => nearTrap (clusterAt s g) a .engine op)

/-- The reads of a buffer: the i-th block at the core's port i cycles after the first, 4 cycles from issue. One that lies in two banks
is read at both. -/
def blockReads (s : State) (t : TId) (uid off len : Nat) : List PortReq :=
  let g := clusterOf t.core
  (List.range (ceilDiv len 64)).flatMap (fun n =>
    let banks := ((cutRange (off + 64 * n, min 64 (len - 64 * n))).filterMap (fun r => bankOfOff s g r.1)).eraseDups
    banks.map (fun b => ⟨b, posOf t.core, some (s.now + 4 + n), s.now + n, .block t uid n⟩))
/-- A thread's block reads that no bank has served. -/
def blocksLeft (s : State) (g uid : Nat) : Bool :=
  (clusterAt s g).ports.any (fun r => match r.act with
    | .block _ u _ => u = uid
    | _ => false)
def isBlock (uid : Nat) : PortAct → Bool
  | .block _ u _ => u = uid
  | _ => false
/-- The words that a DIGEST.N holds behind its operands, with those of block n as it is read. -/
def blockWords (vs : List Word) (n : Nat) (bs : List Byte) : List Word :=
  (List.range 8).foldl (fun vs j => vs.set (2 + 8 * n + j) (wordLE ((bs.drop (8 * j)).take 8))) vs
/-- A bank serves the read of one block of a DIGEST.N's buffer (R352): its bytes, or its refusal. The data of the last one is back 16
cycles later, and the request joins the die's engine in the cycle after. -/
def serveBlock (s : State) (t : TId) (uid n : Nat) : State :=
  match findUid s uid with
  | none => s
  | some (t', th) =>
    let g := clusterOf t.core
    let vs := th.latch.getD []
    let off := (vs.getD 0 0).toNat + 64 * n
    let k := min 64 ((vs.getD 1 0).toNat - 64 * n)
    let wait (s : State) (w : Why) : State := modThread s t' (fun th => { th with park := th.park.map (fun p => { p with why := w }) })
    match groupFault s uid g 0x397 0 (cutRange (off, k)) false with
    | .error ti =>
      let ti := if ti.cause = 0x70 then errTrap s (.near g off) ti.addr 0x397 else ti
      wait (dropPorts s g (isBlock uid)) (.trapNow ti)
    | .ok s =>
      let s := modThread s t' (fun th => { th with latch := some (blockWords vs n (readNear s g off k)) })
      if blocksLeft s g uid then s else wait s (.until (s.now + 17))

/-- DIGEST.N. The parts: 1 the reads have returned, 2 the digest is ready. -/
def execDigestN (p : Pred) (d a b : Reg) (s : State) : Out :=
  let i := Instr.digestN p d a b
  guarded p s (fun th => operands s th i [a, b] none (fun s' vs =>
    let g := clusterOf s.cur.core
    let off := (vs.getD 0 0).toNat
    let len := (vs.getD 1 0).toNat
    let joins (s : State) : State :=
      let m := ((vs.drop 2).flatMap (leBytes 8)).take len
      modThread (park (shaJoin s g len (.thread th.uid)) s.cur .event (some i)) s.cur (fun th => { th with latch := some [digest64 m], cont := 2 })
    if th.cont = 2 then writeLate s s.cur th i d (vs.getD 0 0)
    else if th.cont = 1 then joins s
    else
      match bufferFault s g off len (opOf i) with
      | some ti => trap s s.cur ti
      | none =>
        if engineBlockers s th.uid != [] then park (keeping s' vs) s.cur (.opsDone (engineBlockers s th.uid)) (some i)
        else if len = 0 then joins s'
        else
          let s := keeping s' (vs ++ List.replicate (8 * ceilDiv len 64) 0)
          let s := (blockReads s s.cur th.uid off len).foldl (fun s r => portPut s g r) s
          modThread (park s s.cur .event (some i)) s.cur (fun th => { th with cont := 1 })))

def execDigestT (p : Pred) (d b : Reg) (s : State) : Out :=
  let i := Instr.digestT p d b
  guarded p s (fun th =>
    if th.cont = 2 then writeLate s s.cur th i d ((th.latch.getD []).headD 0)
    else engineParks s s.cur th i (.digest d (accNum b)) (some i))

/-! ### NRED and DGCHK (R348, R349, R353) -/

/-- The group operand and the membership check; `k` takes the group's number. -/
def groupOp (s : State) (i : Instr) (v : Word) (k : Nat → State) : State :=
  if v.extractLsb' 12 52 != 0 then illegalNow s i 1
  else if (memberIndex s v.toNat s.cur.core).isNone then trap s s.cur ⟨0x11, v, info187 (opOf i) 0 0 0 0⟩
  else k v.toNat

def execNred (p : Pred) (a b : Reg) (tag : BitVec 8) (mask : Option Reg) (s : State) : Out :=
  let i := Instr.nred p a b tag mask
  guarded p s (fun th => operands s th i (a :: mask.toList) none (fun s' vs =>
    groupOp s i (vs.getD 0 0) (fun g =>
      if engineFull s s.cur.core then park (keeping s' vs) s.cur .engineQueue (some i)
      else
        let (s', k) := nextRound s' s.cur.core g false
        let s' := addFlight s' ⟨g, k, false, s.cur, th.uid, th.launch, tag⟩
        enginePosts s' s.cur th i (.nred g k (accNum b) tag (maskWord vs.tail.head?) 0) .msg (fun s _ => s))))

def execDgchk (p : Pred) (a b : Reg) (tag : BitVec 8) (s : State) : Out :=
  let i := Instr.dgchk p a b tag
  guarded p s (fun th => operands s th i [a, b] none (fun s' vs =>
    groupOp s i (vs.getD 0 0) (fun g =>
      let core := s.cur.core
      let (s', k) := nextRound s' core g true
      let s' := addFlight s' ⟨g, k, true, s.cur, th.uid, th.launch, tag⟩
      let l := groupLine s' g
      let s' := park s' s.cur .event none
      if gRootPkg l = s.pkg then
        sendFlit s' (clusterOf core) (clusterOf (gRootCore l)) false (posOf (gRootCore l)) 15 12 12
          (.digestMessage g (BitVec.ofNat 20 k) ((memberIndex s g core).getD 0) (vs.getD 1 0) 1)
      else sendSealed s' core (gRootPkg l) 1)))

end Sys2Proof.Machine
end

