-- ==== Sys2Proof/Machine/Moves.lean ====
section
/-! DEFINITION. A launch's division of the work, the start of threads, task frames as bytes, and the move lists of RECORD and
REPLAY (R146-R153, R287-R289, R297, R329-R333). -/
namespace Sys2Proof.Machine
open Sys2Proof

/-! ### Core sets, stages and tiles (R150-R152) -/

def launchOf (s : State) (id : BitVec 16) : Option Launch := s.launches.find? (fun l => l.id = id)
def setSize (r : LaunchRec) : Nat := (r.dieHi - r.dieLo + 1) * ((r.clHi - r.clLo + 1) * (r.posHi - r.posLo + 1))
def inCoreSet (r : LaunchRec) (core : Nat) : Bool :=
  decide (r.dieLo ≤ dieOf core) && decide (dieOf core ≤ r.dieHi) && decide (r.clLo ≤ clusterOf core % 16)
    && decide (clusterOf core % 16 ≤ r.clHi) && decide (r.posLo ≤ posOf core) && decide (posOf core ≤ r.posHi)
def rankOf (r : LaunchRec) (core : Nat) : Nat :=
  ((dieOf core - r.dieLo) * (r.clHi - r.clLo + 1) + (clusterOf core % 16 - r.clLo)) * (r.posHi - r.posLo + 1) + (posOf core - r.posLo)
/-- The cores of the set in rank order. -/
def coreSet (r : LaunchRec) : List Nat :=
  (List.range (r.dieHi + 1 - r.dieLo)).flatMap (fun d => (List.range (r.clHi + 1 - r.clLo)).flatMap (fun c =>
    (List.range (r.posHi + 1 - r.posLo)).map (fun p => (r.dieLo + d) * 256 + (r.clLo + c) * 16 + (r.posLo + p))))
/-- The clusters of the set. -/
def clusterSet (r : LaunchRec) : List Nat :=
  (List.range (r.dieHi + 1 - r.dieLo)).flatMap (fun d => (List.range (r.clHi + 1 - r.clLo)).map (fun c => (r.dieLo + d) * 16 + (r.clLo + c)))
def firstRank (r : LaunchRec) (st : Nat) : Nat := if st = 0 then 0 else r.stages.toList.getD (st - 1) 0
def stageOf (r : LaunchRec) (rank : Nat) : Nat := ((List.range r.nstages).filter (fun st => decide (firstRank r st ≤ rank))).length - 1
/-- Tiles along each dimension. -/
def tileCounts (r : LaunchRec) : List Nat := (List.range 4).map (fun q => ceilDiv (r.ext.toList.getD q 0) (r.tile.toList.getD q 0))
def tileTotal (r : LaunchRec) : Nat := (tileCounts r).foldl (fun a b => a * b) 1
/-- The digits of a tile's number, dimension 3 fastest. -/
def tileDigits (n : List Nat) (i : Nat) : List Nat :=
  let n3 := n.getD 3 1; let n2 := n.getD 2 1; let n1 := n.getD 1 1
  [i / (n3 * n2 * n1), i / (n3 * n2) % n1, i / n3 % n2, i % n3]
/-- The stage, origins and extents of a core; none for an idle one. -/
def workOf (r : LaunchRec) (core : Nat) : Nat × Option (List Nat × List Nat) :=
  let rank := rankOf r core
  let st := stageOf r rank
  let i := rank - firstRank r st
  if tileTotal r ≤ i then (st, none)
  else
    let org := (List.range 4).map (fun q => (tileDigits (tileCounts r) i).getD q 0 * r.tile.toList.getD q 0)
    (st, some (org, (List.range 4).map (fun q => min (r.tile.toList.getD q 0) (r.ext.toList.getD q 0 - org.getD q 0))))
def keepIdle (r : LaunchRec) : Bool := r.flags.getLsbD 0
def bankPerm (r : LaunchRec) : Bool := r.flags.getLsbD 3
/-- REPLAY: 0 OFF, 1 RECORD, 2 REPLAY. -/
def replayMode (r : LaunchRec) : Nat := (r.flags.extractLsb' 1 2).toNat
/-- A core of the set that starts threads. -/
def startsOn (r : LaunchRec) (core : Nat) : Bool := inCoreSet r core && (keepIdle r || (workOf r core).2.isSome)

/-! ### Starting a thread (R153, R297) -/

/-- The start state that a launch gives every thread that bears its id. -/
def newThread (s : State) (id : BitVec 16) : Thread :=
  let th := { threadReset with uid := s.nextUid, launch := id }
  match launchOf s id with
  | none => th
  | some l => { th with scr := { th.scr with
      seed := l.lrec.seed, step := l.lrec.step.setWidth 64, watch := (l.lrec.watch &&& 0xFF).setWidth 64, ckpt := l.lrec.ckptTab } }

/-- Puts a thread into a slot, whose slot queues are emptied (R237); on a core without a program thread the k registers become
zero (R145). -/
def placeThread (s : State) (t : TId) (th : Thread) : State :=
  let k := coreAt s t.core
  let k := if hasProgram k then k else { k with k := Vector.replicate 8 ⟨0, []⟩ }
  let k := { k with slotQ := k.slotQ.filter (fun x => x.1 / 8 != t.slot) }
  let s := { s with nextUid := max s.nextUid (th.uid + 1) }
  setCore s t.core (setSlot k t.slot { slotAt k t.slot with occ := .busy th })

/-! ### Frames (R287, R288) -/

def frameLaunch (f : Frame) : BitVec 16 := f.queue ++ f.ltag
def frameFlags (f : Frame) : Word :=
  BitVec.ofNat 64 (f.seq.toNat * 2 ^ 28 + f.origin.toNat * 2 ^ 17 + f.ltag.toNat * 2 ^ 7 + f.queue.toNat * 2 + boolNat f.pinned)
def frameBytes (f : Frame) : List Byte := [f.entry, f.a0, f.a1, f.a2, f.a3, f.join, frameFlags f, f.trace].flatMap (leBytes 8)
def parseFrame (bs : List Byte) : Frame :=
  let w (i : Nat) : Word := wordLE ((bs.drop (8 * i)).take 8)
  ⟨w 0, w 1, w 2, w 3, w 4, w 5, (w 6).extractLsb' 28 24, (w 6).extractLsb' 17 11, (w 6).extractLsb' 7 10, (w 6).extractLsb' 1 6,
   (w 6).getLsbD 0, w 7⟩

/-- Starts a task frame in a slot (R297); its first instruction is the acquire side of the spawn edge (R271). -/
def startFrame (s : State) (t : TId) (f : Frame) : State :=
  let th := newThread s (frameLaunch f)
  let w := (((th.w.set 0 f.a0).set 1 f.a1).set 2 f.a2).set 3 f.a3
  placeThread (invalidateClean s (clusterOf t.core)) t { th with pc := f.entry, w := w, joinAddr := f.join, ready := s.now + 8 }

/-! ### Physical and virtual addresses of the device's own agents -/

/-- A virtual address of a queue's space, used by the device from a cluster: its place, or the refusal's cause. -/
def agentXlate (s : State) (g queue : Nat) (va : Word) (write home : Bool) : State × Except TrapInfo (Place × Nat) :=
  match (clusterPlace s g ⟨(queueAt s queue).root.toNat, va, !write || home, write, home, false, false, false, 0⟩).2 with
  | (_, .error ti) => (s, .error ti)
  | (d, .ok (p, _, _, _)) => (s, .ok (p, d))

/-- Reads bytes page by page; none where an address is refused. -/
def agentRead (s : State) (g queue : Nat) (va : Word) (n : Nat) : State × Option (List Byte) :=
  (List.range ((va.toNat % 65536 + n + 65535) / 65536)).foldl (fun acc i =>
    match acc with
    | (s, none) => (s, none)
    | (s, some bs) =>
      let a := if i = 0 then va else BitVec.ofNat 64 ((va.toNat / 65536 + i) * 65536)
      let k := min (n - bs.length) (65536 - a.toNat % 65536)
      match agentXlate s g queue a false false with
      | (s, .ok (p, _)) => (s, some (bs ++ placeRead s p k))
      | (s, .error _) => (s, none)) (s, some [])

/-- Writes bytes page by page at their homes; none where an address is refused, with nothing written. -/
def agentWrite (s : State) (g queue : Nat) (va : Word) (bs : List Byte) : Option State :=
  let pieces := (List.range ((va.toNat % 65536 + bs.length + 65535) / 65536)).map (fun i =>
    if i = 0 then (va, bs.take (65536 - va.toNat % 65536))
    else (BitVec.ofNat 64 ((va.toNat / 65536 + i) * 65536), (bs.drop (i * 65536 - va.toNat % 65536)).take 65536))
  let settled := pieces.foldl (fun (acc : State × Option (List (Place × List Byte))) x => match acc with
    | (s, none) => (s, none)
    | (s, some l) => match agentXlate s g queue x.1 true false with
      | (s, .ok (p, _)) => (s, some (l ++ [(p, x.2)]))
      | (s, .error _) => (s, none)) (s, some [])
  settled.2.map (fun l => l.foldl (fun s x => homeWrite s x.1 x.2) settled.1)

/-! ### Move lists (R329-R333) -/

/-- A SCHEDULER notification (R421). -/
def schedNote (s : State) (queue code core count : Nat) : State :=
  addNote s queue 0x23 ([BitVec.ofNat 8 code] ++ bytesLE core 2 ++ [0] ++ bytesLE count 4 ++ bytesLE 0 48)

/-- A core's directory entry: BASE, CAP, COUNT with OVER. -/
def moveDir (s : State) (core : Nat) (l : Launch) : State × Option (Word × Nat × Nat) :=
  match agentRead s (clusterOf core) l.queue (l.lrec.moveList + BitVec.ofNat 64 (16 * core)) 16 with
  | (s, some bs) => (s, some (wordLE (bs.take 8), ofBytesLE ((bs.drop 8).take 4), ofBytesLE (bs.drop 12)))
  | (s, none) => (s, none)

/-- A core's progress through a launch's list; in REPLAY it begins with the recorded COUNT. -/
def moveSt (s : State) (core : Nat) (l : Launch) : MoveSt :=
  match (coreAt s core).moves.find? (fun m => m.launch = l.id) with
  | some m => m
  | none =>
    let n := if replayMode l.lrec = 2 then (match (moveDir s core l).2 with
      | some d => d.2.2 % 2 ^ 31
      | none => 1) else 0
    ⟨l.id, 0, n, false, s.now, false⟩
def setMoveSt (s : State) (core : Nat) (m : MoveSt) : State :=
  modCore s core (fun k => { k with moves := k.moves.filter (fun x => x.launch != m.launch) ++ [m] })

/-- The list's entry `i`. -/
def moveEntry (s : State) (core : Nat) (l : Launch) (i : Nat) : Option (Nat × Nat) :=
  match moveDir s core l with
  | (s, some d) => (agentRead s (clusterOf core) l.queue (d.1 + BitVec.ofNat 64 (16 * i)) 16).2.map
      (fun bs => (ofBytesLE (bs.take 8), ofBytesLE (bs.drop 8)))
  | (_, none) => none

/-- What a REPLAY core has next: an entry, nothing more, or an entry that cannot be read. -/
inductive NextMove where | off | none | bad | entry (w0 w1 : Nat)
deriving DecidableEq, Repr

def nextMove (s : State) (core : Nat) (l : Launch) : NextMove :=
  let m := moveSt s core l
  if replayMode l.lrec != 2 || m.diverged then .off
  else if m.count ≤ m.used then .none
  else match moveEntry s core l m.used with
    | some e => .entry e.1 e.2
    | none => .bad

def mvKind (w0 : Nat) : Nat := w0 % 16
def mvSlot (w0 : Nat) : Nat := w0 / 16 % 16
def mvInline (w0 : Nat) : Bool := w0 / 256 % 2 = 1
def mvPeer (w0 : Nat) : Nat := w0 / 2 ^ 16 % 2048
/-- The entry names the frame by LAUNCH, ORIGIN and SEQ. -/
def mvNames (f : Frame) (w0 w1 : Nat) : Bool :=
  w1 % 65536 = (frameLaunch f).toNat && w0 / 2 ^ 29 % 2048 = f.origin.toNat && w0 / 2 ^ 40 = f.seq.toNat
def mvWord0 (kind slot : Nat) (inl : Bool) (peer : Nat) (f : Option Frame) : Nat :=
  kind + slot * 16 + boolNat inl * 256 + peer * 2 ^ 16
    + (match f with
      | some f => f.origin.toNat * 2 ^ 29 + f.seq.toNat * 2 ^ 40
      | none => 0)

/-- scr.einfo of trap 0x60. -/
def replayInfo (f : Option Frame) (op reason core : Nat) : Word :=
  let seq := (f.map (fun f => f.seq.toNat)).getD 0
  let org := (f.map (fun f => f.origin.toNat)).getD 0
  BitVec.ofNat 64 (seq * 2 ^ 40 + org * 2 ^ 29 + op * 2 ^ 18 + reason * 2 ^ 12 + core)

/-- The core places the launch's frames by the rules of OFF from now on; REASONs 2, 3 and 4 are reported. -/
def diverge (s : State) (core : Nat) (l : Launch) (report : Bool) : State :=
  let s := setMoveSt s core { moveSt s core l with diverged := true }
  if report then schedNote s l.queue 1 core 0 else s

/-- The frame may start by this placement (R332). -/
def placeOk (s : State) (core : Nat) (f : Frame) (slot : Nat) (inl : Bool) : Bool :=
  match launchOf s (frameLaunch f) with
  | none => true
  | some l => match nextMove s core l with
    | .entry w0 w1 => mvKind w0 = 2 && mvNames f w0 w1 && mvSlot w0 = slot && mvInline w0 = inl
    | _ => true

/-- Writes one entry in RECORD mode (R331). -/
def recordMove (s : State) (core : Nat) (l : Launch) (w0 w1 : Nat) : State :=
  let m := moveSt s core l
  if m.stopRec then s
  else
    let bad (s : State) : State := schedNote (setMoveSt s core { m with stopRec := true }) l.queue 4 core 0
    let dir := l.lrec.moveList + BitVec.ofNat 64 (16 * core)
    match moveDir s core l with
    | (s, none) => bad s
    | (s, some (base, cap, _)) =>
      if cap ≤ m.used then
        match agentWrite s (clusterOf core) l.queue (dir + 12) (bytesLE (m.used + 2 ^ 31) 4) with
        | some s => setMoveSt s core { m with stopRec := true }
        | none => bad s
      else match agentWrite s (clusterOf core) l.queue (base + BitVec.ofNat 64 (16 * m.used)) (bytesLE w0 8 ++ bytesLE w1 8) with
        | none => bad s
        | some s => match agentWrite s (clusterOf core) l.queue (dir + 12) (bytesLE (m.used + 1) 4) with
          | none => bad s
          | some s => setMoveSt s core { m with used := m.used + 1 }

/-- An event of a launch's placement on a core: recorded in RECORD; in REPLAY the next entry is consumed. -/
def moveDone (s : State) (core : Nat) (id : BitVec 16) (w0 w1 : Nat) : State :=
  match launchOf s id with
  | none => s
  | some l =>
    if replayMode l.lrec = 1 then recordMove s core l w0 w1
    else match nextMove s core l with
      | .entry _ _ =>
        let m := moveSt s core l
        later (setMoveSt s core { m with used := m.used + 1, since := s.now }) (queueAt s l.queue).deadline (.replayDivergenceDeadline core id)
      | .bad => diverge s core l true
      | _ => s
def frameMove (s : State) (core : Nat) (f : Frame) (kind slot : Nat) (inl : Bool) (peer : Nat) : State :=
  moveDone s core (frameLaunch f) (mvWord0 kind slot inl peer (some f)) (frameLaunch f).toNat

/-- A frame may enter the core's deque: some remaining entry of a REPLAY core places it or gives it away (R333). -/
def enterOk (s : State) (core : Nat) (f : Frame) : Bool :=
  match launchOf s (frameLaunch f) with
  | none => true
  | some l => match nextMove s core l with
    | .off | .bad => true
    | _ =>
      let m := moveSt s core l
      (List.range (m.count - m.used)).any (fun i => match moveEntry s core l (m.used + i) with
        | some (w0, w1) => (mvKind w0 = 2 || mvKind w0 = 3) && mvNames f w0 w1
        | none => false)

/-! ### Slots -/

def slotFree (s : State) (core slot : Nat) : Bool :=
  (slotAt (coreAt s core) slot).occ = .free && decide ((slotAt (coreAt s core) slot).freeAt ≤ s.now)
/-- A slot that a PREEMPT record in progress names (R317, R321). -/
def preemptNamed (s : State) (core slot : Nat) : Bool :=
  s.taken.any (fun r => r.bytes.getD 3 0 = 6 && r.bytes.getD 14 0 = 0 && ofBytesLE ((r.bytes.drop 8).take 2) = core
    && ofBytesLE ((r.bytes.drop 10).take 2) / 2 ^ slot % 2 = 1)
/-- A slot whose registers are under self-test (R437). -/
def slotTesting (s : State) (core slot : Nat) : Bool :=
  s.tests.any (fun x => x.u = .regfile && x.die = dieOf core && x.cluster = clusterOf core % 16 && x.index = posOf core * 16 + slot)
/-- A slot that may take a thread of a queue now. -/
def slotTakes (s : State) (core slot queue : Nat) : Bool :=
  slotFree s core slot && (slotAt (coreAt s core) slot).owner = queue && !preemptNamed s core slot && !slotTesting s core slot && !(coreAt s core).retired
def programSlots : List Nat := (List.range 16).drop 1
/-- The slots of a core that may take a thread of a queue, lowest first. -/
def takingSlots (s : State) (core queue : Nat) : List Nat := programSlots.filter (fun n => slotTakes s core n queue)

/-- The launches that wait for slots on a core (R153). -/
def launchWaits (_s : State) (core : Nat) (l : Launch) : Bool :=
  !l.ended && !l.waiting && startsOn l.lrec core && !(core ∈ l.startedCores) && (look (clusterOf core) l.clusters) = some .preloaded

end Sys2Proof.Machine
end

