-- ==== Sys2Proof/Machine/Image.lean ====
section
/-! DEFINITION. The live-range table, the context image as bytes, and the thread that an image gives back (R324-R327). -/
namespace Sys2Proof.Machine
open Sys2Proof

/-! ### The live-range table (R324) -/

/-- A checkpoint entry: its bitmap over register codes and its near ranges, offset and length. -/
structure CkEntry where
  bits : Nat
  ranges : List (Nat × Nat)
deriving DecidableEq, Repr

def rangeWords (bs : List Byte) : List Nat := (List.range 4).map (fun i => ofBytesLE ((bs.drop (32 + 8 * i)).take 8))
/-- No reserved bit of a range word is set, and its offset and length keep their rules. -/
def rangeWordOk (w : Nat) : Bool :=
  w / 2 ^ 55 = 0 && w / 2 ^ 22 % 2 ^ 10 = 0 && w % 8 = 0 && w / 2 ^ 32 % 8 = 0 && decide (w / 2 ^ 32 ≤ 2 ^ 22)
/-- Entry n of a thread's table; none gives a full save. -/
def ckEntry (s : State) (core : Nat) (th : Thread) (n : BitVec 16) : Option CkEntry :=
  if th.scr.ckpt = 0 || n = 0xFFFF then none
  else
    let g := clusterOf core
    let q := queueOfLaunch th.launch
    match (agentRead s g q th.scr.ckpt 64).2, (agentRead s g q (th.scr.ckpt + BitVec.ofNat 64 (64 + 64 * n.toNat)) 64).2 with
    | some hd, some e =>
      let bits := ofBytesLE (e.take 32)
      if ofBytesLE (hd.take 2) ≤ n.toNat || bits / 2 ^ 160 != 0 || !(rangeWords e).all rangeWordOk then none
      else some ⟨bits, ((rangeWords e).filter (fun w => w / 2 ^ 32 != 0)).map (fun w => (w % 2 ^ 22, w / 2 ^ 32))⟩
    | _, _ => none

/-- The entry names a register code; a full save names every register. -/
def names (e : Option CkEntry) (code : Nat) : Bool :=
  match e with
  | none => true
  | some e => e.bits.testBit code
def vecNamed (e : Option CkEntry) : Bool := (List.range 32).any (fun n => names e (0x60 + n))
def tilesNamed (e : Option CkEntry) : List Nat :=
  match e with
  | none => []
  | some e => (List.range 8).filter (fun n => e.bits.testBit (0x80 + n))
def rangesNamed (e : Option CkEntry) : List (Nat × Nat) := (e.map CkEntry.ranges).getD []

/-! ### Writing an image (R325, R326) -/

/-- Fills up to a multiple of 64 bytes. -/
def pad64 (bs : List Byte) : List Byte := bs ++ zeros ((64 - bs.length % 64) % 64)
def regImg (e : Option CkEntry) (code : Nat) (v : Word) : List Byte := if names e code then leBytes 8 v else zeros 8
def statusWords (f : ScrFile) : List Word :=
  [f.epc, f.ecause, f.eaddr, f.einfo, f.tvec, f.save, f.fflags, f.fctl, f.waitlim, f.wsp, f.seed, f.step]
def scalarImg (e : Option CkEntry) (g : Vector Word 16) : List Byte :=
  pad64 ((List.range 15).flatMap (fun i => regImg e (i + 1) (g.toList.getD (i + 1) 0)))
def windowImg (e : Option CkEntry) (w : Vector Word 48) : List Byte :=
  (List.range 48).flatMap (fun i => regImg e (0x10 + i) (w.toList.getD i 0))
def predImg (e : Option CkEntry) (p : Vector Bool 8) (m : Vector Word 8) : List Byte :=
  bytesLE ((List.range 7).foldl (fun n i => n + (if names e (0x99 + i) && p.toList.getD (i + 1) false then 2 ^ (i + 1) else 0)) 0) 8
    ++ (List.range 7).flatMap (fun i => regImg e (0x91 + i) (m.toList.getD (i + 1) 0))
def vecImg (e : Option CkEntry) (v : Vector Line 32) : List Byte :=
  (List.range 32).flatMap (fun i => if names e (0x60 + i) then lineBytes (v.toList.getD i 0) else zeros 64)
def mateImg (m : Mate) : List Byte := scalarImg none m.g ++ windowImg none m.w ++ vecImg none m.v ++ predImg none m.p m.m
def fmtImg (e : Option CkEntry) (f : Vector (BitVec 32) 8) : List Byte :=
  pad64 ((List.range 8).flatMap (fun i => if names e (0x88 + i) then bytesLE (f.toList.getD i 0).toNat 4 else zeros 4))
def chanImg (ch : Vector ChBind 8) : List Byte :=
  ch.toList.flatMap (fun b => [BitVec.ofNat 8 (chKindCode b.kind), b.target.setWidth 8] ++ zeros 6)
/-- The barrier memberships of a thread. -/
def barrierImg (s : State) (uid : Nat) : List Byte :=
  let bs := s.groups.flatMap (fun gr => match member? gr uid with
    | some m => bytesLE (2 ^ 15 + boolNat gr.pg * 64 + gr.g) 2 ++ zeros 2 ++ bytesLE m.phase.toNat 4 ++ bytesLE m.completed.toNat 4 ++ zeros 4
    | none => [])
  (bs ++ zeros 64).take 64
def tileImg (t : Tile) : List Byte :=
  (List.range 256).flatMap (fun c => cellImage (cellAt t c).n.toInt (cellAt t c).st t.floor)
/-- A near range: its bytes, then one state bit for each word, packed from bit 0. -/
def rangeImg (x : Nat × List Byte × List Bool) : List Byte :=
  x.2.1 ++ bytesLE ((x.2.2.zip (List.range x.2.2.length)).foldl (fun n b => n + (if b.1 then 2 ^ b.2 else 0)) 0) (ceilDiv x.2.1.length 512 * 64)

/-- STATE of the header. -/
def imageState (reissue barHalf yoked frwait : Bool) : Nat := boolNat reissue + 2 * boolNat barHalf + 4 * boolNat yoked + 8 * boolNat frwait

/-- The sections after the header. -/
def imageBody (s : State) (e : Option CkEntry) (th : Thread) (tiles : List (Nat × Tile)) (ranges : List (Nat × List Byte × List Bool)) : List Byte :=
  pad64 ((statusWords th.scr).flatMap (leBytes 8))
    ++ th.lower.reverse.flatMap (fun f => f.toList.flatMap (leBytes 8)) ++ windowImg e th.w
    ++ scalarImg e th.g ++ predImg e th.p th.m ++ fmtImg e th.fmt
    ++ (if vecNamed e then vecImg e th.v else [])
    ++ barrierImg s th.uid ++ chanImg th.ch
    ++ (match th.mate with
      | some m => mateImg m
      | none => [])
    ++ tiles.flatMap (fun x => tileImg x.2) ++ ranges.flatMap (fun x => pad64 (rangeImg x))

/-- The whole image of a thread that resumes at `pc`. -/
def imageBytes (s : State) (t : TId) (e : Option CkEntry) (ckent : BitVec 16) (th : Thread) (pc : Word) (st : Nat)
    (tiles : List (Nat × Tile)) (ranges : List (Nat × List Byte × List Bool)) : List Byte :=
  let body := imageBody s e th tiles ranges
  leBytes 8 pc ++ bytesLE (64 + body.length) 8 ++ bytesLE (if e.isNone then 0xFFFF else ckent.toNat) 2 ++ bytesLE th.launch.toNat 2
    ++ bytesLE t.core 2 ++ bytesLE t.slot 1 ++ bytesLE st 1 ++ bytesLE (th.cp % 64) 1 ++ zeros 7
    ++ bytesLE (th.depth % 65536 + nres th * 2 ^ 16) 4 ++ zeros 28 ++ body

/-! ### Reading an image -/

def img8 (bs : List Byte) (o : Nat) : Word := wordLE ((bs.drop o).take 8)
def imgNres (bs : List Byte) : Nat := max 1 (min 6 (ofBytesLE ((bs.drop 32).take 4) / 2 ^ 16 % 8))
def imgYoked (bs : List Byte) : Bool := ofBytesLE ((bs.drop 23).take 1) / 4 % 2 = 1
/-- The offset of the section after the formats. -/
def imgVecAt (bs : List Byte) : Nat := 192 + (32 * imgNres bs + 16) * 8 + 256
def readScalars (bs : List Byte) (o : Nat) : Vector Word 16 := Vector.ofFn (fun i : Fin 16 => if i.val = 0 then 0 else img8 bs (o + 8 * (i.val - 1)))
def readWindow (bs : List Byte) (o : Nat) : Vector Word 48 := Vector.ofFn (fun i : Fin 48 => img8 bs (o + 8 * i.val))
def readMasks (bs : List Byte) (o : Nat) : Vector Word 8 := Vector.ofFn (fun i : Fin 8 => if i.val = 0 then 0 else img8 bs (o + 8 * i.val))
def readPreds (bs : List Byte) (o : Nat) : Vector Bool 8 := Vector.ofFn (fun i : Fin 8 => i.val != 0 && (img8 bs o).getLsbD i.val)
def readVecs (bs : List Byte) (o : Nat) : Vector Line 32 := Vector.ofFn (fun i : Fin 32 => bytesLine ((bs.drop (o + 64 * i.val)).take 64))
def readMate (bs : List Byte) (o : Nat) : Mate := ⟨readScalars bs o, readWindow bs (o + 128), readVecs bs (o + 512), readMasks bs (o + 2560), readPreds bs (o + 2560)⟩
def chKindOf : Nat → ChKind
  | 1 => .slot | 2 => .nbr | 3 => .fifo | _ => .none

/-- BARHALF: the thread's BAR has arrived. -/
def imgBarHalf (bs : List Byte) : Bool := ofBytesLE ((bs.drop 23).take 1) / 2 % 2 = 1
/-- A format register from an image. DESIGN CHOICE (102): a value that FMTSET would refuse is loaded as 0. -/
def imgFmt (n : Nat) : BitVec 32 := if fmtRegOk (BitVec.ofNat 64 n) then BitVec.ofNat 32 n else 0
/-- A status register from an image: its reserved fields read as zero (R13). DESIGN CHOICE (102): a reserved rounding mode is loaded as 0. -/
def imgStatus (bs : List Byte) (r : ScrName) : Word :=
  match r with
  | .ecause => img8 bs 72 &&& 0x1FF
  | .fflags => img8 bs 112 &&& 0x1F
  | .fctl => let v := img8 bs 120 &&& 0x3FF; if 4 < v.toNat % 8 then v &&& 0x3F8 else v
  | .waitlim => img8 bs 128 &&& 0xFFFFFFFF
  | .step => img8 bs 152 &&& 0xFFFFFFFF
  | _ => 0

/-- The thread that an image gives: `base` holds what no image holds; `vec` says that the vectors are present. -/
def imageThread (base : Thread) (bs : List Byte) (vec : Bool) : Thread :=
  let n := imgNres bs
  let o := 192 + (n - 1) * 256
  let v := imgVecAt bs
  let b := v + (if vec then 2048 else 0)
  let f : ScrFile := { base.scr with
    epc := img8 bs 64, ecause := imgStatus bs .ecause, eaddr := img8 bs 80, einfo := img8 bs 88, tvec := img8 bs 96, save := img8 bs 104
    fflags := imgStatus bs .fflags, fctl := imgStatus bs .fctl, waitlim := imgStatus bs .waitlim, wsp := img8 bs 136, seed := img8 bs 144
    step := imgStatus bs .step }
  { base with
    pc := img8 bs 0, checked := false, scr := f
    lower := ((List.range (n - 1)).map (fun k => Vector.ofFn (fun i : Fin 32 => img8 bs (192 + 256 * k + 8 * i.val)))).reverse
    w := readWindow bs o, depth := ofBytesLE ((bs.drop 32).take 2)
    g := readScalars bs (o + 384), p := readPreds bs (o + 512), m := readMasks bs (o + 512)
    fmt := Vector.ofFn (fun i : Fin 8 => imgFmt (ofBytesLE ((bs.drop (o + 576 + 4 * i.val)).take 4)))
    v := if vec then readVecs bs v else Vector.replicate 32 0
    ch := Vector.ofFn (fun i : Fin 8 => ⟨chKindOf (ofBytesLE ((bs.drop (b + 64 + 8 * i.val)).take 1)), BitVec.ofNat 5 (ofBytesLE ((bs.drop (b + 65 + 8 * i.val)).take 1))⟩)
    mate := if imgYoked bs then some (readMate bs (b + 128)) else none
    absent := [], park := none, waited := 0, forfeit := 0, saveDue := none, latch := none, cont := 0, release := none, pops := []
    fetchFault := none, ld := 0, st := 0, tl := 0, barArr := if imgBarHalf bs then some 0 else none }

/-- The offset of the tiles. -/
def imgTilesAt (bs : List Byte) (vec : Bool) : Nat :=
  imgVecAt bs + (if vec then 2048 else 0) + 128 + (if imgYoked bs then 2624 else 0)
/-- Writes a saved tile: the cells and the floor; its receive state stays. -/
def readTile (t : Tile) (bs : List Byte) (o : Nat) : Tile :=
  (List.range 256).foldl (fun t c => match parseCell ((bs.drop (o + 32 * c)).take 32) with
    | some (n, st, f) => setCell { t with floor := f } c ⟨BitVec.ofInt 200 n, st⟩
    | none => t) t
/-- Writes a near range and its state bits back. -/
def writeRange (s : State) (g off : Nat) (bs : List Byte) (bits : Nat) : State :=
  let s := homeWrite s (.near g off) bs
  (List.range (bs.length / 8)).foldl (fun s i => feSet s (.near g (off + 8 * i)) (bits.testBit i)) s
/-- Restores the tiles and near ranges that follow in an image (R327). -/
def restoreData (s : State) (core : Nat) (bs : List Byte) (vec : Bool) (tiles : List Nat) (ranges : List (Nat × Nat)) : State :=
  let o := imgTilesAt bs vec
  let s := modCore s core (fun k => (tiles.zip (List.range tiles.length)).foldl (fun k x => setTile k x.1 (readTile (tileAt k x.1) bs (o + 8192 * x.2))) k)
  (ranges.foldl (fun (acc : State × Nat) r =>
    let body := (bs.drop acc.2).take r.2
    let nb := ceilDiv r.2 512 * 64
    let bits := ofBytesLE ((bs.drop (acc.2 + r.2)).take nb)
    (writeRange acc.1 (clusterOf core) r.1 body bits, acc.2 + (r.2 + nb + 63) / 64 * 64)) (s, o + 8192 * tiles.length)).1

/-- The barrier memberships that an image holds. -/
def imgGroups (bs : List Byte) (vec : Bool) : List (Bool × Nat × BitVec 32 × BitVec 32) :=
  let o := imgVecAt bs + (if vec then 2048 else 0)
  (List.range 4).filterMap (fun i =>
    let h := ofBytesLE ((bs.drop (o + 16 * i)).take 2)
    if h / 2 ^ 15 = 1 then some (h / 64 % 2 = 1, h % 64, BitVec.ofNat 32 (ofBytesLE ((bs.drop (o + 16 * i + 4)).take 4)),
      BitVec.ofNat 32 (ofBytesLE ((bs.drop (o + 16 * i + 8)).take 4))) else none)

end Sys2Proof.Machine
end

