-- ==== Sys2Proof/Machine/Banks.lean ====
section
/-! DEFINITION. BANKCFG and the transitions of a bank between modes (R148, R249, R254-R256, R306). -/
namespace Sys2Proof.Machine
open Sys2Proof

/-! ### Entries -/

/-- MODE of R148; none for a reserved code. -/
def modeOfCode : Nat → Option BankMode
  | 0 => some .cache | 1 => some .scratch | 2 => some .watch | 3 => some .fifo | 4 => some .shadow | _ => none
/-- The modes in which a bank serves a logical slot. -/
def liveMode (m : BankMode) : Bool := m = .scratch || m = .watch || m = .fifo
def plainMode (m : BankMode) : Bool := m = .scratch || m = .watch

/-- Every SHADOW bank of a map has its live slot. -/
def shadowsOk (bs : List Bank) : Bool :=
  bs.all (fun b => b.mode != .shadow || bs.any (fun x => plainMode x.mode && x.slot = b.slot))

/-- Another running launch has program threads in the cluster (R255). -/
def sharedCluster (s : State) (g : Nat) (id : BitVec 16) : Bool :=
  (List.range 16).any (fun i => (coreThreads (g * 16 + i) (coreAt s (g * 16 + i))).any (fun x => x.1.slot != 0 && x.2.launch != id))

/-- The REASON for which BANKCFG is refused (R254, R255). -/
def bankRefusal (s : State) (th : Thread) (g b : Nat) (mode : Option BankMode) (slot : Nat) : Option Nat :=
  let cl := clusterAt s g
  match mode with
  | none => some 7
  | some m =>
    let others := ((List.range 32).filter (fun i => i != b)).map (bankAt cl)
    let map := others ++ [{ bankAt cl b with mode := m, slot := slot }]
    if liveMode m && others.any (fun x => liveMode x.mode && x.slot = slot) then some 6
    else if (bankAt cl b).mode = .off || !shadowsOk map then some 7
    else if !((launchOf s th.launch).map (fun l => bankPerm l.lrec)).getD false then some 8
    else if sharedCluster s g th.launch then some 9
    else none

/-! ### Transitions (R256) -/

/-- Zeroes the bytes lo … 128 KiB of a bank. -/
def zeroBank (s : State) (g b lo : Nat) : State :=
  { s with sram := s.sram.filter (fun x => x.1 < sramAddr g b lo || sramAddr g (b + 1) 0 ≤ x.1) }

/-- MODE of R254: the mode of the bank that serves a logical slot, 7 when none does. -/
def servingMode (cl : Cluster) (slot : Nat) : Nat :=
  match liveBank cl slot with
  | some b => modeCode (bankAt cl b).mode
  | none => 7
/-- Trap 0x14 with REASON 5, as the map stands after the change. -/
def changedTrap (s : State) (g off op : Nat) : TrapInfo :=
  let cl := clusterAt s g
  info14 off (servingMode cl (off / 2 ^ 17)) (off / 2 ^ 17 % 32) 5 op

/-- The operations that wait on a bank, pushers and poppers of a FIFO bank among them, and the threads parked on a channel bound to it,
as the old map names them. -/
def bankWaiters (s : State) (g b : Nat) : List Waiter := waitersOf s (.bank g b)
def fifoParked (s : State) (g b : Nat) : List (TId × Nat × Bool × Nat) :=
  let slot := (bankAt (clusterAt s g) b).slot
  (List.range 16).flatMap (fun i => (coreThreads (g * 16 + i) (coreAt s (g * 16 + i))).filterMap (fun x =>
    match x.2.park with
    | none => none
    | some pk =>
      let op := (pk.retry.map opOf).getD 0
      let onFifo (n : Nat) (write : Bool) : Option (TId × Nat × Bool × Nat) :=
        match x.2.ch.toList.getD n ⟨.none, 0⟩ with
        | ⟨.fifo, k⟩ => if k.toNat = slot then some (x.1, slot, write, op) else none
        | _ => none
      match pk.why with
      | .chRead n => onFifo n false
      | .chWrite n => onFifo n true
      | _ => none))

/-- A thread that waits on a bank that changes takes trap 0x14 with REASON 5, with no effect, in the start cycle; so does one that waits
there through the aperture. -/
def wakeTrap (s : State) (t : TId) (ti : TrapInfo) : State :=
  modThread s t (fun th => { th with park := th.park.map (fun p => { p with why := .trapNow ti }) })
def failWaiter (s : State) (g : Nat) (w : Waiter) : State :=
  let s := { s with clusters := put g { clusterAt s g with waiters := (clusterAt s g).waiters.filter (fun x => x ≠ w) } s.clusters }
  match w.q.place with
  | .near _ off =>
    if w.q.near then modThread s w.q.src (fun th => if th.uid = w.q.uid then
        setDest { th with park := th.park.map (fun p => { p with why := .trapNow (changedTrap s g off w.q.opc) }) } w.q.dest else th)
    else
      let r := replyFault ⟨0x14, w.q.va, (changedTrap s g off w.q.opc).info⟩
      let s := noteServed s (homeOf s w.q.place) w.q r
      if farWaits s w.q then toldReply s w.q.src w.q r else s
  | _ => s

/-- Takes a bank from its mode to another: the state, and the cycles from the start to the completion. -/
def enterMode (s : State) (g b : Nat) (m : BankMode) (slot : Nat) (watch : Word) : State × Nat :=
  let old := bankAt (clusterAt s g) b
  let ws := bankWaiters s g b
  let fs := fifoParked s g b
  let set (s : State) : State := modCluster s g (fun cl => modBank cl b (fun x => { x with mode := m, slot := slot, watch := if m = .watch then watch else 0 }))
  let wake (s : State) : State :=
    fs.foldl (fun s x => wakeTrap s x.1 (changedTrap s g (x.2.1 * 2 ^ 17 + (if x.2.2.1 then 0 else 8)) x.2.2.2)) (ws.foldl (fun s w => failWaiter s g w) s)
  if old.mode = m then (if old.slot = slot then set s else wake (set s), 16)
  else
    -- leaving
    let mine := (clusterAt s g).cache.filter (fun l => l.way = b)
    let back := if old.mode = .cache then mine.foldl (fun n l => if l.dirty = 0 then n else max n (backTime g l)) 0 else 0
    let s := if old.mode = .cache then
        modCluster (mine.foldl storeDirty s) g (fun cl => { cl with cache := cl.cache.filter (fun l => l.way != b) }) else s
    let s := if old.mode = .watch then modCluster s g (fun cl => { cl with shadow := cl.shadow.filter (fun x => x.1 / 12288 != b) }) else s
    let s := if old.mode = .fifo then modCluster s g (fun cl => { cl with fifo := del b cl.fifo }) else s
    let s := wake (set s)
    -- entering
    let blank := m != .cache && (old.mode = .cache || old.mode = .fifo || m = .fifo)
    let top := !blank && ((m = .scratch && old.mode = .watch) || m = .watch)
    let s := if blank then zeroBank s g b 0 else if top then zeroBank s g b 0x18000 else s
    let s := if m = .watch then modCluster s g (fun cl => { cl with shadow := cl.shadow.filter (fun x => x.1 / 12288 != b) }) else s
    let s := if m != .shadow || blank then modCluster s g (fun cl => { cl with full := cl.full.filter (fun x => x / 16384 != b) }) else s
    (s, 16 + back + (if blank then 1024 else 0) + (if m = .watch || top then 256 else 0))

/-- The start of a transition: the bank is held until it completes. -/
def startBank (s : State) (g b : Nat) (m : BankMode) (slot : Nat) (watch : Word) : State × Nat :=
  let (s, d) := enterMode s g b m slot watch
  (later (modCluster s g (fun cl => modBank cl b (fun x => { x with held := some (s.now + d), waitStart := none }))) d (.bankcfgComplete g b), d)

/-- A bank is under self-test (R437). -/
def bankTesting (s : State) (g b : Nat) : Bool :=
  s.tests.any (fun x => x.u = .sram && x.die = g / 16 && x.cluster = g % 16 && x.index = b && decide (s.now < x.busyUntil))

/-- A bank may change its mode now (R130, R255, R437). -/
def bankQuiet (s : State) (g b : Nat) : Bool :=
  (bankAt (clusterAt s g) b).held.isNone && !engineTouches s g b && !copyTouches s g b && !bankTesting s g b

/-! ### BANKCFG (R306) -/

/-- BANKCFG's refusal, with the map as it stands. -/
def bankTrap (s : State) (g slot r : Nat) : TrapInfo := info14 (slot * 2 ^ 17) (servingMode (clusterAt s g) slot) slot r 0x385
def execBankcfg (p : Pred) (a : Reg) (s : State) : Out :=
  let i := Instr.bankcfg p a
  guarded p s (fun th => operands s th i [a] none (fun s' vs =>
    let v := (vs.getD 0 0).toNat
    let g := clusterOf s.cur.core
    let b := v % 32
    let mode := modeOfCode (v / 2 ^ 13 % 8)
    let slot := v / 256 % 32
    let cl := clusterAt s g
    if th.cont = 1 then advance s s.cur
    else if v / 32 % 8 != 0 || v / 65536 != 0 then illegalNow s i 1
    else match bankRefusal s th g b mode slot, mode with
      | some r, _ => trap s s.cur (bankTrap s g slot r)
      | none, none => advance s s.cur
      | none, some m =>
        if (bankAt cl b).waitStart.isSome || (bankAt cl b).held.isSome then park (keeping s' vs) s.cur (.until (s.now + 1)) (some i)
        else
          let s := modCluster (keeping s' vs) g (fun cl => modBank cl b (fun x => { x with waitStart := some (s.cur, m, slot) }))
          modThread (park s s.cur .event (some i)) s.cur (fun th => { th with cont := 1 })))

/-- BANKCFG_START: the entry takes its new value and the bank is held; the issuer goes on at the completion. What R255 refuses by then,
after another BANKCFG has changed the map, is refused here too. -/
def bankStart (s : State) (g b : Nat) : State :=
  match (bankAt (clusterAt s g) b).waitStart with
  | none => s
  | some (t, m, slot) =>
    if !bankQuiet s g b then s
    else match (thread? s t).bind (fun th => bankRefusal s th g b (some m) slot) with
      | some r => wakeTrap (modCluster s g (fun cl => modBank cl b (fun x => { x with waitStart := none }))) t (bankTrap s g slot r)
      | none =>
        let watch := ((thread? s t).map (fun th => th.scr.watch)).getD 0
        let (s, d) := startBank s g b m slot watch
        modThread s t (fun th => { th with park := th.park.map (fun p => { p with why := .until (s.now + d) }) })
def execBankcfgStart (cluster bank : Nat) (s : State) : Out := .next (bankStart s cluster bank)

/-- BANKCFG_COMPLETE: the bank is released; what waits at its ports is served under its new mode, checked again (R250, R255). -/
def bankDone (s : State) (g b : Nat) : State := modCluster s g (fun cl => modBank cl b (fun x => { x with held := none }))
def execBankcfgComplete (cluster bank : Nat) (s : State) : Out := .next (bankDone s cluster bank)

/-! ### The banks' cycle (R68) -/

def isFillAct (r : PortReq) : Bool :=
  match r.act with
  | .fill _ _ _ => true
  | _ => false
/-- The request of the other side's fill that goes with one of a fill. DEDUCED (48): each side reads in its own F cycles (R64), also where
both lie in one bank. -/
def otherFill (s : State) (g : Nat) (r : PortReq) : Option PortReq :=
  match r.act with
  | .fill _ b _ => (((clusterAt s g).ports.filter (fun x => x.bank = r.bank && x.port = r.port)).takeWhile isFillAct).find? (fun x =>
      presented s g x && (match x.act with
        | .fill _ c _ => c != b
        | _ => false))
  | _ => none
/-- What a request does when its bank serves it. -/
def servePort (s : State) (g : Nat) (r : PortReq) : State :=
  match r.act with
  | .req q => serveAtBank s q
  | .piece q => servePart s q
  | .fill id b rs =>
    let s := serveFill s (g * 16 + r.port) id b rs
    match otherFill s g r with
    | some x => (match x.act with
      | .fill id b rs => serveFill (modCluster s g (fun cl => { cl with ports := cl.ports.erase x })) (g * 16 + r.port) id b rs
      | _ => s)
    | none => s
  | .beat id cells => serveBeat s (g * 16 + r.port) id cells
  | .copyRecord tok => serveRecord s g tok
  | .copyRead g' tok n => serveRead s g' tok n
  | .copyWrite g' tok n => serveWrite s g' tok n
  | .block t uid n => serveBlock s t uid n
/-- A bank that has a request to serve in this cycle; one under self-test serves none (R437). -/
def bankDue (s : State) (g b : Nat) : Option PortReq := if bankTesting s g b then none else bankNext s g b
/-- The next bank of the package, lowest first, that serves a request in this cycle. -/
def nextBank (s : State) : Option (Nat × PortReq) :=
  s.clusters.findSome? (fun x =>
    if x.2.ports.isEmpty then none else (List.range 32).findSome? (fun b => (bankDue s x.1 b).map (fun r => (x.1, r))))
/-- A bank uses its cycle on the request that the arbitration gives it. -/
def bankServe (s : State) (g : Nat) (r : PortReq) : State := servePort (takeCycle s g r) g r

end Sys2Proof.Machine
end

