-- ==== Sys2Proof/Machine/Task.lean ====
section
/-! DEFINITION. The task instructions: QUIT, SPAWN, SPAWNAT, JOIN, YIELD, yoking, MIGRATE, CHKPT, START and REAP, and the
events of the deque, the join counters and migration (R99, R287-R308, R328). -/
namespace Sys2Proof.Machine
open Sys2Proof

/-! ### The end of a thread (R99, R115, R305) -/

/-- The slot that a yoking thread withholds. -/
def mateSlot (slot : Nat) : Nat := if slot < 8 then slot + 8 else slot - 8
/-- A slot becomes Free; it takes work from the next cycle (R61, R99). -/
def freeSlot (s : State) (core slot : Nat) : State :=
  modCore s core (fun k => setSlot k slot { slotAt k slot with occ := .free, freeAt := s.now + 1 })
/-- The operand latches of a slot become empty. -/
def dropLatches (s : State) (t : TId) : State :=
  modCore s t.core (fun k => { k with latches := k.latches.map (fun l => match l with
    | some x => if x.slot = t.slot then none else some x
    | none => none) })
/-- The inbound channel queues of a core without a program thread are empty (R237). -/
def emptyInbound (s : State) (core : Nat) : State := modCore s core (fun k => if hasProgram k then k else { k with inQ := [] })
/-- The thread leaves its slot: its latches become empty and its yoke ends. -/
def leaveSlot (s : State) (t : TId) (th : Thread) : State :=
  let s := dropLatches { s with views := s.views.filter (fun x => x.t != t) } t
  let s := emptyInbound (freeSlot s t.core t.slot) t.core
  if th.mate.isSome then freeSlot s t.core (mateSlot t.slot) else s
/-- A wait of the thread at a home ends with the thread. -/
def dropWaits (s : State) (uid : Nat) : State :=
  { s with
    clusters := s.clusters.map (fun x => (x.1, { x.2 with
      waiters := x.2.waiters.filter (fun w => w.q.uid != uid)
      ports := x.2.ports.filter (fun r => !isBlock uid r.act) }))
    gathers := s.gathers.filter (fun x => !(x.q.uid = uid && x.q.parked))
    homeWaiters := s.homeWaiters.filter (fun w => w.q.uid != uid)
    held := s.held.filter (fun h => !(h.uid = uid && ((reqOf h.act).map MemReq.parked).getD false))
    pageHolds := s.pageHolds.filter (fun h => h.uid != uid) }
/-- Forwarding entries that a thread holds are free when it ends or stays. -/
def dropForwards (s : State) (core uid : Nat) : State := modCore s core (fun k => { k with forwards := k.forwards.filter (fun f => f.uid != uid) })
/-- The thread is over: it leaves its slot and every barrier group; loads still outstanding find no thread. -/
def endThread (s : State) (t : TId) (th : Thread) : State := leaveAll (leaveSlot (dropForwards s t.core th.uid) t th) th.uid

/-- The operations that hold ld or st raised: a task's decrement waits for them all (R99, R300). -/
def counting (s : State) (uid : Nat) : List Nat :=
  (s.ops.filter (fun o => o.uid = uid && (o.kind = .ld || o.kind = .st || o.kind = .msg))).map Op.id
/-- The decrement of a join counter after the thread's release (R99, R300). It is an operation of the thread. -/
def holdDecrement (s : State) (t : TId) (th : Thread) : State :=
  if th.joinAddr = 0 then s
  else
    let before := counting s th.uid
    let (s, id) := addOp s t .dec none
    holdUntil s t th.uid before true 0 (.joinDecrement t th.joinAddr th.launch id)

def quitOp : Nat := 0x18B
/-- The request that takes 1 from a counter. -/
def decReq (t : TId) (uid : Nat) (addr : Word) : MemReq :=
  ⟨t, uid, quitOp, .amo .add 8 (BitVec.allOnes 64), .none, addr, .hbm 0, [], false, .pkg, false, false, false, false, 2, 0, 0, 0, 0⟩

/-- JOIN_DECREMENT: the counter's address is translated and the AMO sent when the translation is settled (`resends` 1 until then); a
refusal goes to the steward (R158, R300). -/
def joinDecrement (s : State) (t : TId) (addr : Word) (launch : BitVec 16) (op : Nat) : State :=
  match s.ops.find? (fun o => o.id = op) with
  | none => s
  | some o =>
    let g := clusterOf t.core
    let x : Xl := ⟨(queueAt s (queueOfLaunch launch)).root.toNat, addr, true, true, true, false, false, false, quitOp⟩
    let fail (s : State) (ti : TrapInfo) : State := noteDeferred { s with ops := s.ops.filter (fun y => y.id != op) } t launch (deferredInfo ti)
    if addr.toNat % 8 != 0 then fail s (misaligned addr 8)
    else
      let (s', d, r) := clusterPlace s g x
      if 0 < d && o.resends = 0 then
        later { s' with ops := s'.ops.map (fun y => if y.id = op then { y with resends := 1 } else y) } d (.joinDecrement t addr launch op)
      else match r with
        | .error ti => fail s ti
        | .ok (p, e, lvl, w) =>
          let (s, tag) := takeTag (fillFound s g x.root addr e lvl w) t
          let q := { decReq t o.uid addr with place := p, tag := tag, opId := op, entry := e.toNat % 65536, level := lvl }
          sendHome { s with ops := s.ops.map (fun y => if y.id = op then { y with tag := some q.tag, q := some q, resends := 0 } else y) } q
def execJoinDecrement (t : TId) (addr : Word) (launch : BitVec 16) (op : Nat) (s : State) : Out := .next (joinDecrement s t addr launch op)

/-- QUIT of an inline task (R299): once st = 0 the decrement, then the slide down to the JOIN. -/
def inlineQuit (s : State) (th : Thread) (i : Instr) (addr : Word) : State :=
  match slideDown th with
  | none => trap s s.cur ⟨0x41, 0, windowInfo th 0⟩
  | some th' =>
    if th.cont = 2 then finishAt (setThread s s.cur th') s.cur th.w[15] false
    else if th.cont = 0 && th.st != 0 then park s s.cur .drain (some i)
    else
      let q := { decReq s.cur th.uid addr with parked := true }
      let s := if th.cont = 0 then modThread s s.cur (fun th => { th with cont := 1 }) else s
      let s := farAccess s s.cur th i ⟨.ld, true, true, true, false⟩ q
      modThread s s.cur (fun th => match th.park with
        | some ⟨.far q, none, c⟩ => { th with park := some ⟨.far q, some i, c⟩ }
        | _ => th)

def execQuit (p : Pred) (s : State) : Out :=
  guarded p s (fun th =>
    match inlineJoin th with
    | some a => inlineQuit s th (.quit p) a
    | none => endThread (holdDecrement s s.cur th) s.cur th)

/-! ### The deque and its spill area (R290, R294-R296) -/

/-- CAP, HEADIX and COUNT; with a CAP of 0 there is no spill area (R294). -/
def spillHeader (s : State) (core : Nat) : Nat × Nat × Nat :=
  let p := physPlace s (coreAt s core).dqspill
  let cap := readWord s p 8
  if cap = 0 then (0, 0, 0) else (cap, readWord s (placeAdd p 8) 8, readWord s (placeAdd p 16) 8)
def spillCount (s : State) (core : Nat) : Nat := (spillHeader s core).2.2
def spillSlot (s : State) (core i : Nat) : Place := placeAdd (physPlace s (coreAt s core).dqspill) (64 + 64 * (i % (spillHeader s core).1))
def setHeader (s : State) (core off v : Nat) : State := homeWrite s (placeAdd (physPlace s (coreAt s core).dqspill) off) (bytesLE v 8)
/-- `n` frames of the spill area from the `i`-th spilled one on. -/
def areaFrames (s : State) (core i n : Nat) : List Frame :=
  (List.range n).map (fun j => parseFrame (placeRead s (spillSlot s core ((spillHeader s core).2.1 + i + j)) 64))
/-- The spilled frames, oldest first. -/
def spilledFrames (s : State) (core : Nat) : List Frame := areaFrames s core 0 (spillCount s core)
/-- The frames of a running spill whose writes are acknowledged; COUNT rises with the last (R295). -/
def landedFrames (s : State) (core : Nat) : List Frame :=
  match (coreAt s core).spilling with
  | [] => []
  | l => areaFrames s core (spillCount s core) (32 - l.length)

def dequeFull (k : Core) : Bool := decide (64 ≤ k.deque.length)
/-- A spill is impossible: COUNT + 32 > CAP, and none is running. -/
def spillImpossible (s : State) (core : Nat) : Bool :=
  (coreAt s core).spilling = [] && decide ((spillHeader s core).1 < spillCount s core + 32)
/-- A removal judges the deque as it stood at the start of its cycle (R290). -/
def readyAt (now : Nat) (e : DqEnt) : Bool :=
  match e.ready with
  | some c => decide (c < now)
  | none => false
/-- The ready frames that a removal may take, newest first. DESIGN CHOICE (53): not those of a running spill, which would then exist
twice (R320). -/
def readyFrames (now : Nat) (k : Core) : List Frame :=
  (k.deque.filter (fun e => readyAt now e && !k.spilling.any (fun x => x.f = e.f))).map DqEnt.f
/-- The ready frames that lie in a core's deque or its spill area (R314, R318). -/
def lyingFrames (s : State) (core : Nat) : List Frame :=
  ((coreAt s core).deque.filter (fun e => e.ready.isSome)).map DqEnt.f ++ landedFrames s core ++ spilledFrames s core

/-- scr.einfo of R307. -/
def taskInfo (value op reason core : Nat) : Word := BitVec.ofNat 64 (value % 2 ^ 32 * 2 ^ 32 + op * 2 ^ 18 + reason * 2 ^ 12 + core % 2048)

def pushFrame (s : State) (core : Nat) (e : DqEnt) : State := modCore s core (fun k => { k with deque := e :: k.deque, dqPush := s.now + 1 })
/-- A removal; the deque makes one a cycle. -/
def takeFrame (s : State) (core : Nat) (f : Frame) : State :=
  modCore s core (fun k => { k with deque := k.deque.filter (fun e => e.f ≠ f), dqPop := s.now + 1 })
def canTake (s : State) (core : Nat) : Bool := decide ((coreAt s core).dqPop ≤ s.now)

/-- A frame enters the core's deque; a REPLAY core that its list surprises reports by the rules of R333. -/
def spillDue (s : State) (core : Nat) : Bool :=
  let k := coreAt s core
  dequeFull k && k.spilling = [] && !spillImpossible s core && (k.deque.drop 32).all (fun e => e.ready.isSome)

/-- SPILL_START: the oldest 32 frames are written, one a cycle; each is acknowledged after a far store's time. -/
def spillStart (s : State) (core : Nat) : State :=
  if !spillDue s core then s
  else
    let s := modCore s core (fun k => { k with spilling := (k.deque.drop 32).reverse })
    let d := farTime (clusterOf core) (physPlace s (coreAt s core).dqspill) false
    (List.range 32).foldl (fun s i => later s (d + i) (.spillComplete core)) s
def execSpillStart (core : Nat) (s : State) : Out := .next (spillStart s core)

/-- SPILL_COMPLETE: the oldest frame of the spill is acknowledged and leaves the deque; with the last, COUNT rises by 32. -/
def spillAck (s : State) (core : Nat) : State :=
  match (coreAt s core).spilling with
  | [] => s
  | e :: r =>
    let h := spillHeader s core
    let s := homeWrite s (spillSlot s core (h.2.1 + h.2.2 + (31 - r.length))) (frameBytes e.f)
    let s := modCore s core (fun k => { k with deque := k.deque.filter (fun x => x.f ≠ e.f), spilling := r })
    if r = [] then setHeader s core 16 (h.2.2 + 32) else s
def execSpillComplete (core : Nat) (s : State) : Out := .next (spillAck s core)

/-- Begins a refill for a slot that finds no frame (R296). -/
def refillDue (s : State) (core : Nat) : Bool :=
  let k := coreAt s core
  !k.refilling && k.spilling = [] && decide (0 < spillCount s core) && !dequeFull k
def startRefill (s : State) (core : Nat) : State :=
  let n := min 32 (min (spillCount s core) (64 - (coreAt s core).deque.length))
  later (modCore s core (fun k => { k with refilling := true })) (farTime (clusterOf core) (physPlace s (coreAt s core).dqspill) false + n) (.dequeRefill core)

/-- DEQUE_REFILL: the newest spilled frames come back at the tail, in age order; a spill that is running ends first (R296). -/
def refill (s : State) (core : Nat) : State :=
  let k := coreAt s core
  if k.spilling != [] then later s 1 (.dequeRefill core)
  else
  let fs := spilledFrames s core
  let n := min 32 (min fs.length (64 - k.deque.length))
  let back := fs.drop (fs.length - n)
  let s := back.foldl (fun s f => if enterOk s core f then s else match launchOf s (frameLaunch f) with
    | some l => diverge s core l true
    | none => s) s
  let s := modCore s core (fun k => { k with deque := k.deque ++ back.reverse.map (fun f => ⟨f, some s.now⟩), refilling := false })
  if n = 0 then s else setHeader s core 16 (fs.length - n)
def execDequeRefill (core : Nat) (s : State) : Out := .next (refill s core)

/-- FRAME_READY (R292). -/
def execFrameReady (core : Nat) (f : Frame) (s : State) : Out :=
  .next (modCore s core (fun k => { k with deque := k.deque.map (fun e => if e.f = f && e.ready.isNone then { e with ready := some s.now } else e) }))

/-! ### SPAWN and SPAWNAT (R289, R291-R293) -/

/-- The frame that a spawn makes, and the count's next value. -/
def spawnFrame (s : State) (th : Thread) (vs : List Word) (trace : Option Reg) (pin : Bool) : State × Frame :=
  let core := s.cur.core
  let v := viewOf s s.cur th
  let key := th.launch.toNat
  let n := (look key (coreAt s core).spawnCounts).getD 0
  let f : Frame := ⟨vs.getD 0 0, v.w[32], v.w[33], v.w[34], v.w[35], vs.getD 1 0, BitVec.ofNat 24 n, BitVec.ofNat 11 core, th.launch.setWidth 10,
    th.launch.extractLsb' 10 6, pin, if trace.isSome then vs.getD 2 0 else 0⟩
  (modCore s core (fun k => { k with spawnCounts := put key ((n + 1) % 2 ^ 24) k.spawnCounts }), f)

def execSpawn (p : Pred) (pin : Bool) (d a b c : Reg) (s : State) : Out :=
  let trace := if c.code = 0 then none else some c
  let i := Instr.spawn p pin d a b c
  guarded p s (fun th => operands s th i ([a, b] ++ trace.toList) (some d) (fun s' vs =>
    let core := s.cur.core
    let jn := vs.getD 1 0
    let k := coreAt s core
    if jn.toNat % 8 != 0 then trap s s.cur (misaligned jn 8)
    else if dequeFull k && spillImpossible s core then
      trap s s.cur ⟨0x23, k.dqspill, taskInfo (spillCount s core) (opOf i) 0 core⟩
    else if dequeFull k then park s s.cur .dequeSpill none
    else
      let (s', f) := spawnFrame s' th vs trace pin
      if !enterOk s core f then
        trap ((launchOf s th.launch).elim s (fun l => diverge s core l false)) s.cur ⟨0x60, 0, replayInfo (some f) (opOf i) 0 core⟩
      else
        let s' := holdUntil (pushFrame s' core ⟨f, none⟩) s.cur th.uid (earlier s th.uid) true 0 (.frameReady core f)
        advance (writeD s' s.cur d (f.seq.setWidth 64)) s.cur))

/-- A posted operation without a memory request: its tag and counter (R391). -/
def postTag (s : State) (t : TId) : State × Nat :=
  let (s, tag) := takeTag s t
  let (s, id) := addOp s t .msg none
  ({ s with ops := s.ops.map (fun o => if o.id = id then { o with tag := some tag } else o) }, tag)

def execSpawnat (p : Pred) (d a b c e : Reg) (s : State) : Out :=
  let trace := if c.code = 0 then none else some c
  let i := Instr.spawnat p d a b c e
  guarded p s (fun th => operands s th i ([a, b] ++ trace.toList ++ [e]) (some d) (fun s' vs =>
    let dest := (vs.getLast?).getD 0
    if 2048 ≤ dest.toNat then trap s s.cur ⟨0x11, dest, taskInfo 0 (opOf i) 0 dest.toNat⟩
    else
      let (s', f) := spawnFrame s' th vs trace true
      let before := earlier s th.uid
      let (s', tag) := postTag s' s.cur
      let s' := holdUntil s' s.cur th.uid before true 0 (.frameMessage f dest.toNat s.cur tag)
      advance (writeD s' s.cur d (f.seq.setWidth 64)) s.cur))

/-- The acknowledgement of a SPAWNAT frame. -/
def ackFrame (s : State) (dest : Nat) (src : TId) (tag : Nat) (fault : Option TrapInfo) : State :=
  sendBack s (clusterOf src.core) (.near (clusterOf dest) 0) 9 0 (.acknowledgement src tag fault)

/-- The tag that a claimed frame carries in place of a request's (R319). -/
def claimTag : Nat := 256
/-- FRAME_MESSAGE: a SPAWNAT frame is pushed ready, waits for room, or is refused (R293, R333); a claimed frame lands in the
thief's latch, where its start is due (R320). -/
def frameArrives (s : State) (f : Frame) (dest : Nat) (src : TId) (tag : Nat) : State :=
  let k := coreAt s dest
  if tag = claimTag then
    let s := modCore s dest (fun k => { k with claim := some (f, s.now, src.core), probeOut := none, probePtr := 0 })
    let expected := match (launchOf s (frameLaunch f)).map (nextMove s dest) with
      | some (.entry w0 w1) => mvKind w0 = 4 && mvPeer w0 = src.core && mvNames f w0 w1
      | _ => true
    let s := if expected then frameMove s dest f 4 0 false src.core
      else ((launchOf s (frameLaunch f)).elim s (fun l => diverge s dest l true))
    later s 0 (.claimLatchStart dest)
  else if k.retired then ackFrame s dest src tag (some ⟨0x11, BitVec.ofNat 64 dest, taskInfo 0 0x387 0 dest⟩)
  else if !enterOk s dest f then
    ackFrame ((launchOf s (frameLaunch f)).elim s (fun l => diverge s dest l false)) dest src tag (some ⟨0x60, 0, replayInfo (some f) 0x387 0 dest⟩)
  else if dequeFull k then
    if spillImpossible s dest then ackFrame s dest src tag (some ⟨0x23, k.dqspill, taskInfo (spillCount s dest) 0x387 0 dest⟩)
    else later s 1 (.frameMessage f dest src tag)
  else if s.now < k.dqPush then later s 1 (.frameMessage f dest src tag)
  else ackFrame (pushFrame s dest ⟨f, some s.now⟩) dest src tag none
def execFrameMessage (f : Frame) (dest : Nat) (src : TId) (tag : Nat) (s : State) : Out := .next (frameArrives s f dest src tag)

/-! ### Slot starts, steals and the claim latch (R296, R318-R320) -/

/-- The frame that a slot start takes: the newest ready one of the slot's queue. -/
def popFrame (s : State) (core slot : Nat) : Option Frame :=
  let q := (slotAt (coreAt s core) slot).owner
  (readyFrames s.now (coreAt s core)).find? (fun f => f.queue.toNat = q && placeOk s core f slot false)
/-- SLOT_POP. -/
def slotPop (s : State) (core slot : Nat) : State :=
  if !slotTakes s core slot (slotAt (coreAt s core) slot).owner || !canTake s core then s
  else match popFrame s core slot with
    | some f => startFrame (frameMove (takeFrame s core f) core f 2 slot false 0) ⟨core, slot⟩ f
    | none => if refillDue s core then startRefill s core else s
def execSlotPop (core slot : Nat) (s : State) : Out := .next (slotPop s core slot)

/-- The 37 victims in steal order (R318). -/
def victims (core : Nat) : List Nat :=
  let die := dieOf core
  let cl := clusterOf core % 16
  let pos := posOf core
  (List.range 15).map (fun i => core - pos + (pos + i + 1) % 16)
    ++ (List.range 15).map (fun i => die * 256 + (cl + i + 1) % 16 * 16 + pos)
    ++ (List.range 7).map (fun i => (die + i + 1) % 8 * 256 + cl * 16 + pos)

def freeQueues (s : State) (core : Nat) : List Nat :=
  ((programSlots.filter (slotFree s core)).map (fun n => (slotAt (coreAt s core) n).owner)).eraseDups
/-- The core is idle for stealing. -/
def idleForSteal (s : State) (core : Nat) : Bool :=
  let k := coreAt s core
  let have_ := (lyingFrames s core).map (fun f => f.queue.toNat)
  !k.retired && k.claim.isNone && k.probeOut.isNone && !s.launches.any (launchWaits s core)
    && (freeQueues s core).any (fun q => q ∉ have_)
/-- In REPLAY a probe goes only to the victim that a Steal taken entry names; with any other next entry none is sent (R332). -/
def probeVictim (s : State) (core : Nat) : Option Nat :=
  let mine := s.launches.filterMap (fun l => match nextMove s core l with
    | .entry w0 _ => some w0
    | _ => none)
  match mine with
  | [] => (victims core)[(coreAt s core).probePtr % 37]?
  | l => (l.find? (fun w0 => mvKind w0 = 4)).map mvPeer

/-- STEAL_PROBE: an idle core sends its probe. -/
def sendProbe (s : State) (core : Nat) : State :=
  if !idleForSteal s core then s
  else match probeVictim s core with
    | none => s
    | some v =>
      let mask := (freeQueues s core).foldl (fun (m : BitVec 64) q => m ||| ((1 : BitVec 64) <<< q)) 0
      let s := modCore s core (fun k => { k with probeOut := some v })
      if clusterOf v = clusterOf core then later s 12 (.probeMessage core v mask)
      else sendFlit s (clusterOf core) (clusterOf v) false (posOf v) 7 6 6 (.probeMessage core v mask)
def execStealProbe (core : Nat) (s : State) : Out := .next (sendProbe s core)

/-- The answer to a probe takes as long as the probe. -/
def answerProbe (s : State) (thief victim wait : Nat) (ev : Instr) : State :=
  if clusterOf victim = clusterOf thief then later s (wait + 12) ev
  else sendFlit s (clusterOf victim) (clusterOf thief) true (posOf thief) 6 (wait + 6) 6 ev

/-- The victim may give a frame to the thief (R332). -/
def giveOk (s : State) (victim thief : Nat) (f : Frame) : Bool :=
  match launchOf s (frameLaunch f) with
  | none => true
  | some l => match nextMove s victim l with
    | .entry w0 w1 => mvKind w0 = 3 && mvPeer w0 = thief && mvNames f w0 w1
    | _ => true
def stealable (s : State) (victim thief : Nat) (mask : BitVec 64) (f : Frame) : Bool :=
  !f.pinned && mask.getLsbD f.queue.toNat && giveOk s victim thief f

/-- PROBE_MESSAGE: the claim, from the spill area's oldest frame or else the deque's oldest, or an empty answer (R319). -/
def probeArrives (s : State) (thief victim : Nat) (mask : BitVec 64) : State :=
  let h := spillHeader s victim
  let oldestSpilled := ((spilledFrames s victim).head?).filter (stealable s victim thief mask)
  let give (s : State) (f : Frame) (wait : Nat) : State :=
    let s := frameMove s victim f 3 0 false thief
    answerProbe s thief victim wait (.frameMessage f thief ⟨victim, 0⟩ claimTag)
  match oldestSpilled, (readyFrames s.now (coreAt s victim)).reverse.find? (stealable s victim thief mask) with
  | some f, _ =>
    if !canTake s victim then later s 1 (.probeMessage thief victim mask)
    else
      let s := setHeader (setHeader s victim 8 ((h.2.1 + 1) % h.1)) victim 16 (h.2.2 - 1)
      let s := modCore s victim (fun k => { k with dqPop := s.now + 1 })
      give s f (farTime (clusterOf victim) (physPlace s (coreAt s victim).dqspill) false)
  | none, some f => if canTake s victim then give (takeFrame s victim f) f 0 else later s 1 (.probeMessage thief victim mask)
  | none, none => answerProbe s thief victim 0 (.emptyAnswer thief victim)
def execProbeMessage (thief victim : Nat) (mask : BitVec 64) (s : State) : Out := .next (probeArrives s thief victim mask)

/-- EMPTY_ANSWER: the next probe goes to the next victim. -/
def execEmptyAnswer (thief _victim : Nat) (s : State) : Out :=
  .next (modCore s thief (fun k => { k with probeOut := none, probePtr := (k.probePtr + 1) % 37 }))

/-- The slot in which a REPLAY list places a latched frame. -/
def latchPlace (s : State) (core : Nat) (f : Frame) : Option (Option Nat) :=
  match launchOf s (frameLaunch f) with
  | none => none
  | some l => match nextMove s core l with
    | .entry w0 w1 => some (if mvKind w0 = 2 && mvNames f w0 w1 && !mvInline w0 then some (mvSlot w0) else none)
    | _ => none

/-- The lowest Free slot of a queue, unless a PREEMPT in progress names it. -/
def latchSlot (s : State) (core queue : Nat) : Option Nat :=
  match programSlots.find? (fun n => slotFree s core n && (slotAt (coreAt s core) n).owner = queue) with
  | some n => if slotTakes s core n queue then some n else none
  | none => none
/-- CLAIM_LATCH_START: the latched frame starts in the lowest Free slot of its queue; with none, or where a PREEMPT names that slot, it
goes to the deque 18 cycles after it landed. In REPLAY it waits for the slot that its Placement names. -/
def latchStart (s : State) (core : Nat) : State :=
  match (coreAt s core).claim with
  | none => s
  | some (f, at_, _) =>
    let start (s : State) (slot : Nat) : State :=
      startFrame (frameMove (modCore s core (fun k => { k with claim := none })) core f 2 slot false 0) ⟨core, slot⟩ f
    let toDeque (s : State) : State := later s (max s.now (at_ + 18) - s.now) (.latchToDeque core)
    match latchPlace s core f with
    | some (some slot) =>
      if slotTakes s core slot f.queue.toNat then start s slot
      else if preemptNamed s core slot then toDeque s
      else s
    | some none => s
    | none => match latchSlot s core f.queue.toNat with
      | some slot => start s slot
      | none => toDeque s
def execClaimLatchStart (core : Nat) (s : State) : Out := .next (latchStart s core)

/-- LATCH_TO_DEQUE: the frame goes to the newest end of the thief's deque, ready. -/
def latchToDeque (s : State) (core : Nat) : State :=
  match (coreAt s core).claim with
  | none => s
  | some (f, at_, _) =>
    if s.now < at_ + 18 then s
    else if dequeFull (coreAt s core) || s.now < (coreAt s core).dqPush then later s 1 (.latchToDeque core)
    else pushFrame (modCore s core (fun k => { k with claim := none })) core ⟨f, some s.now⟩
def execLatchToDeque (core : Nat) (s : State) : Out := .next (latchToDeque s core)

/-! ### JOIN (R298, R299) -/

/-- The newest ready frame, when the inline rule lets the thread run it. -/
def inlineFrame (s : State) (t : TId) (th : Thread) (a : Word) : Option Frame :=
  match readyFrames s.now (coreAt s t.core) with
  | f :: _ =>
    if f.join = a && frameLaunch f = th.launch && decide (nres th < 6) && decide (th.depth < 65535) && placeOk s t.core f t.slot true
    then some f else none
  | [] => none
/-- REASON 1 of R333: the next entry is an inline Placement of a deque frame of this counter. -/
def joinDiverges (s : State) (core : Nat) (id : BitVec 16) (a : Word) : Option (Launch × Frame) :=
  (launchOf s id).bind (fun l => match nextMove s core l with
    | .entry w0 w1 =>
      if mvKind w0 = 2 && mvInline w0 then
        (((coreAt s core).deque.map DqEnt.f).find? (fun f => f.join = a && mvNames f w0 w1)).map (fun f => (l, f))
      else none
    | _ => none)

/-- The slide into an inline task. -/
def runInline (s : State) (t : TId) (th : Thread) (f : Frame) (a : Word) : State :=
  let args := [f.a0, f.a1, f.a2, f.a3]
  let w := Vector.ofFn (fun i : Fin 48 => if i.val < 32 then th.w[i] else if i.val < 36 then args.getD (i.val - 32) 0 else if i.val = 47 then th.pc else 0)
  let th := slideUp { th with w := w }
  finishAt (setThread (invalidateClean s (clusterOf t.core)) t { th with inlines := (th.depth, a) :: th.inlines }) t f.entry true

/-- Asks the counter's home for its value; the wait counts from the JOIN's issue. -/
def joinAsk (s : State) (th : Thread) (i : Instr) (a : Word) : State :=
  let t := s.cur
  let q := mkReq t th i .join .none a
  let s := farAccess s t th i ⟨.ld, true, true, false, false⟩ q
  modThread s t (fun x => match x.park with
    | some ⟨.far q, none, c⟩ => { x with park := some ⟨.far q, some i, c⟩, latch := some [a], waited := th.waited }
    | _ => { x with latch := some [a], waited := th.waited })

/-- The judgement of the counter has reached the core. -/
def joinJudge (s : State) (th : Thread) (i : Instr) (a v : Word) : State :=
  let t := s.cur
  let core := t.core
  let wait (s : State) : State :=
    modThread (repark s t (.joinWait (.hbm 0) v ((coreAt s core).deque.head?.map DqEnt.f)) (some i)) t (fun th => { th with cont := 3, latch := some [a, v] })
  if v.msb then trap s t ⟨0x24, a, taskInfo (v.toNat % 2 ^ 32) (opOf i) 0 core⟩
  else if v = 0 then
    match joinDiverges s core th.launch a with
    | some (l, f) => trap (diverge s core l false) t ⟨0x60, 0, replayInfo (some f) (opOf i) 1 core⟩
    | none => advance (invalidateClean s (clusterOf core)) t
  else match inlineFrame s t th a with
    | some f =>
      if loadsInto th (th.depth * 32 + 32) (freshHi th) || !canTake s core then
        modThread (repark s t (.until (s.now + 1)) (some i)) t (fun th => { th with cont := 2, latch := some [a, v] })
      else runInline (frameMove (takeFrame s core f) core f 2 t.slot true 0) t th f a
    | none => wait s

/-- A change of the counter at its home ends the wait at once, with its new value (R59); after a change of the deque's head the home is
asked again. -/
def joinAgain (s : State) (th : Thread) (i : Instr) (a v : Word) : State :=
  let t := s.cur
  let x : Xl := ⟨rootOf s th, a, true, false, true, false, false, false, opOf i⟩
  match xlate s t.core x with
  | .ok p _ _ =>
    let now := wordLE (placeRead s p 8)
    if now = v then joinAsk s { th with latch := none } i a else joinJudge s th i a now
  | _ => joinAsk s { th with latch := none } i a

def execJoin (p : Pred) (a : Reg) (s : State) : Out :=
  let i := Instr.join p a
  guarded p s (fun th => operands s th i [a] none (fun s' vs =>
    let c := vs.getD 0 0
    if c = 0 then trap s s.cur ⟨0x24, 0, taskInfo 0 (opOf i) 1 s.cur.core⟩
    else if c.toNat % 8 != 0 then trap s s.cur (misaligned c 8)
    else if th.cont = 2 then joinJudge s th i c (vs.getD 1 0)
    else if th.cont = 3 then joinAgain s th i c (vs.getD 1 0)
    else joinAsk (keeping s' [c]) { th with waited := if th.latch.isNone then 0 else th.waited } i c))

/-! ### YIELD (R301) -/

def execYieldTok (p : Pred) (ck : BitVec 16) (d a : Reg) (s : State) : Out :=
  let i := Instr.yieldTok p ck d a
  guarded p s (fun th => operands s th i [a] none (fun s' vs =>
    tokenArg s i (vs.getD 0 0) (fun tok =>
      match tokenState s (clusterOf s.cur.core) tok with
      | 0 => park (keeping s' vs) s.cur (.token tok) (some i)
      | n => writeLate (keeping s' vs) s.cur th i d (BitVec.ofNat 64 n))))

/-- The word kinds wait as WAITA.cc.64 does. -/
def execYieldWord (p : Pred) (cc : WCond) (near : Bool) (ck : BitVec 16) (a b : Reg) (s : State) : Out :=
  let i := Instr.yieldWord p cc near ck a b
  guarded p s (fun th => operands s th i [a, b] none (fun s' vs =>
    scalarAccess (keeping s' (vs.take 2 ++ [ck.setWidth 64])) s.cur th i ⟨.ld, true, true, false, false⟩ near 8
      { mkReq s.cur th i (.waita cc 8 (vs.getD 1 0)) .none (vs.getD 0 0) with acq := true, scope := if near then .cl else .pkg, total := 24 }))

/-! ### YOKE, UNYOKE, XMOV (R302) -/

def mateReset : Mate := ⟨Vector.replicate 16 0, Vector.replicate 48 0, Vector.replicate 32 0, Vector.replicate 8 0, Vector.replicate 8 false⟩
def execYoke (p : Pred) (d : Reg) (s : State) : Out :=
  guarded p s (fun th => operands s th (.yoke p d) [] (some d) (fun s' _ =>
    let core := s.cur.core
    let m := slotAt (coreAt s core) (mateSlot s.cur.slot)
    if s.cur.slot = 8 then illegalNow s (.yoke p d) 2
    else if th.mate.isNone && s.cur.slot != 0 && m.occ = .free && m.owner = queueOfLaunch th.launch then
      let s' := modCore s' core (fun k => setSlot k (mateSlot s.cur.slot) { m with occ := .withheld })
      setD (modThread s' s.cur (fun th => { th with mate := some mateReset })) d 1
    else setD s' d 0))
def execUnyoke (p : Pred) (s : State) : Out :=
  guarded p s (fun th =>
    if th.mate.isSome then advance (modThread (freeSlot s s.cur.core (mateSlot s.cur.slot)) s.cur (fun th => { th with mate := none })) s.cur
    else advance s s.cur)

/-- The mate's set seen as a thread's own. -/
def asMate (th : Thread) (m : Mate) : Thread := { th with g := m.g, w := m.w, v := m.v, m := m.m, p := m.p }
def ofMate (th : Thread) : Mate := ⟨th.g, th.w, th.v, th.m, th.p⟩
def readAny (s : State) (t : TId) (th : Thread) (r : Reg) : Line :=
  match r with
  | .v _ => readV th r
  | _ => (readReg s t th r).setWidth 512
def writeAny (th : Thread) (r : Reg) (v : Line) : Thread :=
  match r with
  | .v _ => writeV th r v
  | _ => writeOwn th r (v.setWidth 64)
def execXmovFrom (p : Pred) (d a : Reg) (s : State) : Out :=
  guarded p s (fun th => match th.mate with
    | none => illegalNow s (.xmovFrom p d a) 2
    | some m =>
      let m := ((viewOf s s.cur th).mate).getD m
      advance (modThread s s.cur (fun th => writeAny th d (readAny s s.cur (asMate th m) a))) s.cur)
def execXmovTo (p : Pred) (d a : Reg) (s : State) : Out :=
  guarded p s (fun th => match th.mate with
    | none => illegalNow s (.xmovTo p d a) 2
    | some m =>
      let v := readAny s s.cur (viewOf s s.cur th) a
      advance (modThread s s.cur (fun th => { th with mate := some (ofMate (writeAny (asMate th m) d v)) })) s.cur)

/-! ### MIGRATE (R303, R328) -/

/-- The lowest slot of the target that takes a thread of the queue. -/
def migrateSlot (s : State) (target queue : Nat) : Option Nat := (takingSlots s target queue).head?
/-- The refusals that need no word from the target. -/
def migrateRefused (t : TId) (th : Thread) (a : Word) : Bool :=
  let target := a.toNat
  let bound (k : ChKind) : Bool := th.ch.toList.any (fun b => b.kind = k)
  decide (2048 ≤ target) || th.mate.isSome || (bound .nbr && posOf target != posOf t.core)
    || (clusterOf target != clusterOf t.core && (th.cp != 0 || bound .slot || bound .fifo))

def migrateHops (t : TId) (target : Nat) : Nat := hops (clusterOf t.core) (clusterOf target)
/-- The migrating thread may send its context: its stores are complete, and a forwarding entry is free if it needs one. -/
def migrateReady (s : State) (core : Nat) (th : Thread) : Bool := th.st = 0 && (th.ld = 0 || decide ((coreAt s core).forwards.length < 16))
/-- The loads that a migrating thread leaves outstanding take a forwarding entry (R328). -/
def takeForward (s : State) (t : TId) (th : Thread) : State :=
  if th.ld = 0 then s
  else
    let ids := (s.ops.filter (fun o => o.uid = th.uid && o.kind = .ld)).map Op.id
    modCore s t.core (fun k => { k with forwards := k.forwards ++ [⟨th.uid, ids, false⟩] })
/-- st has reached zero: the context is sent in this cycle. -/
def migrateSend (s : State) (t : TId) (th : Thread) : State :=
  modThread (takeForward s t th) t (fun th => { th with release := some s.now })
/-- The cycles from now, beside the 2h of the way, until the context has arrived: 160 + 4h after st reached zero. -/
def migrateDelay (s : State) (t : TId) (th : Thread) (target : Nat) : Nat := th.release.getD s.now + 160 + 2 * migrateHops t target - s.now
/-- MIGRATE's request, or the thread's context, goes to the target by the fabric. -/
def sendContext (s : State) (t : TId) (target wait delay uid : Nat) : State :=
  if clusterOf t.core = clusterOf target then later s (wait + delay) (.contextMessage uid t target)
  else sendFlit s (clusterOf t.core) (clusterOf target) false (posOf target) 0x11 wait delay (.contextMessage uid t target)

/-- MIGRATE. The parts: 2 is undecided with st above 0, 3 undecided with st 0; 4 admitted with st above 0, 7 admitted and on its way; 5
refused, 6 arrived. -/
def execMigrate (p : Pred) (d a : Reg) (s : State) : Out :=
  let i := Instr.migrate p d a
  guarded p s (fun th => operands s th i [a] none (fun s' vs =>
    let t := s.cur
    let target := (vs.getD 0 0).toNat
    let go (s : State) (n : Nat) (why : Why) : State :=
      modThread (repark s t why (some i)) t (fun th => { th with cont := n })
    if th.cont = 5 then writeLate s t th i d 0
    else if th.cont = 6 then writeLate s t th i d 1
    else if th.cont = 2 || th.cont = 4 then
      if !migrateReady s t.core th then go s th.cont (.until (s.now + 1))
      else
        let s := migrateSend s t th
        if th.cont = 2 then go s 3 .event
        else sendContext (go s 7 .event) t target 0 (migrateDelay s t th target) th.uid
    else if migrateRefused t th (vs.getD 0 0) then writeLate (keeping s' vs) t th i d 0
    else
      let s := sendContext (keeping s' vs) t target 12 12 th.uid
      if migrateReady s t.core th then go (migrateSend s t th) 3 .event else go s 2 .drain))

/-- Moves a thread to its new slot: the old slot is Free in the same cycle; loads still outstanding come after it. Between clusters the
thread's own stores go home and stale lines go, so that it keeps its program order. -/
def moveThread (s : State) (t u : TId) (th : Thread) : State :=
  let s := if clusterOf t.core = clusterOf u.core then s else invalidateClean (writeBackAll s (clusterOf t.core)).1 (clusterOf u.core)
  let s := modCore s t.core (fun k => { k with forwards := k.forwards.map (fun f => if f.uid = th.uid then { f with gone := true } else f) })
  let s := leaveSlot s t th
  let s := modCore s t.core (fun k => setSlot k t.slot { slotAt k t.slot with freeAt := s.now })
  placeThread s u th

/-- The thread is parked in MIGRATE. -/
def migrating (th : Thread) : Bool :=
  match th.park.bind Park.retry with
  | some (.migrate _ _ _) => true
  | _ => false
/-- CONTEXT_MESSAGE: the target judges the request, or the context arrives (R303). -/
def contextArrives (s : State) (uid : Nat) (src : TId) (target : Nat) : State :=
  match thread? s src with
  | none => s
  | some th =>
    if th.uid != uid || !migrating th then s
    else
      let wakeAt (s : State) (c n : Nat) : State :=
        modThread s src (fun th => { th with cont := n, park := th.park.map (fun p => { p with why := .until c }) })
      match migrateSlot s target (queueOfLaunch th.launch), th.cont with
      | none, _ => wakeAt (dropForwards s src.core uid) (s.now + 24 + 2 * migrateHops src target) 5
      | some _, 2 => modThread s src (fun th => { th with cont := 4 })
      | some _, 3 => sendContext (modThread s src (fun th => { th with cont := 7 })) src target 0 (migrateDelay s src th target) uid
      | some slot, _ => moveThread s src ⟨target, slot⟩ { th with cont := 6, park := th.park.map (fun p => { p with why := .until s.now }) }
def execContextMessage (uid : Nat) (src : TId) (target : Nat) (s : State) : Out := .next (contextArrives s uid src target)

/-- LOAD_FORWARD: a load that landed at the old core reaches the thread (R328). -/
def loadForward (s : State) (_core id : Nat) : State := endForward (landDone s id) id
def execLoadForward (core id : Nat) (s : State) : Out := .next (loadForward s core id)

/-! ### CHKPT, START and REAP (R304, R305) -/

def execChkpt (p : Pred) (n : BitVec 16) (s : State) : Out :=
  guarded p s (fun th =>
    if th.cont = 1 || !((th.saveDue.map (fun d => !d.blocked)).getD false) then advance s s.cur
    else modThread (park s s.cur (.chkpt n) (some (.chkpt p n))) s.cur (fun th => { th with cont := 1 }))

/-- An instruction reserved to the steward: elsewhere trap 0x07, whatever its predicate holds (R26, R56). -/
def stewardOnly (p : Pred) (s : State) (i : Instr) (f : Thread → State) : Out :=
  if s.cur.slot != 0 then onThread s (fun _ => trap s s.cur ⟨0x07, 0, BitVec.ofNat 64 (opOf i)⟩) else guarded p s f

/-- START: one of slots 1-15 that is Free; the image or frame is read at its address, then the thread starts. -/
def startInto (s : State) (th : Thread) (i : Instr) (s' : State) (vs : List Word) (d : Reg) (size : State → Nat) (go : State → TId → List Byte → State) : State :=
  let slot := (vs.getD 0 0).toNat
  let core := s.cur.core
  let ok := decide (1 ≤ slot) && decide (slot ≤ 15) && slotFree s core slot
  if th.cont = 2 then writeLate s s.cur th i d (vs.getD 2 0)
  else if !ok then writeLate (keeping s' vs) s.cur th i d 0
  else
    let b := vs.getD 1 0
    let x : Xl := ⟨rootOf s th, b, true, false, false, false, false, true, opOf i⟩
    withPage (keeping s' vs) s.cur i x (fun s p _ _ =>
      if th.cont = 0 then
        modThread (park s s.cur (.until (s.now + 24 + farTime (clusterOf core) p false + ceilDiv (size s) 64)) (some i)) s.cur (fun th => { th with cont := 1 })
      else match agentRead s (clusterOf core) (queueOfLaunch th.launch) b (size s) with
        | (s, some bs) => writeLate (go s ⟨core, slot⟩ bs) s.cur th i d 1
        | (s, none) => writeLate s s.cur th i d 0)

/-- The thread that an arbitrary image gives: its launch's registers and its barrier groups with their phases. -/
def startImage (s : State) (t : TId) (bs : List Byte) : State :=
  let base := { newThread s (BitVec.ofNat 16 (ofBytesLE ((bs.drop 18).take 2))) with cp := ofBytesLE ((bs.drop 24).take 1) % 64 }
  let e := ckEntry s t.core base (BitVec.ofNat 16 (ofBytesLE ((bs.drop 16).take 2)))
  let th := imageThread base bs (vecNamed e)
  let s := placeThread s t { th with ready := s.now + 1 }
  let s := restoreData s t.core bs (vecNamed e) (tilesNamed e) (rangesNamed e)
  let s := if th.mate.isSome then modCore s t.core (fun k => setSlot k (mateSlot t.slot) { slotAt k (mateSlot t.slot) with occ := .withheld }) else s
  (imgGroups bs (vecNamed e)).foldl (fun s x =>
    let die := dieOf t.core
    let gr := (findGroup s x.1 die x.2.1).getD (groupReset x.1 die x.2.1)
    setGroup s { gr with members := gr.members ++ [⟨th.uid, x.2.2.1, x.2.2.2, x.2.2.1⟩] }) s

/-- LENGTH of the image at an address of the steward's space. -/
def imageLength (s : State) (th : Thread) (a : Word) : Nat :=
  match (agentRead s (clusterOf s.cur.core) (queueOfLaunch th.launch) a 64).2 with
  | some bs => ofBytesLE ((bs.drop 8).take 8)
  | none => 64
def execStartCtx (p : Pred) (d a b : Reg) (s : State) : Out :=
  let i := Instr.startCtx p d a b
  stewardOnly p s i (fun th => operands s th i [a, b] none (fun s' vs =>
    startInto s th i s' vs d (fun s => imageLength s th (vs.getD 1 0)) startImage))
def execStartFrame (p : Pred) (d a b : Reg) (s : State) : Out :=
  let i := Instr.startFrame p d a b
  stewardOnly p s i (fun th => operands s th i [a, b] none (fun s' vs =>
    startInto s th i s' vs d (fun _ => 64) (fun s t bs => startFrame s t (parseFrame bs))))

/-- A matrix operation that parks its thread (R134). -/
def onEngine (th : Thread) : Bool :=
  match th.park.map Park.why with
  | some (.engine _) => true
  | _ => false
/-- REAP: acts as QUIT without the decrement. -/
def reapThread (s : State) (t : TId) : State :=
  match thread? s t with
  | some th => endThread (dropWaits s th.uid) t th
  | none => s
def execReap (p : Pred) (d a : Reg) (s : State) : Out :=
  let i := Instr.reap p d a
  stewardOnly p s i (fun th => operands s th i [a] none (fun s' vs =>
    let slot := (vs.getD 0 0).toNat
    let t : TId := ⟨s.cur.core, slot⟩
    let victim := if decide (1 ≤ slot) && decide (slot ≤ 15) then thread? s t else none
    let again (s : State) (n c : Nat) : State := modThread (park s s.cur (.until c) (some i)) s.cur (fun th => { th with cont := n })
    if th.cont = 2 then writeLate s s.cur th i d (vs.getD 1 0)
    else if (victim.map onEngine).getD false then again (keeping s' vs) 0 (s.now + 1)
    else if th.cont = 1 then
      let s := if victim.isSome then reapThread s t else s
      writeLate (modThread s s.cur (fun th => { th with cont := 2, latch := some (vs.take 1 ++ [BitVec.ofNat 64 (boolNat victim.isSome)]) })) s.cur th i d
        (BitVec.ofNat 64 (boolNat victim.isSome))
    else again (keeping s' vs) 1 (s.now + 16)))

end Sys2Proof.Machine
end

