-- ==== Sys2Proof/Machine/Rings.lean ====
section
/-! DEFINITION. The device's own view of a queue's address space, byte rings, the event log, notifications and stopped queues
(R368-R372, R411, R419-R423, R439). -/
namespace Sys2Proof.Machine
open Sys2Proof

/-! ### Addresses of descriptors and records (R411) -/

/-- The place that the launch unit finds for a virtual address with the queue's root; none where it is refused. -/
def unitPlace (s : State) (queue : Nat) (va : Word) (write : Bool) : Option Place :=
  let x : Xl := ⟨(queueAt s queue).root.toNat, va, !write, write, false, false, false, false, 0⟩
  if !canonical va then none
  else match walk s x.root va with
    | .bad _ _ _ => none
    | .leaf e lvl =>
      if (leafJudge x e lvl).isSome then none
      else match entAp e with
        | 0 => localPlace (leafAddr e lvl va)
        | 1 =>
          let ent := (look (windowFrame e lvl va) (peerAt s (entPkg e)).exports).getD 0
          if (exportJudge x ent e lvl).isSome then none
          else some (.peer (entPkg e) (entFrame ent * 65536 + va.toNat % 65536))
        | _ => some (.host (leafAddr e lvl va))

/-- The places of a span, one for each 64 KiB page it meets, with the bytes on that page. -/
def unitPages (s : State) (queue : Nat) (va : Word) (n : Nat) (write : Bool) : Option (List (Place × Nat)) :=
  let first := min n (65536 - va.toNat % 65536)
  let pages := (List.range ((va.toNat % 65536 + n + 65535) / 65536)).map (fun i =>
    if i = 0 then (va, first) else (BitVec.ofNat 64 ((va.toNat / 65536 + i) * 65536), min 65536 (n - first - (i - 1) * 65536)))
  pages.foldr (fun x acc => match acc, unitPlace s queue x.1 write with
    | some l, some p => some ((p, x.2) :: l)
    | _, _ => none) (some [])
def unitSpan (s : State) (queue : Nat) (va : Word) (n : Nat) (write : Bool) : Bool := (unitPages s queue va n write).isSome
def unitRead (s : State) (queue : Nat) (va : Word) (n : Nat) : Option (List Byte) :=
  (unitPages s queue va n false).map (fun l => l.flatMap (fun x => placeRead s x.1 x.2))
/-- Writes bytes at their homes; none, with nothing written, where a page is refused. -/
def unitWrite (s : State) (queue : Nat) (va : Word) (bs : List Byte) : Option State :=
  (unitPages s queue va bs.length true).map (fun l =>
    (l.foldl (fun (acc : State × List Byte) x => (homeWrite acc.1 x.1 (acc.2.take x.2), acc.2.drop x.2)) (s, bs)).1)

/-! ### Notifications (R421-R423) -/

def raiseMsix (s : State) (q : Nat) : State := modQueue s q (fun k => { k with msixRaised := k.msixRaised + 1 })
def notifyRing (s : State) (q : Nat) : Option Ring :=
  if (queueAt s q).notify = 0 then none else (unitRead s q (queueAt s q).notify 64).bind parseRing
/-- A notification that waits can be written. -/
def noteRoom (s : State) (q : Nat) : Bool :=
  ((notifyRing s q).map (fun r => ringRoom r 64)).getD false

/-- The thread of an ESCALATION record and whether it stays held. -/
def noteThread (n : Note) : Option TId :=
  if n.kind = 0x21 && (n.body.getD 31 0).getLsbD 1 = false then
    some ⟨ofBytesLE ((n.body.drop 24).take 2), (n.body.getD 26 0).toNat⟩
  else none
/-- The first notification of the queue is written; after an ESCALATION without HELD the steward reaps its thread. -/
def writeNote (s : State) (q : Nat) : State :=
  match (queueAt s q).notes, notifyRing s q with
  | n :: rest, some r =>
    if !ringRoom r 64 then s
    else
      let bs := bytesLE (n.kind.toNat * 2 ^ 24 + 64) 8 ++ n.body
      match layRecord r (queueAt s q).notify.toNat (bs.take 64) (fun s a b => unitWrite s q (BitVec.ofNat 64 a) b) s with
      | none => s
      | some s =>
        let s := modQueue s q (fun k => { k with notes := rest })
        match noteThread n with
        | some t => if ((thread? s t).bind Thread.stopped).isSome then reapThread s t else s
        | none => s
  | _, _ => s
/-- The waiting notifications go to the ring in order, as far as it has room. -/
def drainNotes (s : State) (q : Nat) : State :=
  let n := (queueAt s q).notes.length
  let s := (List.range n).foldl (fun s _ => writeNote s q) s
  let m := (queueAt s q).notes.length
  if m != 0 && (decide (m < n) || n = 1) then raiseMsix s q else s

/-- The ESCALATION records of the windows that are over: by core and window, then by position, then by slot, LAST on the
final one. With no notification ring the thread stays stopped and the vector is raised. DESIGN CHOICE (97): a steward's own escalation
has nobody to report it, and the steward stays stopped. -/
def closeWindows (s : State) : State :=
  let due := s.escal.filter (fun e => decide (e.cycle / 16 < s.now / 16))
  let due := sortBy (fun e => ((e.cycle / 16 * 2048 + e.t.core) * 16 + e.cycle % 16) * 16 + e.t.slot) due
  let s := { s with escal := s.escal.filter (fun e => !decide (e.cycle / 16 < s.now / 16)) }
  (due.zip (List.range due.length)).foldl (fun s x =>
    let e := x.1
    let q := queueOfLaunch e.launch
    let last := match due[x.2 + 1]? with
      | some f => f.t.core != e.t.core || f.cycle / 16 != e.cycle / 16
      | none => true
    let held := (queueAt s q).eschold
    if e.t.slot = 0 then s
    else if (queueAt s q).notify = 0 then raiseMsix s q
    else modQueue s q (fun k => { k with notes := k.notes ++ [⟨0x21, escalBody e.t e.cycle e.pc e.ti e.launch (boolNat last + 2 * boolNat held)⟩] })) s

/-- NOTIFICATION_WRITE. -/
def execNotificationWrite (q : Nat) (s : State) : Out := .next (drainNotes (closeWindows s) q)

/-! ### Stopped queues (R419) -/

/-- STATUS of a queue (R410). -/
def queueStatus (k : Queue) : Word :=
  BitVec.ofNat 64 (k.offset.toNat * 2 ^ 32 + k.detail.toNat * 2 ^ 16 + k.err.toNat * 256
    + (if k.stopped then 2 else if k.enable then 1 else 0))
/-- QUEUE_STOP: the first error stops a running queue, is notified and raises the vector. -/
def stopQueue (s : State) (q err detail offset : Nat) : State :=
  let k := queueAt s q
  if k.stopped || !k.enable then s
  else
    let k := { k with stopped := true, err := BitVec.ofNat 8 err, detail := BitVec.ofNat 16 detail, offset := BitVec.ofNat 32 offset }
    raiseMsix (addNote (setQueue s q k) q 0x20 (leBytes 8 (queueStatus k) ++ zeros 48)) q

end Sys2Proof.Machine
end

