-- ==== Sys2Proof/Machine/Fabric.lean ====
section
/-! DEFINITION. The fabric: the message torus, link retries and link frames, die bridges and the host link, accesses and snoops
of the host, and page walks, peer translation and its invalidation (R261, R264-R266, R376-R395, R398, R412, R441). -/
namespace Sys2Proof.Machine
open Sys2Proof

/-! ### The torus (R386-R389) -/

/-- The router that a port leads to; N is one row up, E one column on (R6, R237). Ports: 0 N, 1 E, 2 S, 3 W. -/
def torusNext (r port : Nat) : Nat :=
  let x := r % 16
  let y := r / 16
  match port with
  | 0 => (y + 7) % 8 * 16 + x
  | 1 => y * 16 + (x + 1) % 16
  | 2 => (y + 1) % 8 * 16 + x
  | _ => y * 16 + (x + 15) % 16
/-- The port on which a flit arrives that left by `port`. -/
def arrivePort (port : Nat) : Nat := (port + 2) % 4
/-- The ports that shorten the distance: x before y, + before −. -/
def productive (r d : Nat) : List Nat :=
  let dx := (d % 16 + 16 - r % 16) % 16
  let dy := (d / 16 + 8 - r / 16) % 8
  (if dx = 0 then [] else if dx < 8 then [1] else if dx = 8 then [1, 3] else [3])
    ++ (if dy = 0 then [] else if dy < 4 then [2] else if dy = 4 then [2, 0] else [0])
/-- The cluster of a router (R6). -/
def routerCluster (r : Nat) : Nat := (r / 16 / 4 * 4 + r % 16 / 4) * 16 + r / 16 % 4 * 4 + r % 16 % 4
/-- The requests in the input queue of a flit's unit: those at the fabric's port of the cluster's banks; any other unit of this model
takes a message as it comes. -/
def unitWaiting (s : State) (f : Flit) : Nat :=
  if f.hdr.dunit = 16 then ((clusterAt s (routerCluster f.hdr.drouter)).ports.filter (fun r => r.port = 18)).length else 0
/-- A unit accepts replies always, and requests while its input queue is not full (R389). -/
def unitAccepts (s : State) (f : Flit) : Bool := f.reply || unitWaiting s f = 0 || decide (unitWaiting s f < Config.unitQueue f.hdr.dunit)
/-- The port a flit takes, of those not taken: 4 is ejection. -/
def choosePort (s : State) (r : Nat) (f : Flit) (taken : List Nat) : Option Nat :=
  ((if f.hdr.drouter = r then (if unitAccepts s f then [4] else []) else productive r f.hdr.drouter) ++ [0, 1, 2, 3]).find? (fun p => p ∉ taken)

/-- A flit leaves by a port: ejected, it is delivered; else it reaches the next router 2 cycles later. -/
def takePort (s : State) (r : Nat) (f : Flit) (p : Nat) : State :=
  if p = 4 then later { s with flits := s.flits.filter (fun x => x.id != f.id) } f.delay f.deliver
  else
    let f' := { f with hdr := { f.hdr with age := min 4095 (f.hdr.age + 1) }, router := torusNext r p, inPort := arrivePort p, readyAt := s.now + 2, waiting := 0 }
    { s with flits := s.flits.map (fun x => if x.id = f.id then f' else x) }

/-- The flits that stand at a router's inputs of a plane, oldest first (R388). -/
def arrivals (s : State) (reply : Bool) (r : Nat) : List Flit :=
  sortBy (fun f => ((4095 - f.hdr.age) * 128 + f.hdr.srouter) * 4 + f.inPort)
    (s.flits.filter (fun f => f.reply = reply && f.router = r && f.inPort != 4 && decide (f.readyAt ≤ s.now)))
/-- The flit that waits longest for injection. -/
def nextInjection (s : State) (reply : Bool) (r : Nat) : Option Flit :=
  oldest Flit.readyAt (s.flits.filter (fun f => f.reply = reply && f.router = r && f.inPort = 4 && decide (f.readyAt ≤ s.now)))
/-- No router injects for 64 cycles after a starvation, nor while a router is under test (R389, R436). -/
def injectStopped (s : State) : Bool :=
  s.starved.isSome || s.tests.any (fun x => x.u = .router && decide (s.now < x.busyUntil))

/-- FLIT_ROUTE: ranked flits take their ports, then a local flit is injected into a port left free. -/
def routeFlits (s : State) (reply : Bool) (r : Nat) : State :=
  let step (acc : State × List Nat) (f : Flit) : State × List Nat :=
    match choosePort acc.1 r f acc.2 with
    | some p => (takePort acc.1 r f p, p :: acc.2)
    | none => acc
  let acc := (arrivals s reply r).foldl step (s, [])
  if injectStopped s then acc.1
  else match nextInjection s reply r with
    | some f => match choosePort acc.1 r f acc.2 with
      | some p => takePort acc.1 r f p
      | none => { acc.1 with flits := acc.1.flits.map (fun x => if x.id = f.id then { x with waiting := x.waiting + 1 } else x) }
    | none => acc.1
def execFlitRoute (reply : Bool) (router : Nat) (s : State) : Out := .next (routeFlits s reply router)

/-- An injection of this router has found no free port for 128 cycles. -/
def starving (s : State) (r : Nat) : Bool := s.flits.any (fun f => f.router = r && f.inPort = 4 && decide (128 ≤ f.waiting))
/-- STARVATION_START: the package's line is raised. -/
def execStarvationStart (router : Nat) (s : State) : Out :=
  .next (if starving s router && s.starved.isNone then { s with starved := some (s.now + 64) } else s)
/-- STARVATION_END. -/
def execStarvationEnd (s : State) : Out :=
  .next (match s.starved with
    | some c => if c ≤ s.now then { s with starved := none } else s
    | none => s)

/-- A transfer that its source sends again when no answer comes (R393): a request, or the answer that a resend is given again. -/
def resentBySource (e : Instr) : Bool :=
  match e with
  | .reply _ _ _ | .acknowledgement _ _ _ => true
  | e => (reqOf e).isSome
/-- Flits lost with a spared lane: requests are resent at their timeout; any other message starts again from its source then. -/
def loseFlits (s : State) (ids : List Nat) : State :=
  { s with flits := s.flits.filterMap (fun f =>
      if f.id ∉ ids then some f
      else if resentBySource f.deliver then none
      else some { f with hdr := { f.hdr with age := 0 }, router := f.hdr.srouter, inPort := 4, readyAt := s.now + 16384, waiting := 0 }) }

/-- FLIT_CRC_RETRY: a flit on a link fails its CRC and is resent, 2 cycles later; after 8 failed resends the lane is spared and
the flits of the 2-flit latch are lost (R390). The error sends the link to its test (R436). -/
def crcRetry (s : State) (id : Nat) : State :=
  match s.flits.find? (fun f => f.id = id && f.inPort != 4) with
  | none => s
  | some f =>
    let lane := f.router * 4 + f.inPort
    if f.waiting < 8 then
      logEvent { s with flits := s.flits.map (fun x => if x.id = id then { x with readyAt := x.readyAt + 2, waiting := x.waiting + 1 } else x) } 4 0 0 0 lane 0
    else
      let latched := (s.flits.filter (fun x => x.router = f.router && x.inPort = f.inPort && x.reply = f.reply && x.id != id)).take 1
      logEvent { loseFlits s (id :: latched.map Flit.id) with spared := if lane ∈ s.spared then s.spared else s.spared ++ [lane] } 4 1 0 0 lane 0
def execFlitCrcRetry (id : Nat) (s : State) : Out := .next (crcRetry s id)

/-! ### External links (R398) -/

/-- LINK_FRAME: a frame whose tag holds advances the counter and its flits go on; one whose tag fails is discarded and resent,
and 8 failures in a row take the port down with the flits it carried. The frame that uses the counter up raises an event. -/
def linkFrame (s : State) (port : Nat) (tagOk : Bool) (ids : List Nat) : State :=
  let k := port * 2
  let d := linkAt s k
  if d.key.isNone || d.down || 24 ≤ port || counterEnd ≤ d.counter then s
  else if tagOk then
    let s := setLink s k { d with counter := d.counter + 1, failures := 0 }
    let s := if d.counter + 1 = counterEnd then logEvent s 4 1 0 0 port 0 else s
    { s with flits := s.flits.map (fun f => if f.id ∈ ids then { f with readyAt := s.now } else f) }
  else if d.failures + 1 < 8 then setLink s k { d with failures := d.failures + 1 }
  else logEvent (loseFlits (setLink s k { d with failures := 8, down := true }) ids) 4 1 0 0 port 0
def execLinkFrame (port : Nat) (tagOk : Bool) (flits : List Nat) (s : State) : Out := .next (linkFrame s port tagOk flits)

/-! ### Die bridges and the host link (R261, R264) -/

/-- DIE_BRIDGE_TRANSFER: the boundary carries the waiting transfers in order of arrival, then of source cluster. -/
def bridgeCycle (s : State) (src dst : Nat) : State :=
  let cap := if s.now % 3 = 0 then 84 else 83
  let due := s.bridges.filter (fun x => x.at_ = (src, dst) && decide (x.ready ≤ s.now))
  let go := (sortBy (fun x => x.ready * 4096 + x.src) due).take cap
  go.foldl (fun s x =>
    let s := { s with bridges := s.bridges.erase x }
    match x.path with
    | [] => later s (30 + x.delay) x.then_
    | n :: r => { s with bridges := s.bridges ++ [{ x with at_ := (dst, n), ready := s.now + 30, path := r }] }) s
def execDieBridgeTransfer (src dst : Nat) (s : State) : Out := .next (bridgeCycle s src dst)

/-- HOST_LINK_TRANSFER: the outbound direction accepts 10 or 11 transfers a cycle, the dies in rotating order from t mod 8 (R264); the
host die's unit takes those of one cycle in order of source die (R231). -/
def hostLinkCycle (s : State) : State :=
  let cap := if s.now % 3 = 2 then 10 else 11
  let due := s.hostLink.filter (fun x => decide (x.ready ≤ s.now))
  let turn (d : Nat) : List (Nat × Transfer) :=
    let mine := sortBy (fun x => x.ready) (due.filter (fun x => x.at_.1 = d))
    (mine.zip (List.range mine.length)).map (fun x => (x.2 * 8 + (d + 8 - s.now % 8) % 8, x.1))
  let go := sortBy (fun x => x.at_.1) (((sortBy Prod.fst ((List.range 8).flatMap turn)).take cap).map Prod.snd)
  go.foldl (fun s x => later { s with hostLink := s.hostLink.erase x } x.delay x.then_) s
def execHostLinkTransfer (s : State) : Out := .next (hostLinkCycle s)

/-- The ranges of up to 64 bytes, each within one line, of a host access; a read of one line names no bytes. -/
def hostRanges (addr : Nat) (data : List Byte) : List (Nat × List Byte) :=
  (List.range ((addr % 64 + data.length + 63) / 64)).map (fun i =>
    if i = 0 then (addr, data.take (64 - addr % 64)) else ((addr / 64 + i) * 64, (data.drop (64 * i - addr % 64)).take 64))
/-- HOST_CXL_MEM_ACCESS: the host's read or write of the package's HBM takes its place at each channel that it reaches, as a host-link
arrival; no cluster cache sees it (R266). -/
def execHostCxlMemAccess (write : Bool) (addr : Nat) (data : List Byte) (s : State) : Out :=
  .next (if 2 ^ 40 < addr + max 1 data.length then s
    else if write then (hostRanges addr data).foldl (fun s x => queueChannel s x.1 (.host x.1 x.2)) s
    else queueChannel s addr (.host addr []))

/-- HOST_SNOOP: the host die writes back and invalidates the AP=10 line in every cluster cache that holds it (R265). -/
def execHostSnoop (line : Nat) (s : State) : Out :=
  .next (s.clusters.foldl (fun s x => if (findLine x.2 (.host (line * 64))).isSome then writeBack s x.1 (.host (line * 64)) true else s) s)

/-! ### Page walks (R380, R441) -/

/-- The parked thread's translation is settled. -/
def wakeWith (s : State) (t : TId) (w : Why) : State := modThread s t (fun th => { th with park := th.park.map (fun p => { p with why := w }) })
/-- What a parked thread translates, and the leaf of an AP=01 page for which a peer is asked. -/
def translating (s : State) (t : TId) : Option (Xl × Option (Word × Nat)) :=
  match ((thread? s t).bind Thread.park).map Park.why with
  | some (.translation x leaf) => some (x, leaf)
  | _ => none
/-- A leaf is granted, refused, or needs the peer's answer; only a granted one enters the TLBs (R381). -/
def leafFound (s : State) (t : TId) (x : Xl) (e : Word) (lvl : Nat) : State :=
  match settle s (clusterOf t.core) x e lvl with
  | .refuse ti => wakeWith s t (.trapNow ti)
  | .peerMiss pkg fr =>
    askPeer (modThread s t (fun th => { th with park := th.park.map (fun p => { p with why := .translation x (some (e, lvl)), since := s.now }) })) t pkg fr
  | _ => wakeWith (fillTlb s t.core x.root x.va e lvl) t (.until s.now)
/-- WALK_COMPLETE: also the answer of the cluster TLB. -/
def walkComplete (s : State) (t : TId) : State :=
  match translating s t with
  | none | some (_, some _) => s
  | some (x, none) => match tlbHit (clusterAt s (clusterOf t.core)).tlb x.root x.va with
    | some e => leafFound s t x e.leaf e.level
    | none => match walk s x.root x.va with
      | .bad r e lvl => wakeWith s t (.trapNow (xlTrap x 0x10 r (e.toNat % 65536) lvl))
      | .leaf e lvl => leafFound s t x e lvl
def execWalkComplete (t : TId) (s : State) : Out := .next (walkComplete s t)

/-! ### Peer pages (R383-R385) -/

/-- The agent records a holder; when full it first invalidates its least recently granted record. -/
def addHolder (s : State) (h : Holder) : State :=
  let rest := s.holders.filter (fun x => !(x.pkg = h.pkg && x.cluster = h.cluster && x.frame = h.frame))
  if rest.length < 65536 then { s with holders := rest ++ [h] }
  else match oldest Holder.granted rest with
    | some v => sendPeer { s with holders := rest.filter (fun x => x ≠ v) ++ [h] } 0 v.pkg (.invalidation s.pkg v.cluster v.frame 1)
    | none => { s with holders := rest ++ [h] }
/-- TRANSLATION_REQUEST: at this package's agent the export entry is read at its home, the peer's cluster becomes a holder, and the entry
is sent back; a request of this package is answered by the peer's agent. -/
def execTranslationRequest (incoming : Bool) (pkg cluster frame : Nat) (t : TId) (s : State) : Out :=
  .next (if incoming then sendPeer (addHolder s ⟨pkg, cluster, frame, s.now⟩) 0 pkg (.translationReply cluster s.pkg frame (exportEntry s frame) t)
    else later s 1400 (.translationReply cluster pkg frame ((look frame (peerAt s pkg).exports).getD 0) t))
/-- TRANSLATION_REPLY: the access is judged by the export entry; only a granted one fills the TLBs (R381). -/
def translationReply (s : State) (g pkg frame : Nat) (entry : Word) (t : TId) : State :=
  match translating s t with
  | some (x, some (e, lvl)) =>
    if entPkg e != pkg || windowFrame e lvl x.va != frame then s
    else match exportJudge x entry e lvl with
      | some ti => wakeWith s t (.trapNow ti)
      | none => wakeWith (fillPeer (fillTlb s t.core x.root x.va e lvl) g x.root pkg frame entry) t (.until s.now)
  | _ => s
def execTranslationReply (cluster pkg frame : Nat) (entry : Word) (t : TId) (s : State) : Out :=
  .next (translationReply s cluster pkg frame entry t)

/-- An access of a cluster to a peer's frame is not complete: a thread's, or a copy's. -/
def peerBusy (s : State) (pkg g frame : Nat) : Bool :=
  let at_ (p : Place) : Bool := match p with
    | .peer k a => k = pkg && a / 65536 = frame
    | _ => false
  let hit (q : MemReq) : Bool := clusterOf q.src.core = g && (placesOf q).any (fun y => at_ y.place)
  s.ops.any (fun o => (o.q.map hit).getD false) || (clusterAt s g).copies.any (copyUses at_)
    || (allThreads s).any (fun x => match x.2.park.map Park.why with
      | some (.far q) => hit q
      | _ => false)
/-- INVALIDATION: the cluster drops its peer TLB entries of the exporter's window frames; its copies look such pages up again. Once the
accesses that the entries translated are complete it acknowledges. -/
def execInvalidation (pkg cluster first count : Nat) (s : State) : Out :=
  let hit (e : PeerTlbEnt) : Bool := e.pkg = pkg && decide (first ≤ e.frame) && decide (e.frame < first + count)
  let gone := (clusterAt s cluster).peerTlb.filter hit
  let s := modCluster s cluster (fun cl => { cl with peerTlb := cl.peerTlb.map (fun e => if hit e then { e with dead := true } else e) })
  let s := (gone.map PeerTlbEnt.root).eraseDups.foldl (fun s root =>
    relookCopies s cluster root (fun lo n => gone.any (fun e => e.root = root && e.pages.any (fun y => decide (y * 65536 < lo + n) && decide (lo < y * 65536 + 65536))))) s
  .next (if gone.any (fun e => peerBusy s pkg cluster (entFrame e.entry)) then later s 1 (.invalidation pkg cluster first count)
    else sendPeer (modCluster s cluster (fun cl => { cl with peerTlb := cl.peerTlb.filter (fun e => !hit e) })) cluster pkg
      (.invalidationAck s.pkg cluster first count false))

/-- No holder of a frame range is left. -/
def rangeFree (s : State) (r : Nat × Nat) : Bool := s.holders.all (fun h => decide (h.frame < r.1) || decide (r.1 + r.2 ≤ h.frame))
/-- AGENT_INVAL returns OK once the last acknowledgement is in (R412). -/
def settleInval (s : State) : State :=
  match s.inval with
  | some r => if rangeFree s r then { s with inval := none, boot := { s.boot with busy := false, mailbox := 0 } } else s
  | none => s
/-- INVALIDATION_ACK: at this package's agent the acknowledgement or the release of a peer's cluster removes its holder records. -/
def execInvalidationAck (pkg cluster first count : Nat) (_release : Bool) (s : State) : Out :=
  .next (settleInval { s with holders := s.holders.filter (fun h =>
    !(h.pkg = pkg && h.cluster = cluster && decide (first ≤ h.frame) && decide (h.frame < first + count))) })

/-- Mailbox status: 0 OK, 1 BUSY, 2 ERROR (R412). -/
def mailStatus (s : State) (n : Nat) : State := { s with boot := { s.boot with mailbox := n } }
/-- A command of R412: BUSY before READY (R427) and while another is in progress. -/
def mailCommand (s : State) (k : State) : State := if !s.boot.ready || s.boot.busy then mailStatus s 1 else k

/-- EXPORT_SET. -/
def execExportSet (addr : Word) (s : State) : Out := .next (mailCommand s (mailStatus { s with exportTable := addr } 0))
/-- AGENT_INVAL: an invalidation goes to every holder of the frames. -/
def execAgentInval (first count : Nat) (s : State) : Out :=
  let s' : State := { s with inval := some (first, count), boot := { s.boot with busy := true, mailbox := 1 } }
  .next (mailCommand s (settleInval (sendInvals s' (fun h => decide (first ≤ h.frame) && decide (h.frame < first + count)))))

end Sys2Proof.Machine
end

