-- ==== Sys2Proof/Machine/Wake.lean ====
section
/-! DEFINITION. Wakes and waits: when a parked thread's condition holds, how it goes on, what counts against scr.waitlim and the
trap at its limit (R37, R59, R60, R131, R133, R141, R142, R241, R242). -/
namespace Sys2Proof.Machine
open Sys2Proof

/-! ### Wake conditions (R59, R141) -/

/-- The counter that a thread at 63 waits for: 0 ld, 1 st, 2 cp, 3 tl. -/
def counterOf (th : Thread) : Nat → Nat
  | 0 => th.ld
  | 1 => th.st
  | 2 => th.cp
  | _ => th.tl

/-- The queue of a channel's waiting read or write, with the words that the instruction needs; a core pops and pushes once in a cycle
(R238). -/
def chReady (s : State) (t : TId) (th : Thread) (retry : Option Instr) (n : Nat) (write : Bool) : Bool :=
  let c : Fin 8 := ⟨n % 8, Nat.mod_lt _ (by decide)⟩
  let need := max 1 (((retry.map (fun i => ((usesOf i).rd.filterMap chOf).count c)).getD 1))
  match chQueue s t th c write with
  | some q =>
    if write then chFree s q != 0 && decide ((coreAt s t.core).chPush ≤ s.now)
    else decide (need ≤ (readyWords s q).length) && decide ((coreAt s t.core).chPop ≤ s.now)
  | none => false

/-- The threads of one launch in one slot number of a cluster. DESIGN CHOICE (104): a thread that an escalation has stopped is not live,
though it still holds its slot. -/
def alignSet (s : State) (t : TId) (th : Thread) : List (TId × Thread) :=
  (List.range 16).filterMap (fun i =>
    let u : TId := ⟨clusterOf t.core * 16 + i, t.slot⟩
    match thread? s u with
    | some x => if x.launch = th.launch && x.stopped.isNone then some (u, x) else none
    | none => none)
def alignDone (s : State) (t : TId) (th : Thread) (k : BitVec 16) : Bool :=
  (alignSet s t th).all (fun x => (x.2.park.map Park.why) = some (.align k))
/-- The threads of a completed set wake in one cycle. -/
def releaseAlign (s : State) (t : TId) (th : Thread) : State :=
  (alignSet s t th).foldl (fun s x => modThread s x.1 (fun th => { th with park := th.park.map (fun p => { p with why := .until s.now }) })) s

/-- The counter of a JOIN as its home now holds it. -/
def joinWord (s : State) (t : TId) (th : Thread) : Option Word :=
  match xlate s t.core ⟨rootOf s th, (th.latch.getD []).getD 0 0, true, false, true, false, false, false, 0x388⟩ with
  | .ok p _ _ => some (wordLE (placeRead s p 8))
  | _ => none

/-- The wake condition of a parked thread holds now. -/
def wakeNow (s : State) (t : TId) (th : Thread) (pk : Park) : Bool :=
  let g := clusterOf t.core
  let k := coreAt s t.core
  match pk.why with
  | .presence rs _ => rs.all (fun r => r ∉ th.absent)
  | .far _ | .homeWait _ | .translation _ _ | .engine _ | .chkpt _ | .event | .line => false
  | .replied _ _ | .trapNow _ | .engineDone _ => true
  | .pageHeld root va => !s.pageHolds.any (fun h => h.root = root && decide (h.lo ≤ va.toNat % 2 ^ 57) && decide (va.toNat % 2 ^ 57 < h.hi))
  | .engineQueue => !engineFull s t.core
  | .copyQueue => !copyQueueFull s g
  | .waitCnt l st c tl => waitOk th l st c tl
  | .arrive pg die n => match findGroup s pg die n with
    | some gr => match member? gr th.uid with
      | some m => leadOk s gr m
      | none => true
    | none => true
  | .bwait pg die n p _ => phaseDone s pg die n p
  | .token n => !pendingTok s g n
  | .frwait tile n => frwaitOk (tileAt k tile) n
  | .chRead n => chReady s t th pk.retry n false
  | .chWrite n => chReady s t th pk.retry n true
  | .counter i => decide (counterOf th i < 63)
  | .align n => alignDone s t th n
  | .dequeSpill => !dequeFull k || spillImpossible s t.core
  | .drain => th.st = 0 && decide (th.release.getD 0 ≤ s.now)
  | .loadsLand lo hi => !loadsInto th lo hi
  | .framePresent lo => !th.absent.any (fun r => match r with
    | .w a => decide (lo ≤ a) && decide (a < lo + 32)
    | _ => false)
  | .opsDone ids => allDone s ids
  | .joinWait _ v head => (k.deque.head?.map DqEnt.f) != head || (match joinWord s t th with
    | some w => w != v
    | none => true)
  | .until c => decide (c ≤ s.now)

/-! ### Counted waits (R133, R141, R142) -/

/-- A wait on full/empty state or on a word, JOIN's on its counter, or one at a FIFO bank. -/
def waitsAtHome : HomeOp → Bool
  | .ldfe | .ldff | .stfe _ | .waita _ _ _ | .join | .fifoPush _ | .fifoPop => true
  | _ => false
/-- The park counts against scr.waitlim. -/
def counted (pk : Park) : Bool :=
  match pk.why with
  | .presence _ _ | .engineQueue | .copyQueue | .waitCnt _ _ _ _ | .arrive _ _ _ | .bwait _ _ _ _ _ | .frwait _ _
  | .chRead _ | .chWrite _ | .joinWait _ _ _ | .framePresent _ => true
  | .homeWait q => waitsAtHome q.op
  | .far q => waitsAtHome q.op && q.tag != 2
  | .token _ => match pk.retry with
    | some (.cwait _ _ _) | some (.yieldTok _ _ _ _) => true
    | _ => false
  | .until _ => match pk.retry with
    | some (.join _ _) => true
    | _ => false
  | _ => false

/-- The core's engine holds an entry of a thread. -/
def engineHolds (s : State) (uid : Nat) : Bool :=
  s.cores.any (fun x => (x.2.engine.queue ++ x.2.engine.active).any (fun e => e.uid = uid))
/-- A member that has not arrived at a phase holds an entry of its core's engine (R133). -/
def lateEngine (s : State) (gr : Group) (p : BitVec 32) : Bool := gr.members.any (fun m => !phaseLe p m.phase && engineHolds s m.uid)
/-- The phase for which a BAR waits at the lead limit. -/
def barPhase (th : Thread) (gr : Group) : BitVec 32 := ((member? gr th.uid).map (fun m => m.phase + 1)).getD 0
def isBar : Option Instr → Bool
  | some (.bar _ _ _) => true
  | _ => false
/-- The wait count stands still in this cycle. -/
def paused (s : State) (t : TId) (th : Thread) (pk : Park) : Bool :=
  match pk.why with
  | .bwait pg die n p _ => ((findGroup s pg die n).map (fun gr => lateEngine s gr p)).getD false
  | .arrive pg die n => isBar pk.retry && ((findGroup s pg die n).map (fun gr => lateEngine s gr (barPhase th gr))).getD false
  | .homeWait q => match q.place with
    | .near g off => match liveBank (clusterAt s g) (off / 2 ^ 17) with
      | some b => bankTesting s g b
      | none => false
    | _ => false
  | .engineQueue => s.tests.any (fun x => x.u = .engine && x.die * 256 + x.cluster * 16 + x.index = t.core && decide (s.now < x.busyUntil))
  | _ => false
/-- The wait cannot be over yet: a withdrawal is on its way, or a near operation has not reached its bank's judgement (R223). -/
def limitLater (s : State) (th : Thread) (pk : Park) : Bool :=
  match pk.why with
  | .far _ => th.cont = 8
  | .homeWait q => judgedOp q.op && !(waitersOf s (homeOf s q.place)).any (fun w => w.q.uid = q.uid && w.q.opId = q.opId)
  | _ => false
/-- The count has reached LIMIT. -/
def atLimit (s : State) (th : Thread) (pk : Park) : Bool :=
  let limit := th.scr.waitlim.toNat % 2 ^ 32
  counted pk && limit != 0 && decide (limit ≤ th.waited) && !limitLater s th pk

/-! ### Trap 0x20 (R242) -/

def limitInfo (value num : Nat) (arr fes : Bool) (kind op : Nat) : Word :=
  BitVec.ofNat 64 (value % 2 ^ 32 * 2 ^ 32 + num * 2 ^ 16 + boolNat arr * 2 ^ 15 + boolNat fes * 2 ^ 14 + kind * 2 ^ 10 + op)
/-- A wait at a home, with the word and the state last seen there. -/
def homeLimit (q : MemReq) (value : Nat) (full : Bool) : TrapInfo :=
  match q.op with
  | .ldfe | .ldff | .stfe _ => ⟨0x20, q.va, limitInfo 0 0 false full 0 q.opc⟩
  | .waita _ _ _ => if q.opc = 0x389 then ⟨0x20, 0, limitInfo 0 0 false false 7 q.opc⟩ else ⟨0x20, q.va, limitInfo value 0 false false 1 q.opc⟩
  | _ => ⟨0x20, 0, limitInfo 0 0 false false 7 q.opc⟩
def limitTrap (s : State) (th : Thread) (pk : Park) : TrapInfo :=
  let op := (pk.retry.map opOf).getD 0
  let plain (kind num : Nat) : TrapInfo := ⟨0x20, 0, limitInfo 0 num false false kind op⟩
  match pk.why with
  | .presence _ op => ⟨0x20, 0, limitInfo 0 0 false false 7 op⟩
  | .far q | .homeWait q => homeLimit q (ofBytesLE (placeRead s q.place (opBytes q.op))) (feFull s q.place)
  | .waitCnt _ _ _ _ => plain 2 0
  | .arrive pg die n =>
    let ph := (((findGroup s pg die n).bind (fun gr => member? gr th.uid)).map (fun m => (m.phase + 1).toNat)).getD 0
    if isBar pk.retry then ⟨0x20, 0, limitInfo ph (boolNat pg * 64 + n) false false 4 op⟩ else plain 3 (boolNat pg * 64 + n)
  | .bwait pg _ n p arr => ⟨0x20, 0, limitInfo p.toNat (boolNat pg * 64 + n) arr false 4 op⟩
  | .chRead n => plain 5 n
  | .chWrite n => plain 6 n
  | _ => plain 7 0

/-- A far wait still held by its release, or on its way. -/
def stillHeld (s : State) (uid : Nat) : Bool := s.held.any (fun h => h.uid = uid && ((reqOf h.act).map MemReq.parked).getD false)
/-- WAIT_LIMIT: the waiting instruction takes trap 0x20 with no effect; a far wait sends a withdrawal and takes it when the
answer lands. -/
def limitReached (s : State) (t : TId) : State :=
  match thread? s t with
  | none => s
  | some th => match th.park with
    | none => s
    | some pk =>
      let far := match pk.why with
        | .far q => if q.op != HomeOp.join && !stillHeld s th.uid then some q else none
        | _ => none
      match far with
      | some q => sendTo (modThread s t (fun th => { th with cont := 8 })) (clusterOf t.core) q.place 4 0 (.withdrawal q)
      | none =>
        let ti := limitTrap s th pk
        let th' := match pk.why with
          | .far q | .homeWait q => setDest th q.dest
          | _ => th
        trap (setThread (dropWaits s th.uid) t { th' with ready := s.now + 1, barArr := none }) t ti
def execWaitLimit (t : TId) (s : State) : Out := .next (limitReached s t)

end Sys2Proof.Machine
end

