-- ==== Sys2Proof/Machine/Save.lean ====
section
/-! DEFINITION. Saving and restoring threads, their wakes, and the balancing of slot owners (R37, R59, R60, R131, R186,
R313-R316, R321-R327). -/
namespace Sys2Proof.Machine
open Sys2Proof

/-! ### Save-due threads (R316, R321, R322) -/

/-- The thread becomes save-due; its deadline is the queue's from now on (R411). -/
def markDue (s : State) (t : TId) (held : Bool) : State :=
  modThread s t (fun th =>
    match th.saveDue with
    | some d => { th with saveDue := some { d with held := d.held || held } }
    | none => { th with saveDue := some ⟨s.now, held, false, s.now + (queueAt s (queueOfLaunch th.launch)).deadline, false, none⟩ })

/-- What a save does with a parked thread (R186, R322, R354). -/
inductive SaveMove where
  | running                        -- not parked: the thread resumes at its next instruction
  | reissue                        -- the wait ends with no effect, and the instruction issues again
  | release                        -- ALIGN: the park ends as though timed out
  | withdraw (q : MemReq)          -- a far wait is withdrawn at its home first
  | later                          -- the operation completes first
deriving DecidableEq, Repr

def saveMove (s : State) (th : Thread) : SaveMove :=
  match th.park with
  | none => .running
  | some pk => match pk.why with
    | .align _ => .release
    | .homeWait q => if waitsAtHome q.op && !limitLater s th pk then .reissue else .later
    | .engineQueue => (match pk.retry with
      | some (.digestT _ _ _) => .later
      | _ => .reissue)
    | .presence _ _ | .pageHeld _ _ | .copyQueue | .waitCnt _ _ _ _ | .arrive _ _ _ | .bwait _ _ _ _ _
    | .frwait _ _ | .chRead _ | .chWrite _ | .counter _ | .dequeSpill | .joinWait _ _ _ | .framePresent _ => .reissue
    | .token _ => if counted pk then .reissue else .later
    | .far q => if waitsAtHome q.op && q.op != HomeOp.join then (if stillHeld s th.uid then .reissue else if th.cont = 9 then .later else .withdraw q) else .later
    | _ => .later

/-- The live-range entry of a thread that is parked in YIELD (R301). -/
def yieldEntry (th : Thread) : Option (BitVec 16) :=
  th.park.bind (fun pk => match pk.why, pk.retry with
    | .token _, some (.yieldTok _ ck _ _) => some ck
    | .far q, _ | .homeWait q, _ => if q.opc = 0x389 then some (((th.latch.getD []).getD 2 0).setWidth 16) else none
    | _, _ => none)
/-- The entry of a due CHKPT. -/
def chkptEntry (th : Thread) : Option (BitVec 16) :=
  th.park.bind (fun pk => match pk.why with
    | .chkpt n => some n
    | _ => none)
def isFrwait (th : Thread) : Bool :=
  match th.park.map Park.why with
  | some (.frwait _ _) => true
  | _ => false

/-- Begins a save with an entry: waits end, and the thread stands still until its counts are zero. -/
def beginSave (s : State) (t : TId) (ck : BitVec 16) (reissue : Bool) : State :=
  match thread? s t with
  | none => s
  | some th =>
    let plan : SavePlan := ⟨ck, reissue, reissue && th.barArr.isSome, isFrwait th, none⟩
    let s := unpop (dropWaits { s with views := s.views.filter (fun x => x.t != t) } th.uid) t
    modThread s t (fun th =>
      let th := match th.park.map Park.why with
        | some (.homeWait q) | some (.far q) => setDest th q.dest
        | _ => th
      { th with park := some ⟨.event, none, s.now⟩, latch := none, cont := 0, release := none
                saveDue := th.saveDue.map (fun d => { d with plan := some plan }) })

/-- A save at the deadline. -/
def saveNow (s : State) (t : TId) (th : Thread) (ck : BitVec 16) : State :=
  match saveMove s th with
  | .running => beginSave s t ck false
  | .reissue => beginSave s t ck true
  | .release => beginSave (advance s t) t ck false
  | .withdraw q => sendTo (modThread s t (fun th => { th with cont := 9 })) (clusterOf t.core) q.place 4 0 (.withdrawal q)
  | .later => s

/-! ### The save pool (R323) -/

/-- The lowest room for n bytes in a pool of len bytes. -/
def poolFit (used : List (Nat × Nat)) (n len : Nat) : Nat → Nat → Option Nat
  | 0, _ => none
  | fuel + 1, at_ =>
    if len < at_ + n then none
    else match used.find? (fun u => decide (u.1 < at_ + n) && decide (at_ < u.1 + u.2)) with
      | some u => poolFit used n len fuel ((u.1 + u.2 + 63) / 64 * 64)
      | none => some at_
def poolRoom (k : Queue) (n : Nat) : Option Nat := poolFit k.poolUsed n k.savelen (k.poolUsed.length + 1) 0

/-- The near ranges as they stand: bytes and state bits. -/
def readRanges (s : State) (g : Nat) (rs : List (Nat × Nat)) : List (Nat × List Byte × List Bool) :=
  rs.map (fun r => (r.1, placeRead s (.near g r.1) r.2, (List.range (r.2 / 8)).map (fun i => feFull s (.near g (r.1 + 8 * i)))))

/-- What the steward writes for a thread that stands still. -/
def savedImage (s : State) (t : TId) (th : Thread) (p : SavePlan) :
    Option CkEntry × List (Nat × Tile) × List (Nat × List Byte × List Bool) × List Byte :=
  let e := ckEntry s t.core th p.ckent
  let tiles := (tilesNamed e).map (fun n => (n, tileAt (coreAt s t.core) n))
  let ranges := readRanges s (clusterOf t.core) (rangesNamed e)
  (e, tiles, ranges, imageBytes s t e p.ckent th th.pc (imageState p.reissue p.barHalf th.mate.isSome p.frwait) tiles ranges)

/-- The save pool has no room, or cannot be reached: the thread runs on, and the save is tried again at the next balancing
step. Once the deadline has passed the queue's system software is told. -/
def poolRefused (s : State) (t : TId) (th : Thread) (d : SaveDue) (code : Nat) : State :=
  let q := queueOfLaunch th.launch
  let tell := decide (d.deadline ≤ s.now)
  let d := { d with plan := none, blocked := true, full := d.full || tell, deadline := if tell then s.now + (queueAt s q).deadline else d.deadline }
  let s := setThread s t { th with saveDue := some d, park := none, ready := s.now + 1 }
  if tell then schedNote s q code t.core 0 else s

/-- The counts are zero: the image has its place in the pool, and the save completes 16 + ⌈L / 64⌉ cycles and one far store
later. -/
def placeSave (s : State) (t : TId) (th : Thread) (d : SaveDue) (p : SavePlan) : State :=
  let q := queueOfLaunch th.launch
  let img := (savedImage s t th p).2.2.2
  match poolRoom (queueAt s q) img.length with
  | none => poolRefused s t th d 0
  | some off =>
    let a := (queueAt s q).savepool + BitVec.ofNat 64 off
    match unitPlace s q a true, unitSpan s q a img.length true with
    | some pl, true =>
      let s := modQueue s q (fun k => { k with poolUsed := k.poolUsed ++ [(off, img.length)] })
      let s := setThread s t { th with saveDue := some { d with plan := some { p with image := some (off, img.length) } } }
      later s (16 + ceilDiv img.length 64 + farTime (clusterOf t.core) pl false) (.threadSave t)
    | _, _ => poolRefused s t th d 3

/-- The save is complete: its accesses happen-before those after the restore (R271), so dirty lines go home; the image stands in the pool, the slot is Free, and the thread joins its queue's saved threads. -/
def finishSave (s : State) (t : TId) (th : Thread) (d : SaveDue) (p : SavePlan) (off len : Nat) : State :=
  let q := queueOfLaunch th.launch
  let (e, tiles, ranges, img) := savedImage s t th p
  match unitWrite s q ((queueAt s q).savepool + BitVec.ofNat 64 off) img with
  | none => poolRefused (modQueue s q (fun k => { k with poolUsed := k.poolUsed.filter (fun u => u.1 != off) })) t th d 3
  | some s =>
    let sv : Saved :=
      { uid := th.uid, queue := q, thread := { th with saveDue := none, park := none }, home := t
        ckent := if e.isNone then 0xFFFF else p.ckent, vec := vecNamed e, cpAt := th.cp, frwait := p.frwait, tiles := tiles
        ranges := ranges, image := off, length := len, held := d.held, doneAt := s.now }
    let s := (writeBackAll (leaveSlot s t th) (clusterOf t.core)).1
    { s with saved := sortBy (fun x => (x.doneAt * 2048 + x.home.core) * 16 + x.home.slot) (s.saved ++ [sv]) }

/-- THREAD_SAVE: a save's next stage: its beginning at a CHKPT or a YIELD, its image once the counts are zero, its end. -/
def threadSave (s : State) (t : TId) : State :=
  match thread? s t with
  | none => s
  | some th => match th.saveDue with
    | none => s
    | some d => match d.plan with
      | some p => match p.image with
        | some (off, len) => finishSave s t th d p off len
        | none => if th.ld = 0 && th.st = 0 && th.tl = 0 then placeSave s t th d p else s
      | none =>
        if d.blocked then s
        else match chkptEntry th, yieldEntry th with
          | some n, _ => beginSave (advance s t) t n false
          | none, some n => saveNow s t th n
          | none, none => s
def execThreadSave (t : TId) (s : State) : Out := .next (threadSave s t)

/-- SAVE_DEADLINE: from now on the thread is saved in full at the first moment that R322 allows; a save that the pool has
refused is reported again. -/
def saveDeadline (s : State) (t : TId) : State :=
  match thread? s t with
  | none => s
  | some th => match th.saveDue with
    | none => s
    | some d =>
      if d.plan.isSome then s
      else if d.blocked then
        if d.deadline ≤ s.now then
          let code := if (unitPlace s (queueOfLaunch th.launch) (queueAt s (queueOfLaunch th.launch)).savepool true).isSome then 0 else 3
          schedNote (setThread s t { th with saveDue := some { d with full := true, deadline := s.now + (queueAt s (queueOfLaunch th.launch)).deadline } })
            (queueOfLaunch th.launch) code t.core 0
        else s
      else saveNow (setThread s t { th with saveDue := some { d with full := true } }) t th 0xFFFF
def execSaveDeadline (t : TId) (s : State) : Out := .next (saveDeadline s t)

/-- A save-due thread that stands at a deadline has something to do now. -/
def deadlineActs (s : State) (th : Thread) : Bool :=
  match th.saveDue with
  | some d => d.plan.isNone && th.stopped.isNone &&
      (if d.blocked then decide (d.deadline ≤ s.now) else (d.full || decide (d.deadline ≤ s.now)) && saveMove s th != .later)
  | none => false
/-- A save-due thread's save has a next stage now, other than its deadline and its end. -/
def saveActs (s : State) (th : Thread) : Bool :=
  match th.saveDue with
  | some d => th.stopped.isNone && (match d.plan with
      | some p => p.image.isNone && th.ld = 0 && th.st = 0 && th.tl = 0
      | none => !d.blocked && ((chkptEntry th).isSome || ((yieldEntry th).isSome && saveMove s th != .later)))
  | none => false

/-- The answer to a withdrawal that a save sent (R322). -/
def savedAnswer (s : State) (t : TId) (th : Thread) (q : MemReq) : State :=
  let full := (th.saveDue.map SaveDue.full).getD true
  let s := modThread s t (fun th => setDest { th with barArr := none } q.dest)
  beginSave s t (if full then 0xFFFF else if q.opc = 0x389 then ((th.latch.getD []).getD 2 0).setWidth 16 else 0xFFFF) true

/-! ### Restoring (R327) -/

def bindsTo (th : Thread) (k : ChKind) : Bool := th.ch.toList.any (fun b => b.kind = k)
/-- A member of a group that some home watches. -/
def watchedMember (s : State) (uid : Nat) : Bool := s.groups.any (fun gr => (member? gr uid).isSome && watchHomes s gr != [])
/-- The rows of R327 that name cores and slots; a yoked thread also needs its mate slot. -/
def permitted (s : State) (x : Saved) (core slot : Nat) : Bool :=
  let th := x.thread
  let home := x.home.core
  (!x.frwait || core = home)
    && (!watchedMember s x.uid || (core = home && slot = x.home.slot))
    && (!bindsTo th .nbr || posOf core = posOf home)
    && (!(bindsTo th .slot || bindsTo th .fifo || x.cpAt != 0) || clusterOf core = clusterOf home)
    && (x.tiles = [] || core = home || !hasProgram (coreAt s core))
    && x.ranges.all (fun r => (List.range (r.2.1.length / 8)).all (fun i => (nearFault (clusterAt s (clusterOf core)) (r.1 + 8 * i) (.data 8 true)).isNone))
    && (match launchOf s th.launch with
      | some l => replayMode l.lrec = 0 || core = home
      | none => true)
def mateOk (s : State) (x : Saved) (core slot : Nat) : Bool :=
  x.thread.mate.isNone || (slot != 8 && slotTakes s core (mateSlot slot) x.queue)
/-- The slot of a core that takes a saved thread now. -/
def restoreSlot (s : State) (x : Saved) (core : Nat) : Option Nat :=
  let ok (n : Nat) : Bool := slotTakes s core n x.queue && permitted s x core n && mateOk s x core n
  if ok x.home.slot then some x.home.slot else programSlots.find? ok
/-- The cores in the order in which they are offered a saved thread: its home, the steal order, then the rest. -/
def restoreOrder (home : Nat) : List Nat :=
  let near := home :: victims home
  near ++ (List.range 2048).filter (fun c => c ∉ near)
/-- The image of a saved thread can be read. -/
def imageReadable (s : State) (x : Saved) : Bool :=
  unitSpan s x.queue ((queueAt s x.queue).savepool + BitVec.ofNat 64 x.image) x.length false
/-- The oldest saved thread of a queue that some core can take, with its place. -/
def restoreDue (s : State) : Option (Saved × TId) :=
  (s.saved.filter (fun x => !x.held && imageReadable s x)).findSome? (fun x =>
    (restoreOrder x.home.core).findSome? (fun c => (restoreSlot s x c).map (fun n => (x, ⟨c, n⟩))))

/-- THREAD_RESTORE: the thread is started from its image and is eligible 24 cycles after the image has been read. -/
def restoreThread (s : State) (queue uid : Nat) (t : TId) : State :=
  match s.saved.find? (fun x => x.queue = queue && x.uid = uid && !x.held) with
  | none => s
  | some x =>
    if !(slotTakes s t.core t.slot queue && permitted s x t.core t.slot && mateOk s x t.core t.slot) then s
    else
      let a := (queueAt s queue).savepool + BitVec.ofNat 64 x.image
      match unitPlace s queue a false, unitRead s queue a x.length with
      | some pl, some bs =>
        let th := imageThread x.thread bs x.vec
        let s := { s with saved := s.saved.filter (fun y => y.uid != uid) }
        let s := modQueue s queue (fun k => { k with poolUsed := k.poolUsed.filter (fun u => u.1 != x.image) })
        let s := placeThread (invalidateClean s (clusterOf t.core)) t { th with ready := s.now + farTime (clusterOf t.core) pl false + ceilDiv x.length 64 + 24 }
        let s := restoreData s t.core bs x.vec (x.tiles.map Prod.fst) (x.ranges.map (fun r => (r.1, r.2.1.length)))
        if th.mate.isSome then modCore s t.core (fun k => setSlot k (mateSlot t.slot) { slotAt k (mateSlot t.slot) with occ := .withheld }) else s
      | _, _ => s
def execThreadRestore (queue uid : Nat) (t : TId) (s : State) : Out := .next (restoreThread s queue uid t)

/-! ### Waking (R59, R131) -/

def parkedInJoin (th : Thread) : Bool :=
  match th.park.bind Park.retry with
  | some (.join _ _) => true
  | _ => false

/-- The parked instruction takes a deferred fault in place of its completion or of its own fault (R131, R424); one that parked before
its issue takes it at its issue. DEDUCED (22): an instruction that has begun its last part completes. -/
def takesDeferred (th : Thread) (pk : Park) : Bool :=
  th.deferred != [] && (decide (th.cont < 2) || parkedInJoin th) && (match pk.why with
    | .presence _ _ | .counter _ | .dequeSpill => false
    | _ => true)
/-- The thread goes on with the instruction that parked it, or issues again. -/
def goOn (s : State) (t : TId) (pk : Park) : State :=
  let s := modThread s t (fun th => { th with park := none })
  match pk.retry with
  | some i => { s with resume := some (t, i) }
  | none => s

/-- THREAD_WAKE: the thread is eligible from the next cycle. -/
def wakeThread (s : State) (t : TId) : State :=
  match thread? s t with
  | none => s
  | some th => match th.park with
    | none => s
    | some pk =>
      let s := match pk.why with
        | .align _ => releaseAlign s t th
        | _ => s
      let s := setThread s t { th with ready := s.now + 1 }
      match takesDeferred th pk, th.deferred with
      | true, ti :: rest =>
        let th' := { th with ready := s.now + 1, deferred := rest, barArr := none }
        let th' := match pk.why with
          | .replied q _ => setDest th' q.dest
          | _ => th'
        trap (setThread s t th') t ti
      | _, _ =>
        match pk.why with
        | .trapNow ti => trap s t ti
        | .replied q r =>
          if r.withdrawn && th.cont = 9 then savedAnswer s t th q
          else completeFar s t q r (homeLimit q r.data.toNat (r.flags.getLsbD 0))
        | .engineDone (some ti) => trap s t ti
        | .engineDone none => if pk.retry.isSome then goOn s t pk else advance s t
        | _ => goOn s t pk
def execThreadWake (t : TId) (s : State) : Out := .next (wakeThread s t)

/-- ALIGN_TIMEOUT: 256 cycles after its issue the park ends. -/
def execAlignTimeout (t : TId) (s : State) : Out :=
  .next (match thread? s t with
    | some th => match th.park with
      | some pk => (match pk.why with
        | .align _ => if pk.since + 256 ≤ s.now then goOn (modThread s t (fun th => { th with ready := s.now + 1 })) t pk else s
        | _ => s)
      | none => s
    | none => s)

/-- FORFEIT_END: at a cycle of the thread's own position its forfeit count falls to 0. -/
def execForfeitEnd (t : TId) (s : State) : Out :=
  .next (modThread s t (fun th => if th.forfeit = 1 then { th with forfeit := 0, ready := max th.ready (s.now + 1) } else th))

/-! ### Balancing (R314, R315) -/

/-- A queue has demand on a core. -/
def demand (s : State) (core q : Nat) : Bool :=
  let k := coreAt s core
  (coreThreads core k).any (fun x => x.1.slot != 0 && queueOfLaunch x.2.launch = q)
    || (lyingFrames s core).any (fun f => f.queue.toNat = q)
    || s.launches.any (fun l => l.queue = q && launchWaits s core l)
    || s.saved.any (fun x => x.queue = q && !x.held && programSlots.any (fun n => permitted s x core n))

/-- The slots each queue of the highest class receives (R315). -/
def shares (s : State) (qs : List Nat) : List (Nat × Nat) :=
  let w := (qs.map (fun q => (queueAt s q).weight)).foldl (fun a b => a + b) 0
  let base := qs.map (fun q => (q, 15 * (queueAt s q).weight / w))
  let left := 15 - (base.map Prod.snd).foldl (fun a b => a + b) 0
  (base.zip (List.range base.length)).map (fun x => (x.1.1, x.1.2 + boolNat (x.2 < left)))

def lookN (l : List (Nat × Nat)) (k : Nat) : Nat := (look k l).getD 0
/-- The new owners of slots 1-15, as (slot, owner). -/
def newOwners (s : State) (core : Nat) : List (Nat × Nat) :=
  let k := coreAt s core
  let dm := (List.range 64).filter (demand s core)
  if dm = [] then []
  else
    let c := dm.foldl (fun a q => max a (queueAt s q).cls) 0
    let sh := shares s (dm.filter (fun q => (queueAt s q).cls = c))
    let keep := programSlots.foldl (fun (acc : List Nat × List (Nat × Nat)) n =>
      let o := (slotAt k n).owner
      if lookN acc.2 o < lookN sh o then (acc.1 ++ [n], put o (lookN acc.2 o + 1) acc.2) else acc) ([], [])
    let rest := programSlots.filter (fun n => n ∉ keep.1)
    let order := rest.filter (fun n => (slotAt k n).occ = .free) ++ rest.filter (fun n => (slotAt k n).occ ≠ .free)
    (order.foldl (fun (acc : List (Nat × Nat) × List (Nat × Nat)) n =>
      match sh.find? (fun x => lookN acc.2 x.1 < x.2) with
      | some x => (acc.1 ++ [(n, x.1)], put x.1 (lookN acc.2 x.1 + 1) acc.2)
      | none => acc) ([], keep.2)).1

/-- A core rewrites its owner fields; a thread whose slot changes its owner becomes save-due (R316). -/
def balanceCore (s : State) (core : Nat) : State :=
  (newOwners s core).foldl (fun s x =>
    let old := slotAt (coreAt s core) x.1
    if old.owner = x.2 then s
    else
      let s := modCore s core (fun k => setSlot k x.1 { old with owner := x.2 })
      match old.occ with
      | .busy _ => markDue s ⟨core, x.1⟩ false
      | .withheld => markDue s ⟨core, mateSlot x.1⟩ false
      | .free => s) s

/-- The cores on which a queue may have demand. -/
def balancedCores (s : State) : List Nat :=
  if s.saved.any (fun x => !x.held) || s.launches.any (fun l => !l.ended) then List.range 2048 else s.cores.map Prod.fst
/-- Saves that the pool refused are tried again (R323). DESIGN CHOICE (96): in full, at the first moment that R322 allows, since the
thread has run on past the point at which the refused save stood. -/
def retrySaves (s : State) : State :=
  (allThreads s).foldl (fun s x => modThread s x.1 (fun th => { th with saveDue := th.saveDue.map (fun d => if d.blocked then { d with blocked := false, full := true } else d) })) s
/-- Every core rewrites its owner fields at once. -/
def balanceAll (s : State) : State := (balancedCores s).foldl balanceCore s

end Sys2Proof.Machine
end

