-- ==== Sys2Proof/Machine/Validate.lean ====
section
/-! DEFINITION. The bytes of a record, the fields of a LAUNCH record, and its validation (R146-R152, R159, R369, R419). -/
namespace Sys2Proof.Machine
open Sys2Proof

/-! ### Bytes of a record -/

def recByte (bs : List Byte) (i : Nat) : Nat := (bs.getD i 0).toNat
def recNum (bs : List Byte) (i n : Nat) : Nat := ofBytesLE ((bs.drop i).take n)
def recKind (bs : List Byte) : Nat := recByte bs 3
def recAddr (bs : List Byte) : Word := BitVec.ofNat 64 (recNum bs 8 8)
def recValue (bs : List Byte) : Word := BitVec.ofNat 64 (recNum bs 16 8)

/-- The fields of a LAUNCH record (R146). -/
def parseLaunch (bs : List Byte) : LaunchRec :=
  let n (i k : Nat) : Nat := recNum bs i k
  let w (i : Nat) : Word := BitVec.ofNat 64 (recNum bs i 8)
  { entry := w 8, ext := Vector.ofFn (fun i => n (16 + 4 * i.val) 4), tile := Vector.ofFn (fun i => n (32 + 2 * i.val) 2)
    dieLo := n 40 1, dieHi := n 41 1, clLo := n 42 1, clHi := n 43 1, posLo := n 44 1, posHi := n 45 1
    nthreads := n 46 1, nstages := n 47 1, stages := Vector.ofFn (fun i => n (48 + 2 * i.val) 2), queue := n 62 1
    flags := BitVec.ofNat 8 (n 63 1), preload := w 64, writeback := w 72, npre := n 80 2, nwb := n 82 2
    watch := BitVec.ofNat 16 (n 84 2), doneAddr := w 88, doneVal := w 96, seed := w 104, step := BitVec.ofNat 32 (n 112 4)
    moveList := w 120, bankMap := Vector.ofFn (fun i => BitVec.ofNat 8 (n (128 + i.val) 1)), nearImg := w 160, nearLen := n 168 4
    ckptTab := w 176, args := Vector.ofFn (fun i => w (192 + 8 * i.val)) }

/-! ### The bank map (R148, R159) -/

def mapByte (m : Vector Byte 32) (b : Nat) : Nat := (m.toList.getD b 0).toNat
def mapMode (m : Vector Byte 32) (b : Nat) : Nat := mapByte m b / 32
def mapSlot (m : Vector Byte 32) (b : Nat) : Nat := mapByte m b % 32
def mapLive (m : Vector Byte 32) (b : Nat) : Bool := mapMode m b = 1 || mapMode m b = 2 || mapMode m b = 3
def bankNums : List Nat := List.range 32

/-- The map's fault at bank b: a reserved mode, a slot of a CACHE byte, a slot that a later bank names too, or a SHADOW of a slot
that no bank holds. -/
def mapFault (m : Vector Byte 32) (b : Nat) : Bool :=
  decide (5 ≤ mapMode m b) || (mapMode m b = 0 && mapSlot m b != 0)
    || (mapLive m b && bankNums.any (fun c => decide (b < c) && mapLive m c && mapSlot m c = mapSlot m b))
    || (mapMode m b = 4 && !bankNums.any (fun c => (mapMode m c = 1 || mapMode m c = 2) && mapSlot m c = mapSlot m b))

/-- A cluster's map: an entry that asks a mode of an OFF bank moves to the lowest CACHE entry of a bank that is not OFF; or the
bank for which there is none. -/
def movedMap (cl : Cluster) (m : Vector Byte 32) : Except Nat (Vector Byte 32) :=
  let off (b : Nat) : Bool := (cl.banks.toList.getD b bankReset).mode = .off
  (bankNums.filter off).foldl (fun acc b => match acc with
    | .error b => .error b
    | .ok m =>
      if mapMode m b = 0 then .ok m
      else match bankNums.find? (fun c => !off c && mapMode m c = 0) with
        | some c => .ok ((m.setIfInBounds c (BitVec.ofNat 8 (mapByte m b))).setIfInBounds b 0)
        | none => .error b) (.ok m)

/-! ### Malformed records (R159, R419) -/

def launchPkg (r : LaunchRec) : Bool := r.watch.getLsbD 6
def launchJoins (r : LaunchRec) : Bool := r.watch.getLsbD 8
def launchWtp (r : LaunchRec) : Bool := r.watch.getLsbD 9
/-- The ranges of the core set name cores. -/
def rangesOk (r : LaunchRec) : Bool :=
  decide (r.dieLo ≤ r.dieHi) && decide (r.dieHi ≤ 7) && decide (r.clLo ≤ r.clHi) && decide (r.clHi ≤ 15)
    && decide (r.posLo ≤ r.posHi) && decide (r.posHi ≤ 15)
/-- The stages after the first that the record names. -/
def laterStages (r : LaunchRec) : List Nat := (List.range (r.nstages - 1)).map (fun i => i + 1)
def stagesRise (r : LaunchRec) : Bool := (laterStages r).all (fun st => decide (firstRank r (st - 1) < firstRank r st))
def stagesInside (r : LaunchRec) : Bool := (laterStages r).all (fun st => decide (firstRank r st < setSize r))
/-- The cores of a stage. -/
def stageCores (r : LaunchRec) (st : Nat) : Nat := (if st + 1 < r.nstages then firstRank r (st + 1) else setSize r) - firstRank r st
def stageFaults (r : LaunchRec) : List (Bool × Nat) :=
  let named := decide (1 ≤ r.nstages) && decide (r.nstages ≤ 8)
  (laterStages r).map (fun st => (named && decide (firstRank r st ≤ firstRank r (st - 1)), max 48 (44 + 2 * st)))
    ++ [(named && rangesOk r && !stagesInside r, 40),
        (named && (r.stages.toList.drop (r.nstages - 1)).any (fun x => x != 0), 47),
        (named && rangesOk r && stagesRise r && stagesInside r && r.tile.toList.all (fun x => x != 0)
          && (List.range r.nstages).any (fun st => decide (stageCores r st < tileTotal r)), 16)]

/-- Every check of a LAUNCH record with the offset it reports. -/
def launchFaults (s : State) (q : Nat) (bs : List Byte) : List (Bool × Nat) :=
  let r := parseLaunch bs
  let zero (i n : Nat) : Bool := recNum bs i n = 0
  (List.range 4).map (fun i => (decide (r.tile.toList.getD i 0 = 0), 32 + 2 * i))
    ++ [(decide (7 < r.dieHi), 41), (decide (r.dieHi < r.dieLo), 40), (decide (15 < r.clHi), 43), (decide (r.clHi < r.clLo), 42),
        (decide (15 < r.posHi), 45), (decide (r.posHi < r.posLo), 44),
        (r.nthreads = 0 || decide (15 < r.nthreads), 46), (r.nstages = 0 || decide (8 < r.nstages), 47),
        (r.queue != q, 62), (r.flags.extractLsb' 4 4 != 0 || replayMode r = 3, 63),
        (replayMode r != 0 && (r.moveList = 0 || r.moveList.toNat % 64 != 0), 63),
        (r.watch.extractLsb' 10 6 != 0 || (launchPkg r && decide (15 < (r.watch.extractLsb' 0 6).toNat)) || (launchWtp r && !r.watch.getLsbD 7), 84),
        ((r.watch.getLsbD 7 || launchJoins r) && !launchPkg r && r.dieLo != r.dieHi, 40),
        (!zero 86 2, 86), (!zero 116 4, 116), (!zero 172 4, 172), (!zero 184 8, 184),
        (r.doneAddr.toNat % 8 != 0, 88), (decide (2 ^ 22 < r.nearLen), 168)]
    ++ stageFaults r
    ++ bankNums.map (fun b => (mapFault r.bankMap b, 128 + b))
    ++ (if rangesOk r then (clusterSet r).filterMap (fun g => match movedMap (clusterAt s g) r.bankMap with
        | .error b => some (true, 128 + b)
        | .ok _ => none) else [])

/-- The lowest offset among the faults of a record. -/
def lowest (l : List (Bool × Nat)) : Option Nat :=
  l.foldl (fun acc x => if x.1 then some (match acc with
    | some m => min m x.2
    | none => x.2) else acc) none
/-- DETAIL of a malformed LAUNCH record. -/
def launchMalformed (s : State) (q : Nat) (bs : List Byte) : Option Nat := lowest (launchFaults s q bs)

end Sys2Proof.Machine
end

