-- ==== Sys2Proof/Machine/Queue.lean ====
section
/-! DEFINITION. Host queues: their registers, doorbells, and the launch unit's taking of records; WAITREC, SIGNAL, COND, FENCE
and PREEMPT (R410-R420, R425, R426, R433). -/
namespace Sys2Proof.Machine
open Sys2Proof

/-! ### The ring as the launch unit sees it (R368, R413) -/

def queueRing (s : State) (q : Nat) : Option Ring :=
  let a := (queueAt s q).ring
  if a.toNat % 64 != 0 then none else (unitRead s q a 64).bind parseRing
def running (k : Queue) : Bool := k.enable && !k.stopped && !k.disabling
/-- The bytes that the launch unit has still to consume. -/
def pending (k : Queue) : Nat := (k.prod + 2 ^ 64 - k.cons) % 2 ^ 64
/-- Stops a queue at its record at CONS. -/
def stopHere (s : State) (q err detail : Nat) : State := stopQueue s q err detail ((queueAt s q).cons % 2 ^ 32)
/-- Takes CONS and PROD from the ring's header. -/
def readHeader (s : State) (q : Nat) : State :=
  match queueRing s q with
  | some r => modQueue s q (fun k => { k with cons := r.cons, prod := r.prod })
  | none => stopHere s q 0x0B 0xFFFF

/-! ### Registers (R410, R411, R413, R420, R433) -/

/-- QUEUE_ENABLE: ignored before READY (R430). -/
def enableQueue (s : State) (q : Nat) : State :=
  let k := queueAt s q
  if 64 ≤ q || !s.boot.ready || k.enable then s
  else readHeader (setQueue s q { k with enable := true, stopped := false, err := 0, detail := 0, offset := 0, skip := 0 }) q
def execQueueEnable (q : Nat) (s : State) : Out := .next (enableQueue s q)

/-- QUEUE_DISABLED: every record already taken has completed. -/
def queueDisabled (s : State) (q : Nat) : State :=
  if (queueAt s q).disabling && s.taken.all (fun r => r.queue != q) then
    modQueue s q (fun k => { k with enable := false, disabling := false, stopped := false })
  else s
def execQueueDisabled (q : Nat) (s : State) : Out := .next (queueDisabled s q)
/-- QUEUE_DISABLE: no further record is taken. -/
def disableQueue (s : State) (q : Nat) : State :=
  if (queueAt s q).enable then queueDisabled (modQueue s q (fun k => { k with disabling := true })) q else s
def execQueueDisable (q : Nat) (s : State) : Out := .next (disableQueue s q)

/-- QUEUE_RESUME: a stopped queue reads its ring's header again and runs. -/
def resumeQueue (s : State) (q : Nat) : State :=
  if (queueAt s q).stopped then readHeader (modQueue s q (fun k => { k with stopped := false, err := 0, detail := 0, offset := 0 })) q else s
def execQueueResume (q : Nat) (s : State) : Out := .next (resumeQueue s q)

/-- The levels in force after a write of PCTL with FORCE. -/
def forceLevels (p : Power) : Power := if p.force && !p.thermal then { p with gate := p.fGate, mduty := p.fMduty } else p
/-- A write of PCTL; a reserved value is ignored. -/
def writePctl (s : State) (v : Word) : State :=
  let cap := (v.extractLsb' 32 16).toNat
  let m := (v.extractLsb' 8 3).toNat
  if v.extractLsb' 48 16 != 0 || v.extractLsb' 16 16 != 0 || v.extractLsb' 11 4 != 0 || v.extractLsb' 3 5 != 0 || cap < 1000 || 4500 < cap || m = 7
  then s
  else { s with power := forceLevels { s.power with cap := cap, force := v.getLsbD 15, fGate := (v.extractLsb' 0 3).toNat, fMduty := m } }

/-- REGISTER_WRITE: reserved values, and RING, ROOT, SAVEPOOL, SAVELEN and NOTIFY of an enabled queue, are ignored. -/
def writeRegister (s : State) (q : Nat) (r : HostReg) (v : Word) : State :=
  let k := queueAt s q
  let fixed (k' : Queue) : State := if k.enable then s else setQueue s q k'
  if r = .pctl then writePctl s v
  else if 64 ≤ q then s
  else match r with
    | .ring => fixed { k with ring := v }
    | .root => fixed { k with root := v }
    | .savepool => fixed { k with savepool := v }
    | .savelen => fixed { k with savelen := v.toNat % 2 ^ 32 }
    | .notify => fixed { k with notify := v }
    | .deadline => if decide (4096 ≤ v.toNat) && decide (v.toNat ≤ 2 ^ 24) then setQueue s q { k with deadline := v.toNat } else s
    | .weight => if decide (1 ≤ v.toNat) && decide (v.toNat ≤ 255) then setQueue s q { k with weight := v.toNat } else s
    | .cls => if v.toNat < 4 then setQueue s q { k with cls := v.toNat } else s
    | .msix => setQueue s q { k with msix := v.setWidth 8 }
    | .ctl =>
      if 8 ≤ v.toNat then s
      else
        let s := setQueue s q { k with eschold := v.getLsbD 2 }
        let s := if v.getLsbD 1 then resumeQueue s q else s
        if v.getLsbD 0 then enableQueue s q else disableQueue s q
    | .pctl => s
def execRegisterWrite (q : Nat) (r : HostReg) (v : Word) (s : State) : Out := .next (writeRegister s q r v)

/-- DOORBELL. -/
def ringDoorbell (s : State) (q : Nat) (v : Word) : State :=
  let k := queueAt s q
  if !running k || v.toNat = k.cons then s
  else match queueRing s q with
    | none => stopHere s q 0x0B 0xFFFF
    | some r => if r.size < (v.toNat + 2 ^ 64 - k.cons) % 2 ^ 64 then stopHere s q 0x0A 0xFFFF else setQueue s q { k with prod := v.toNat }
def execDoorbell (q : Nat) (v : Word) (s : State) : Out := .next (ringDoorbell s q v)

/-- At every balancing step the unit reads PROD from the headers of the running queues. -/
def rereadProd (s : State) : State :=
  (s.queues.map Prod.fst).foldl (fun s q =>
    if !running (queueAt s q) then s
    else match queueRing s q with
      | some r => modQueue s q (fun k => { k with prod := r.prod })
      | none => stopHere s q 0x0B 0xFFFF) s

/-! ### Records (R369, R415-R418) -/

/-- The FENCE flag of a record. -/
def recFence (bs : List Byte) : Bool :=
  match recKind bs with
  | 2 | 3 | 4 => recByte bs 25 % 2 = 1
  | 6 => recByte bs 15 % 2 = 1
  | _ => false
def kindLen : Nat → Nat
  | 1 => 256
  | 5 => 8
  | _ => 32

/-- An address of a record is refused: misaligned, untranslatable, or no home that can serve it. -/
def addrBad (s : State) (q : Nat) (a : Word) (write : Bool) : Bool :=
  a.toNat % 8 != 0 || (match unitPlace s q a write with
    | none => true
    | some (.near g off) => (match liveBank (clusterAt s g) (off / 2 ^ 17) with
      | some b => (bankAt (clusterAt s g) b).mode = .fifo
      | none => true)
    | some _ => false)
/-- The first check that fails, as ERR and DETAIL. -/
def firstBad (l : List (Bool × Nat × Nat)) : Option (Nat × Nat) := (l.find? (fun x => x.1)).map Prod.snd
/-- A span that a LAUNCH record names is refused (ERR 0x08). -/
def spanBad (s : State) (q : Nat) (bs : List Byte) (at_ n : Nat) (write : Bool) : Bool :=
  n != 0 && !unitSpan s q (BitVec.ofNat 64 (recNum bs at_ 8)) n write

/-- The checks of a record's own fields that are made before it is taken, lowest offset first; a LAUNCH record that is
malformed at a lower offset is taken and stops the queue at its validation. -/
def fieldsBad (s : State) (q : Nat) (bs : List Byte) : Option (Nat × Nat) :=
  let num (i n : Nat) : Nat := recNum bs i n
  match recKind bs with
  | 1 =>
    let spans := [(spanBad s q bs 64 (8 * num 80 2) false, 0x08, 64), (spanBad s q bs 72 (8 * num 82 2) false, 0x08, 72),
      (num 88 8 != 0 && num 88 8 % 8 = 0 && addrBad s q (BitVec.ofNat 64 (num 88 8)) true, 0x08, 88),
      (decide (num 168 4 ≤ 2 ^ 22) && spanBad s q bs 160 (num 168 4) false, 0x08, 160)]
    (firstBad spans).filter (fun e => match launchMalformed s q bs with
      | some m => decide (e.2 < m)
      | none => true)
  | 2 => firstBad [(num 24 1 != 3 && addrBad s q (recAddr bs) false, 0x08, 8), (num 24 1 = 3 && num 18 6 != 0, 0x09, 16),
      (decide (3 < num 24 1), 0x09, 24), (decide (1 < num 25 1), 0x09, 25),
      (if num 24 1 = 3 then decide (128 ≤ num 26 2) else num 26 2 != 0, 0x09, 26), (num 28 4 != 0, 0x09, 28)]
  | 3 => firstBad [(addrBad s q (recAddr bs) true, 0x08, 8), (num 24 1 != 0, 0x09, 24), (decide (1 < num 25 1), 0x09, 25),
      (num 26 2 != 0, 0x09, 26), (num 28 4 != 0, 0x09, 28)]
  | 4 => firstBad [(addrBad s q (recAddr bs) false, 0x08, 8), (decide (2 < num 24 1), 0x09, 24), (decide (1 < num 25 1), 0x09, 25),
      (num 26 2 = 0 || decide (255 < num 26 2), 0x09, 26), (num 28 4 != 0, 0x09, 28)]
  | 6 => firstBad [(decide (2048 ≤ num 8 2), 0x09, 8), (num 10 2 % 2 = 1, 0x09, 10), (decide (3 < num 14 1), 0x09, 14),
      (decide (1 < num 15 1), 0x09, 15), (num 16 8 != 0 || num 24 8 != 0, 0x09, 16)]
  | _ => none

/-- What the launch unit finds at CONS. -/
inductive Found where
  | wait
  | stop (err detail : Nat)
  | headland (r : Ring) (span : Nat)
  | record (r : Ring) (span : Nat) (bs : List Byte)
deriving DecidableEq, Repr

/-- The record at CONS, checked in the order of R419; a record that a COND skips is checked by R372 only. -/
def findRecord (s : State) (q : Nat) : Found :=
  let k := queueAt s q
  if pending k = 0 then .wait
  else match queueRing s q with
    | none => .stop 0x0B 0xFFFF
    | some r =>
      let pos := k.cons % r.size
      match unitRead s q (BitVec.ofNat 64 (r.tags + pos / 64)) 1, unitRead s q (BitVec.ofNat 64 (r.base + pos)) 8 with
      | some tg, some h =>
        let tag := ofBytesLE tg
        let len := recNum h 0 3
        let span := ceilDiv len 64 * 64
        if tag = 0 || tag = 1 || tag = 3 then .wait
        else if 4 ≤ tag || recNum h 4 4 != 0 then .stop 0x05 0xFFFF
        else if len < 8 || len % 8 != 0 then .stop 0x02 0xFFFF
        else if r.size < pos + span then .stop 0x03 0xFFFF
        else if pending k < span then .stop 0x04 0xFFFF
        else if 6 < recKind h then .stop 0x01 0xFFFF
        else if recKind h = 0 then (if len = r.size - pos then .headland r span else .stop 0x02 0xFFFF)
        else if 0 < k.skip then .record r span h
        else if len != kindLen (recKind h) then .stop 0x02 0xFFFF
        else match unitRead s q (BitVec.ofNat 64 (r.base + pos)) len with
          | none => .stop 0x0B 0xFFFF
          | some bs => match fieldsBad s q bs with
            | some e => .stop e.1 e.2
            | none => .record r span bs
      | _, _ => .stop 0x0B 0xFFFF

/-- A queue is blocked whatever its next record (R413). -/
def blocked (s : State) (q : Nat) : Bool :=
  s.taken.any (fun r => r.queue = q && (recKind r.bytes = 2 || recKind r.bytes = 5 || recKind r.bytes = 6))
    || s.launches.any (fun l => l.queue = q && l.waiting) || decide (64 ≤ (s.taken.filter (fun r => r.queue = q)).length)
/-- The launch unit has something to do with a queue's next record. -/
def takes (s : State) (q : Nat) : Bool :=
  running (queueAt s q) && !blocked s q && (match findRecord s q with
    | .wait => false
    | .record _ _ bs => !(recFence bs && s.taken.any (fun r => r.queue = q))
    | _ => true)
/-- The first such queue at or after queue t mod 64. -/
def takeDue (s : State) : Option Nat :=
  if s.queues.all (fun x => !running x.2) then none
  else ((List.range 64).map (fun i => (s.now + i) % 64)).find? (takes s)

/-- Writes the tag of the record at CONS. -/
def writeTag (s : State) (q : Nat) (r : Ring) (v : Byte) : State :=
  (unitWrite s q (BitVec.ofNat 64 (r.tags + (queueAt s q).cons % r.size / 64)) [v]).getD s
/-- The unit drains a record into its own state: the tag goes through 3 to 0, and CONS goes past it (R370, R414). -/
def freeSpace (s : State) (q : Nat) (r : Ring) (span : Nat) : State :=
  let k := queueAt s q
  let c := (k.cons + span) % 2 ^ 64
  let s := writeTag (writeTag s q r 3) q r 0
  let s := (unitWrite s q (k.ring + 24) (bytesLE c 8)).getD s
  setQueue s q { k with cons := c }

/-- A record is complete. -/
def finishRec (s : State) (rid : Nat) : State := { s with taken := s.taken.filter (fun r => r.rid != rid) }
def recOf (s : State) (rid : Nat) : Option TakenRec := s.taken.find? (fun r => r.rid = rid)

/-- HEADLAND_RECORD. -/
def skipHeadland (s : State) (q : Nat) : State :=
  match findRecord s q with
  | .headland r span => if running (queueAt s q) then freeSpace s q r span else s
  | _ => s
def execHeadlandRecord (q : Nat) (s : State) : Out := .next (skipHeadland s q)

/-- The 8-byte word at a record's address, read at its home. -/
def recWord (s : State) (q : Nat) (bs : List Byte) : Word :=
  match unitPlace s q (recAddr bs) false with
  | some p => wordLE (placeRead s p 8)
  | none => 0

/-! ### PREEMPT (R321, R418) -/

def slotsNamed (bs : List Byte) : List Nat := programSlots.filter (fun n => recNum bs 10 2 / 2 ^ n % 2 = 1)
def recLaunch (bs : List Byte) : BitVec 16 := BitVec.ofNat 16 (recNum bs 12 2)
/-- The thread in a slot is being saved for a PREEMPT. -/
def heldSave (th : Thread) : Bool := th.stopped.isNone && ((th.saveDue.map SaveDue.held).getD false)
/-- The saves that the record began are complete, wherever its threads have gone since, and its time is over. -/
def slotsDone (s : State) (r : TakenRec) : Bool :=
  decide (r.taken + 10 + 5 * (slotsNamed r.bytes).length ≤ s.now)
    && r.uids.all (fun u => !(((findUid s u).map (fun x => heldSave x.2)).getD false))
/-- The threads that stand in the slots that a record names. -/
def namedUids (s : State) (bs : List Byte) : List Nat :=
  (slotsNamed bs).filterMap (fun n => (thread? s ⟨recNum bs 8 2, n⟩).map Thread.uid)
def saveSlots (s : State) (r : TakenRec) : State :=
  let core := recNum r.bytes 8 2
  if slotsDone s r && r.taken != s.now then
    (slotsNamed r.bytes).foldl (fun s n => modCore s core (fun k => setSlot k n { slotAt k n with freeAt := s.now + 1 })) (finishRec s r.rid)
  else (slotsNamed r.bytes).foldl (fun s n => markDue s ⟨core, n⟩ true) s
/-- PREEMPT_SAVE_SLOTS: every named slot's thread becomes save-due and held; the record completes with the last save, and the slots take
work from the next cycle (R309). -/
def execPreemptSaveSlots (rid : Nat) (s : State) : Out := .next (((recOf s rid).map (saveSlots s)).getD s)

def launchDone (s : State) (r : TakenRec) : Bool :=
  (allThreads s).all (fun x => !(x.2.launch = recLaunch r.bytes && heldSave x.2))
def saveLaunch (s : State) (r : TakenRec) : State :=
  let l := recLaunch r.bytes
  if launchDone s r && r.taken != s.now then finishRec s r.rid
  else
    let s := ((allThreads s).filter (fun x => x.2.launch = l && x.1.slot != 0)).foldl (fun s x => markDue s x.1 true) s
    { s with saved := s.saved.map (fun x => if x.thread.launch = l then { x with held := true } else x) }
/-- PREEMPT_SAVE_LAUNCH. -/
def execPreemptSaveLaunch (rid : Nat) (s : State) : Out := .next (((recOf s rid).map (saveLaunch s)).getD s)

/-- PREEMPT_RELEASE: the held threads of the launch wait for their restore. -/
def execPreemptRelease (rid : Nat) (s : State) : Out :=
  .next (match recOf s rid with
    | none => s
    | some r => finishRec { s with saved := s.saved.map (fun x => if x.thread.launch = recLaunch r.bytes then { x with held := false } else x) } rid)

/-- PREEMPT_DISPOSE: the steward reaps the launch's stopped threads. -/
def disposeStopped (s : State) (r : TakenRec) : State :=
  let s := ((allThreads s).filter (fun x => x.1.slot != 0 && x.2.launch = recLaunch r.bytes && x.2.stopped.isSome)).foldl (fun s x => reapThread s x.1) s
  finishRec s r.rid
def execPreemptDispose (rid : Nat) (s : State) : Out := .next (((recOf s rid).map (disposeStopped s)).getD s)

/-! ### Taking a record -/

/-- TAKE_RECORD: the first record of the queue is taken, or the queue stops. -/
def takeRecord (s : State) (q : Nat) : State :=
  if !running (queueAt s q) then s
  else match findRecord s q with
    | .wait => s
    | .headland _ _ => skipHeadland s q
    | .stop err detail => stopHere s q err detail
    | .record r span bs =>
      let off := (queueAt s q).cons
      let s := freeSpace s q r span
      if 0 < (queueAt s q).skip then modQueue s q (fun k => { k with skip := k.skip - 1 })
      else
        let rid := s.nextId
        let t : TakenRec := ⟨rid, q, off % 2 ^ 32, bs, if recKind bs = 4 then recWord s q bs else 0, s.now,
          if recKind bs = 6 && recNum bs 14 1 = 0 then namedUids s bs else []⟩
        let s := { s with nextId := rid + 1, taken := s.taken ++ [t] }
        match recKind bs with
        | 1 => later s 32 (.launchRecord rid)
        | 3 => later s 0 (.signal rid)
        | 6 => (match recNum bs 14 1 with
          | 0 => saveSlots s t
          | 1 => saveLaunch s t
          | _ => s)
        | _ => s
def execTakeRecord (q : Nat) (s : State) : Out := .next (takeRecord s q)

/-! ### WAITREC, SIGNAL, COND, FENCE (R415-R417) -/

def recCond : Nat → WCond
  | 0 => .eq
  | 1 => .ne
  | _ => .ge
/-- WAITREC's condition holds. -/
def waitrecHolds (s : State) (r : TakenRec) : Bool :=
  if recNum r.bytes 24 1 = 3 then tokenState s (recNum r.bytes 26 2) (BitVec.ofNat 16 (recNum r.bytes 16 2)) != 0
  else wcondOk (recCond (recNum r.bytes 24 1)) (recWord s r.queue r.bytes).toNat (recValue r.bytes).toNat
/-- WAITREC. -/
def execWaitrec (rid : Nat) (s : State) : Out :=
  .next (match recOf s rid with
    | some r => if waitrecHolds s r then finishRec s rid else s
    | none => s)

/-- SIGNAL: the store is performed at its home. -/
def execSignal (rid : Nat) (s : State) : Out :=
  .next (match recOf s rid with
    | some r => finishRec ((unitWrite s r.queue (recAddr r.bytes) (leBytes 8 (recValue r.bytes))).getD s) rid
    | none => s)

/-- COND: the word as it stood when the record was taken; where a store reached its home in that cycle, either value. A false
predicate skips records. -/
def condRecord (s : State) (r : TakenRec) : State :=
  let now := recWord s r.queue r.bytes
  let (s, v) := if now = r.seen then (s, now) else ({ s with draw := s.draw + 1 }, if Config.freeBit s.draw then now else r.seen)
  let s := finishRec s r.rid
  if wcondOk (recCond (recNum r.bytes 24 1)) v.toNat (recValue r.bytes).toNat then s
  else modQueue s r.queue (fun k => { k with skip := recNum r.bytes 26 2 })
def execCond (rid : Nat) (s : State) : Out := .next (((recOf s rid).map (condRecord s)).getD s)

/-- Every earlier record of the queue is complete. -/
def fenceHolds (s : State) (r : TakenRec) : Bool := s.taken.all (fun x => x.queue != r.queue || decide (r.rid ≤ x.rid))
/-- FENCE_RECORD. -/
def execFenceRecord (rid : Nat) (s : State) : Out :=
  .next (match recOf s rid with
    | some r => if fenceHolds s r then finishRec s rid else s
    | none => s)

/-- A taken record that can go on now, and what it does. -/
def recordStep (s : State) (r : TakenRec) : Option Out :=
  match recKind r.bytes with
  | 2 => if waitrecHolds s r then some (execWaitrec r.rid s) else none
  | 5 => if fenceHolds s r then some (execFenceRecord r.rid s) else none
  | 6 => (match recNum r.bytes 14 1 with
    | 0 => if slotsDone s r && r.taken != s.now then some (execPreemptSaveSlots r.rid s) else none
    | 1 => if launchDone s r && r.taken != s.now then some (execPreemptSaveLaunch r.rid s) else none
    | 2 => some (execPreemptRelease r.rid s)
    | _ => if r.taken + 16 ≤ s.now then some (execPreemptDispose r.rid s) else none)
  | _ => none

end Sys2Proof.Machine
end

