-- ==== Sys2Proof/Machine/Launch.lean ====
section
/-! DEFINITION. The life of a launch: validation, bank map, near image, preload, the start of cores, the end of its threads,
writeback and the done word; and the deadline of a replayed list (R147-R159, R278, R331-R333). -/
namespace Sys2Proof.Machine
open Sys2Proof

/-! ### Launches in progress -/

def launchBy (s : State) (lid : Nat) : Option Launch := s.launches.find? (fun l => l.lid = lid)
def modLaunch (s : State) (lid : Nat) (f : Launch → Launch) : State :=
  { s with launches := s.launches.map (fun l => if l.lid = lid then f l else l) }
def dropLaunch (s : State) (lid : Nat) : State := { s with launches := s.launches.filter (fun l => l.lid != lid) }
def setPhase (s : State) (lid g : Nat) (p : ClPhase) : State := modLaunch s lid (fun l => { l with clusters := put g p l.clusters })
def phaseOf (l : Launch) (g : Nat) : ClPhase := (look g l.clusters).getD .waitMap
def recOffset (s : State) (rid : Nat) : Nat := ((recOf s rid).map TakenRec.offset).getD 0
/-- The end of a launch by a fault (R158): no further step runs, and its queue stops. -/
def failLaunch (s : State) (l : Launch) (err detail : Nat) : State :=
  let s := stopQueue s l.queue err detail (recOffset s l.rid)
  finishRec (modLaunch s l.lid (fun x => { x with ended := true, waiting := false })) l.rid

/-! ### LAUNCH_RECORD (R154, R155) -/

/-- The done word: 8 bytes at the address of a record's field; none where the address is refused. -/
def storeDone (s : State) (q : Nat) (r : LaunchRec) : Option State :=
  if r.doneAddr = 0 then some s else unitWrite s q r.doneAddr (leBytes 8 r.doneVal)

/-- LAUNCH_RECORD: a malformed record stops the queue; an accepted one takes the next number, and with an extent of zero its
launch is complete at once. -/
def launchRecord (s : State) (rid : Nat) : State :=
  match recOf s rid with
  | none => s
  | some t =>
    let q := t.queue
    match launchMalformed s q t.bytes with
    | some off => finishRec (stopQueue s q 0x06 off t.offset) rid
    | none =>
      let r := parseLaunch t.bytes
      let n := (queueAt s q).launches + 1
      let s := modQueue s q (fun k => { k with launches := n })
      if r.ext.toList.any (fun x => x = 0) then
        match storeDone s q r with
        | some s => finishRec s rid
        | none => finishRec (stopQueue s q 0x08 88 t.offset) rid
      else
        let l : Launch :=
          { lid := s.nextId, rid := rid, queue := q, id := BitVec.ofNat 16 (q * 1024 + n % 1024), lrec := r
            clusters := (clusterSet r).map (fun g => (g, .waitMap)), startedCores := [], starts := [], waiting := true, ended := false
            threadsDone := false }
        { s with nextId := s.nextId + 1, launches := s.launches ++ [l] }
def execLaunchRecord (rid : Nat) (s : State) : Out := .next (launchRecord s rid)

/-! ### Waiting launches and the bank map (R155-R157, R278) -/

/-- Launches that run beside this one. -/
def runningBeside (s : State) (l : Launch) : List Launch := s.launches.filter (fun o => o.lid != l.lid && !o.waiting)
def sharesCluster (a b : LaunchRec) : Bool := (clusterSet a).any (fun g => g ∈ clusterSet b)
/-- The members of the group that a launch joins. -/
def joinedGroup (s : State) (r : LaunchRec) : List Member :=
  ((findGroup s (launchPkg r) r.dieLo (r.watch.extractLsb' 0 6).toNat).map Group.members).getD []
/-- The group that a launch's WATCH names: a group of the package, or one of its first die (R278). -/
def watchGroup (r : LaunchRec) : BitVec 7 × Nat := (r.watch.extractLsb' 0 7, if launchPkg r then 0 else r.dieLo)
/-- A launch waits at its bank map, or behind an earlier launch of its queue that waits (R157). -/
def mustWait (s : State) (l : Launch) : Bool :=
  s.launches.any (fun o => o.waiting && o.queue = l.queue && decide (o.lid < l.lid))
    || (runningBeside s l).any (fun o => o.id = l.id || (sharesCluster o.lrec l.lrec && o.lrec.bankMap != l.lrec.bankMap)
      || (launchWtp o.lrec && launchWtp l.lrec && watchGroup o.lrec != watchGroup l.lrec))
    || (launchJoins l.lrec && joinedGroup s l.lrec != [])

/-- RECORD's COUNT = 0 for every core of the set (R331). -/
def clearCounts (s : State) (l : Launch) : State :=
  (coreSet l.lrec).foldl (fun s core =>
    match unitWrite s l.queue (l.lrec.moveList + BitVec.ofNat 64 (16 * core + 12)) [0, 0, 0, 0] with
    | some s => s
    | none => schedNote (setMoveSt s core { moveSt s core l with stopRec := true }) l.queue 4 core 0) s
/-- The lists of REPLAY: each core's count and the deadline of its first entry (R332, R333). -/
def openLists (s : State) (l : Launch) : State :=
  (List.range 2048).foldl (fun s core =>
    if inCoreSet l.lrec core || decide (0 < (moveSt s core l).count) then
      later (setMoveSt s core (moveSt s core l)) (queueAt s l.queue).deadline (.replayDivergenceDeadline core l.id)
    else s) s
/-- Code stored before a launch starts is seen by its fetches (R39): buffered lines and clean cache lines go. -/
def forgetCode (s : State) : State :=
  let s : State := { s with cores := s.cores.map (fun x => (x.1, { x.2 with lines := [] })) }
  s.clusters.foldl (fun s x => invalidateClean s x.1) s
/-- A launch that no longer waits goes on. -/
def beginLaunch (s : State) (l : Launch) : State :=
  let s := modLaunch (forgetCode s) l.lid (fun x => { x with waiting := false })
  let s := if launchWtp l.lrec then { s with wtGroup := some ((l.lrec.watch &&& 0xFF).setWidth 64, l.lrec.dieLo) } else s
  match replayMode l.lrec with
  | 1 => clearCounts s l
  | 2 => openLists s l
  | _ => s

/-- The bank's entry differs from a map's. Where no other launch runs in the cluster, a WATCH bank takes the launch's group. -/
def bankDiffers (s : State) (l : Launch) (g : Nat) (m : Vector Byte 32) (b : Nat) : Bool :=
  let x := bankAt (clusterAt s g) b
  let sole := (runningBeside s l).all (fun o => g ∉ clusterSet o.lrec)
  x.mode != .off && (modeCode x.mode != mapMode m b || x.slot != mapSlot m b
    || (mapMode m b = 2 && sole && x.watch != (l.lrec.watch &&& 0xFF).setWidth 64))
def changedBanks (s : State) (l : Launch) (g : Nat) (m : Vector Byte 32) : List Nat := bankNums.filter (bankDiffers s l g m)
def clusterMap (s : State) (l : Launch) (g : Nat) : Vector Byte 32 :=
  match movedMap (clusterAt s g) l.lrec.bankMap with
  | .ok m => m
  | .error _ => l.lrec.bankMap
/-- The banks that a map changes may change now. -/
def mapReady (s : State) (l : Launch) (g : Nat) : Bool := (changedBanks s l g (clusterMap s l g)).all (bankQuiet s g)
/-- Applies a map to a cluster; its image follows when the banks are released. -/
def applyMap (s : State) (l : Launch) (g : Nat) : State :=
  let m := clusterMap s l g
  let (s, d) := (changedBanks s l g m).foldl (fun (acc : State × Nat) b =>
    let (s, d) := startBank acc.1 g b ((modeOfCode (mapMode m b)).getD .cache) (mapSlot m b) ((l.lrec.watch &&& 0xFF).setWidth 64)
    (s, max d acc.2)) (s, 0)
  later (setPhase s l.lid g .mapped) d (.launchNearImage l.lid g)
/-- LAUNCH_BANK_MAP. -/
def launchBankMap (s : State) (lid g : Nat) : State :=
  match launchBy s lid with
  | none => s
  | some l =>
    if l.ended || (l.waiting && mustWait s l) then s
    else
      let s := if l.waiting then beginLaunch s l else s
      if phaseOf l g = .waitMap && mapReady s l g then applyMap s l g else s
def execLaunchBankMap (lid cluster : Nat) (s : State) : Out := .next (launchBankMap s lid cluster)

/-! ### The near image (R136, R155) -/

/-- The bytes of an image that fall to a bank that holds data there. DESIGN CHOICE (64): those of a slot that no bank or a FIFO bank holds,
and those of the top 32 KiB of a WATCH slot, go nowhere. -/
def imagePieces (s : State) (g : Nat) (bs : List Byte) : List (Nat × List Byte) :=
  bankNums.filterMap (fun slot =>
    let piece := (bs.drop (slot * 2 ^ 17)).take (2 ^ 17)
    match liveBank (clusterAt s g) slot with
    | none => none
    | some b => match (bankAt (clusterAt s g) b).mode with
      | .scratch => some (slot * 2 ^ 17, piece)
      | .watch => some (slot * 2 ^ 17, piece.take 0x18000)
      | _ => none)
/-- LAUNCH_NEAR_IMAGE. DESIGN CHOICE (64): the image is copied in the cycle in which the transition ends, since the spec gives the copy no
time. DESIGN CHOICE (106): an image that is refused now stops the queue with ERR 0x08, as one refused when the record was taken. -/
def launchNearImage (s : State) (lid g : Nat) : State :=
  match launchBy s lid with
  | none => s
  | some l =>
    if l.ended || phaseOf l g != .mapped then s
    else match (if l.lrec.nearLen = 0 then some [] else unitRead s l.queue l.lrec.nearImg l.lrec.nearLen) with
      | none => failLaunch s l 0x08 160
      | some bs => setPhase ((imagePieces s g bs).foldl (fun s x => homeWrite s (.near g x.1) x.2) s) lid g (.preloading 0 [])
def execLaunchNearImage (lid cluster : Nat) (s : State) : Out := .next (launchNearImage s lid cluster)

/-! ### Preload and writeback (R155, R158) -/

/-- A list of shape records in progress on a cluster. -/
structure ShapeRun where
  wb : Bool
  next : Nat
  out : List (Nat × Nat)
deriving DecidableEq, Repr

def shapeRun (l : Launch) (g : Nat) : Option ShapeRun :=
  match phaseOf l g with
  | .preloading n out => some ⟨false, n, out⟩
  | .writing n out => some ⟨true, n, out⟩
  | _ => none
def runLength (l : Launch) (r : ShapeRun) : Nat := if r.wb then l.lrec.nwb else l.lrec.npre
def runPhase (r : ShapeRun) : ClPhase := if r.wb then .writing r.next r.out else .preloading r.next r.out
def tokOf (n : Nat) : BitVec 16 := BitVec.ofNat 16 n
/-- The list has something to do now. -/
def runActs (s : State) (l : Launch) (g : Nat) (r : ShapeRun) : Bool :=
  (decide (r.next < runLength l r) && !copyQueueFull s g) || r.out.any (fun x => !pendingTok s g (tokOf x.2))
    || (r.next = runLength l r && r.out = [])

/-- Issues the next shape of a list. DESIGN CHOICE (106): an address of the list that is refused now is ERR 0x08. -/
def nextShape (s : State) (l : Launch) (g : Nat) (r : ShapeRun) : State :=
  let arr := if r.wb then l.lrec.writeback else l.lrec.preload
  match unitRead s l.queue (arr + BitVec.ofNat 64 (8 * r.next)) 8 with
  | none => failLaunch s l 0x08 (if r.wb then 72 else 64)
  | some bs =>
    let (s, tok) := addCopy s g ⟨g * 16, 0⟩ 0 (queueAt s l.queue).root.toNat l.id (wordLE bs) false false none none []
    setPhase (startRecord s g tok) l.lid g (runPhase { r with next := r.next + 1, out := r.out ++ [(r.next, tok.toNat)] })

/-- The release of the done word: the dirty lines of every cluster go home, and the store follows their acknowledgements. -/
def releaseDone (s : State) (l : Launch) : State :=
  let (s, d) := (s.clusters.map Prod.fst).foldl (fun (acc : State × Nat) g =>
    let (s, d) := writeBackAll acc.1 g
    (s, max d acc.2)) (s, 0)
  later s d (.doneWord l.lid)

/-- One step of a list: a fault ends the launch, the next shape is issued while the copy queue has room, and the end of the list
is the end of its stage. -/
def shapeStep (s : State) (l : Launch) (g : Nat) (r : ShapeRun) : State :=
  match r.out.find? (fun x => tokenState s g (tokOf x.2) = 2) with
  | some x => failLaunch s l 0x07 x.1
  | none =>
    let r := { r with out := r.out.filter (fun x => pendingTok s g (tokOf x.2)) }
    let s := setPhase s l.lid g (runPhase r)
    if r.next < runLength l r then (if copyQueueFull s g then s else nextShape s l g r)
    else if r.out != [] then s
    else if !r.wb then setPhase s l.lid g .preloaded
    else
      let s := setPhase s l.lid g .written
      match launchBy s l.lid with
      | some l => if l.clusters.all (fun x => x.2 = .written) then releaseDone s l else s
      | none => s
def runShapes (s : State) (lid g : Nat) (wb : Bool) : State :=
  match launchBy s lid with
  | none => s
  | some l => match shapeRun l g with
    | some r => if l.ended || r.wb != wb then s else shapeStep s l g r
    | none => s
/-- LAUNCH_PRELOAD. -/
def execLaunchPreload (lid cluster : Nat) (s : State) : Out := .next (runShapes s lid cluster false)
/-- LAUNCH_WRITEBACK. -/
def execLaunchWriteback (lid cluster : Nat) (s : State) : Out := .next (runShapes s lid cluster true)

/-! ### The start of a core (R153, R155, R332) -/

/-- A thread of the launch is held by a PREEMPT (R418). -/
def launchHeld (s : State) (id : BitVec 16) : Bool :=
  s.saved.any (fun x => x.held && x.thread.launch = id) || (allThreads s).any (fun x => x.2.launch = id && heldSave x.2)
/-- The slots in which a core's threads would start now. -/
def startSlots (s : State) (l : Launch) (core : Nat) : Option (List Nat) :=
  match nextMove s core l with
  | .entry w0 w1 =>
    let want := programSlots.filter (fun n => w1 / 2 ^ (15 + n) % 2 = 1)
    if mvKind w0 = 1 && want.all (fun n => slotTakes s core n l.queue) then some want else none
  | _ =>
    let free := takingSlots s core l.queue
    if l.lrec.nthreads ≤ free.length then some (free.take l.lrec.nthreads) else none
/-- The core may start the launch's threads now. DESIGN CHOICE (107): the pace of one core a cycle per die is each launch's own. -/
def coreStarts (s : State) (l : Launch) (core : Nat) : Bool :=
  launchWaits s core l && !launchHeld s l.id && decide ((look (dieOf core) l.starts).getD 0 ≤ s.now) && (startSlots s l core).isSome
/-- The first launch and core that may start, in the order of the launches and of ranks. -/
def coreStartDue (s : State) : Option (Nat × Nat) :=
  s.launches.findSome? (fun l =>
    if l.ended || l.waiting || l.threadsDone then none
    else ((coreSet l.lrec).find? (coreStarts s l)).map (fun c => (l.lid, c)))

def words4 (l : List Nat) : Vector Word 4 := Vector.ofFn (fun i => BitVec.ofNat 64 (l.getD i.val 0))
/-- A thread that a launch starts (R153), the i-th of its core. -/
def launchThread (s : State) (l : Launch) (core i : Nat) : Thread :=
  let (st, w) := workOf l.lrec core
  let (org, ext) := w.getD ([], [])
  let args := l.lrec.args.toList
  { newThread s l.id with
    pc := l.lrec.entry, stage := st, org := words4 org, ext := words4 ext, ready := s.now + 1 + i
    w := Vector.ofFn (fun i => if i.val < 8 then args.getD i.val 0 else 0) }
/-- WATCH.JOIN: the thread becomes a member at phase 0. -/
def joinAtStart (s : State) (r : LaunchRec) (core uid : Nat) : State :=
  if !launchJoins r then s
  else
    let g := (r.watch.extractLsb' 0 6).toNat
    let gr := (findGroup s (launchPkg r) (dieOf core) g).getD (groupReset (launchPkg r) (dieOf core) g)
    setGroup s { gr with members := gr.members ++ [⟨uid, 0, 0, 0⟩] }
/-- Starts the launch's threads in the slots given. -/
def startCore (s : State) (l : Launch) (core : Nat) (slots : List Nat) : State :=
  let s := (slots.zip (List.range slots.length)).foldl (fun s x =>
    let th := launchThread s l core x.2
    joinAtStart (placeThread s ⟨core, x.1⟩ th) l.lrec core th.uid) s
  let mask := slots.foldl (fun m n => m + 2 ^ (n - 1)) 0
  let s := modLaunch s l.lid (fun x => { x with startedCores := x.startedCores ++ [core], starts := put (dieOf core) (s.now + 1) x.starts })
  moveDone s core l.id 1 (mask * 2 ^ 16 + l.id.toNat)
/-- LAUNCH_CORE_START. -/
def launchCoreStart (s : State) (lid core : Nat) : State :=
  match launchBy s lid with
  | none => s
  | some l =>
    if !coreStarts s l core then s
    else
      let s := if nextMove s core l = .bad then diverge s core l true else s
      match startSlots s l core with
      | some slots => startCore s l core slots
      | none => s
def execLaunchCoreStart (lid core : Nat) (s : State) : Out := .next (launchCoreStart s lid core)

/-! ### The end of the threads (R155) -/

def frameOf : Instr → Option Frame
  | .frameMessage f _ _ _ => some f
  | _ => none
/-- The task frames that wait or travel: threads still to come. -/
def waitingFrames (s : State) : List Frame :=
  s.cores.flatMap (fun x => x.2.deque.map DqEnt.f ++ landedFrames s x.1 ++ spilledFrames s x.1 ++ (x.2.claim.map Prod.fst).toList)
    ++ (s.agenda.map Prod.snd ++ s.flits.map Flit.deliver ++ s.bridges.map Transfer.then_).filterMap frameOf
/-- No thread, saved thread, frame or operation bears the launch's id. -/
def launchQuiet (s : State) (id : BitVec 16) : Bool :=
  (allThreads s).all (fun x => x.1.slot = 0 || x.2.launch != id) && s.saved.all (fun x => x.thread.launch != id) && s.ops.all (fun o => o.launch != id)
    && (waitingFrames s).all (fun f => frameLaunch f != id)
/-- Every core of the set that starts threads has started them. -/
def allStarted (l : Launch) : Bool :=
  l.clusters.all (fun x => x.2 = .preloaded) && (coreSet l.lrec).all (fun c => !startsOn l.lrec c || c ∈ l.startedCores)
/-- The threads of a launch are done: its writeback follows; a launch that a fault ended is over. -/
def threadsOver (s : State) (l : Launch) : Bool :=
  !l.waiting && !l.threadsDone && (l.ended || allStarted l) && launchQuiet s l.id

/-- What the cores hold for a launch goes when it is over (R289). -/
def forgetLaunch (s : State) (l : Launch) : State :=
  let s := { s with cores := s.cores.map (fun x => (x.1, { x.2 with
    moves := x.2.moves.filter (fun m => m.launch != l.id), spawnCounts := del l.id.toNat x.2.spawnCounts })) }
  let s := dropLaunch s l.lid
  if launchWtp l.lrec && s.launches.all (fun o => o.waiting || !launchWtp o.lrec) then { s with wtGroup := none, wtShadow := [] } else s
/-- LAUNCH_THREADS_DONE. -/
def launchThreadsDone (s : State) (lid : Nat) : State :=
  match launchBy s lid with
  | none => s
  | some l =>
    if !threadsOver s l then s
    else if l.ended then forgetLaunch s l
    else modLaunch s lid (fun l => { l with threadsDone := true, clusters := l.clusters.map (fun x => (x.1, .writing 0 [])) })
def execLaunchThreadsDone (lid : Nat) (s : State) : Out := .next (launchThreadsDone s lid)

/-! ### DONE_WORD (R155, R156, R331, R333) -/

/-- The steward reports the entries that a core's list has left. -/
def reportUnused (s : State) (l : Launch) : State :=
  if replayMode l.lrec != 2 then s
  else (List.range 2048).foldl (fun s core =>
    let m := moveSt s core l
    if m.used < m.count && (moveDir s core l).2.isSome then schedNote s l.queue 2 core (m.count - m.used) else s) s
/-- DONE_WORD: the launch is complete. DESIGN CHOICE (106): a done word that is refused now is ERR 0x08. -/
def writeDone (s : State) (lid : Nat) : State :=
  match launchBy s lid with
  | none => s
  | some l =>
    if l.ended then s
    else match storeDone s l.queue l.lrec with
      | none => failLaunch s l 0x08 88
      | some s => finishRec (forgetLaunch (reportUnused s l) l) l.rid
def execDoneWord (lid : Nat) (s : State) : Out := .next (writeDone s lid)

/-! ### The deadline of a list's next entry (R333) -/

/-- REPLAY_DIVERGENCE_DEADLINE: the next entry cannot be read (REASON 4), or has stood for a whole deadline while the core holds a ready frame of the launch or a
thread of it parked in JOIN (REASON 2). -/
def replayDeadline (s : State) (core : Nat) (id : BitVec 16) : State :=
  match launchOf s id with
  | none => s
  | some l => match nextMove s core l with
    | .off | .none => s
    | .bad => diverge s core l true
    | .entry _ _ =>
      let m := moveSt s core l
      let d := (queueAt s l.queue).deadline
      if s.now < m.since + d then s
      else
        let k := coreAt s core
        let frames := lyingFrames s core ++ (k.claim.map Prod.fst).toList
        match (coreThreads core k).find? (fun x => x.2.launch = id && parkedInJoin x.2) with
        | some (t, th) =>
          let s := diverge s core l false
          trap (setThread (dropWaits s th.uid) t { th with ready := s.now + 1 }) t ⟨0x60, 0, replayInfo none 0x388 2 core⟩
        | none =>
          if frames.any (fun f => frameLaunch f = id) then diverge s core l true
          else later (setMoveSt s core { m with since := s.now }) d (.replayDivergenceDeadline core id)
def execReplayDivergenceDeadline (core : Nat) (launch : BitVec 16) (s : State) : Out := .next (replayDeadline s core launch)

/-! ### What a launch does now -/

/-- The next step of a launch other than the start of a core. -/
def launchStep (s : State) (l : Launch) : Option Out :=
  if threadsOver s l then some (execLaunchThreadsDone l.lid s)
  else if l.ended then none
  else if l.waiting then (if mustWait s l then none else some (execLaunchBankMap l.lid ((clusterSet l.lrec).headD 0) s))
  else match l.clusters.find? (fun x => x.2 = .waitMap && mapReady s l x.1) with
    | some x => some (execLaunchBankMap l.lid x.1 s)
    | none => l.clusters.findSome? (fun x => (shapeRun l x.1).bind (fun r =>
        if runActs s l x.1 r then some (if r.wb then execLaunchWriteback l.lid x.1 s else execLaunchPreload l.lid x.1 s) else none))

end Sys2Proof.Machine
end

