-- ==== Sys2Proof/Machine/Trust.lean ====
section
/-! DEFINITION. The trust domain: the session key, link keys, the group table, and the SPDM responder (R396-R401, R409, R412,
R429). -/
namespace Sys2Proof.Machine
open Sys2Proof

/-! ### Keys (R397, R398) -/

def modTrust (s : State) (f : Trust → Trust) : State := { s with trust := f s.trust }
/-- The attestation tree is never certified on this package: all 4,096 boot-counter bits are blown (R429). -/
def neverAttests (s : State) : Bool := decide (4096 ≤ s.boot.bootcnt) && !s.boot.attest
/-- KEY_INSTALL: the session key, inside the SPDM session, and the seal counter starts at 0; refused while a round is in flight. -/
def installKey (s : State) (keyId : BitVec 16) (key : BitVec 256) (inSession : Bool) : State :=
  if !(s.trust.session && inSession) || neverAttests s then mailStatus s 2
  else if s.trust.inflight != [] then mailStatus s 1
  else mailStatus (modTrust s (fun t => { t with key := some (key, keyId), sealCnt := 0 })) 0
def execKeyInstall (keyId : BitVec 16) (key : BitVec 256) (inSession : Bool) (s : State) : Out :=
  .next (mailCommand s (installKey s keyId key inSession))

/-- LINK_KEY: the direction's counter starts at 0 and the port works again. -/
def installLink (s : State) (port : Nat) (tx : Bool) (key : BitVec 256) : State :=
  if 24 ≤ port then mailStatus s 2 else mailStatus (setLink s (port * 2 + boolNat tx) ⟨some key, 0, 0, false⟩) 0
def execLinkKey (port : Nat) (tx : Bool) (key : BitVec 256) (s : State) : Out := .next (mailCommand s (installLink s port tx key))

/-! ### The group table (R400, R401) -/

/-- The member list of an entry: core, member index and the reserved bits of each of its words. -/
def memberWords (s : State) (l : Line) : List (Nat × Nat × Nat) :=
  (List.range (gField l 24 2)).map (fun i =>
    let w := readWord s (physPlace s (BitVec.ofNat 64 (gField l 16 8 + 4 * i))) 4
    (w % 2048, w / 2048 % 4096, w / 2 ^ 23))
/-- A valid entry that the steward refuses. -/
def entryBad (s : State) (l : Line) : Bool :=
  let ms := memberWords s l
  gField l 2 1 / 2 != 0 || gField l 12 4 != 0 || gField l 26 6 != 0 || gField l 36 28 != 0
    || gNmemb l = 0 || decide (4096 < gNmemb l) || ms.any (fun x => decide (gNmemb l ≤ x.2.1) || x.2.2 != 0)
    || (ms.map Prod.fst).eraseDups.length != ms.length
/-- The valid entries of the table at an address, with their numbers. -/
def tableLines (s : State) (addr : Word) : List (Nat × Line) :=
  ((List.range 4096).map (fun g => (g, bytesLine (placeRead s (physPlace s (addr + BitVec.ofNat 64 (64 * g))) 64)))).filter (fun x => gValid x.2)
/-- The fields that may not change while a round of the group is in flight. -/
def pathFields (l : Line) : Nat × Nat × Nat := (gField l 32 2, gField l 34 2, gField l 4 4)
/-- A group's member list names a core. -/
def listsCore (ms : List (Nat × List (Nat × Nat))) (g core : Nat) : Bool := ((look g ms).getD []).any (fun x => x.1 = core)
/-- A core's round counts of a group persist: the table keeps the group's NMEMB and ROOT, and does not newly list the core (R349). -/
def keepsRounds (s : State) (new : List (Nat × Line)) (ms : List (Nat × List (Nat × Nat))) (core g : Nat) : Bool :=
  let l := (look g new).getD 0
  gNmemb l = gNmemb (groupLine s g) && gField l 8 4 = gField (groupLine s g) 8 4 && (!listsCore ms g core || listsCore s.trust.members g core)
/-- GROUP_UPDATE: the table is copied to every die, or refused. -/
def updateGroups (s : State) (addr : Word) : State :=
  let new := tableLines s addr
  if new.any (fun x => entryBad s x.2) then mailStatus s 2
  else if s.trust.inflight.any (fun f => pathFields ((look f.group new).getD 0) != pathFields (groupLine s f.group)) then mailStatus s 1
  else
    let ms := new.map (fun x => (x.1, (memberWords s x.2).map (fun m => (m.1, m.2.1))))
    let cores := s.cores.map (fun x => (x.1, { x.2 with
      nredK := x.2.nredK.filter (fun y => keepsRounds s new ms x.1 y.1)
      dgchkK := x.2.dgchkK.filter (fun y => keepsRounds s new ms x.1 y.1) }))
    mailStatus (modTrust { s with cores := cores } (fun t => { t with groups := new, groupAddr := addr.toNat, members := ms })) 0
def execGroupUpdate (addr : Word) (s : State) : Out := .next (mailCommand s (updateGroups s addr))

/-! ### The SPDM responder (R396, R429) -/

/-- The responder answers: 1 a response, 2 Busy, 3 an error. -/
def spdmAnswer (s : State) (n : Nat) : State := modTrust s (fun t => { t with answer := n })
/-- A signed response takes the next leaf of the level-2 tree, or is answered Busy. -/
def spdmSigned (s : State) (f : State → State) : State :=
  if !s.boot.attest || decide (2 ^ 20 ≤ s.boot.leafUsed) then spdmAnswer s 2
  else f (spdmAnswer { s with boot := { s.boot with leafUsed := s.boot.leafUsed + 1 } } 1)

/-- GET_VERSION. -/
def execGetVersion (s : State) : Out := .next (spdmAnswer s 1)
/-- GET_CAPABILITIES. -/
def execGetCapabilities (s : State) : Out := .next (spdmAnswer s 1)
/-- NEGOTIATE_ALGORITHMS: LMS over SHA-256. -/
def execNegotiateAlgorithms (s : State) : Out := .next (spdmAnswer s 1)
/-- GET_DIGESTS. -/
def execGetDigests (s : State) : Out := .next (spdmAnswer s 1)
/-- GET_CERTIFICATE. -/
def execGetCertificate (s : State) : Out := .next (spdmAnswer s 1)
/-- CHALLENGE. -/
def execChallenge (s : State) : Out := .next (spdmSigned s id)
/-- GET_MEASUREMENTS, with or without a signature. -/
def execGetMeasurements (signed : Bool) (s : State) : Out := .next (if signed then spdmSigned s id else spdmAnswer s 1)
/-- KEY_EXCHANGE begins a session, which FINISH completes. -/
def execKeyExchange (s : State) : Out := .next (spdmSigned s (fun s => modTrust s (fun t => { t with handshake := true })))
/-- FINISH. -/
def execFinish (s : State) : Out :=
  .next (if s.trust.handshake then spdmAnswer (modTrust s (fun t => { t with handshake := false, session := true })) 1 else spdmAnswer s 3)
/-- END_SESSION. -/
def execEndSession (s : State) : Out :=
  .next (if s.trust.session then spdmAnswer (modTrust s (fun t => { t with session := false })) 1 else spdmAnswer s 3)

end Sys2Proof.Machine
end

