-- ==== Sys2Proof/Machine/Boot.lean ====
section
/-! DEFINITION. Boot, device reset, power and thermal protection, balancing steps and self-test (R249, R315, R427-R439). -/
namespace Sys2Proof.Machine
open Sys2Proof

/-! ### The firmware image (R427) -/

def modBoot (s : State) (f : Boot → Boot) : State := { s with boot := f s.boot }
/-- Boot has been started by an FW_COMMIT. -/
def booting (s : State) : Bool := s.boot.step != 0
/-- A boot command other than LOG_SET is taken before FW_COMMIT only. -/
def bootCommand (s : State) (k : State) : State := if booting s then mailStatus s 1 else k
/-- FW_BEGIN. -/
def execFwBegin (len : Nat) (s : State) : Out :=
  .next (bootCommand s (if 2 ^ 26 < len then mailStatus s 2 else mailStatus (modBoot s (fun b => { b with imageLen := some len, image := [] })) 0))
/-- FW_DATA. -/
def writeImage (s : State) (off : Nat) (data : List Byte) : State :=
  match s.boot.imageLen with
  | none => mailStatus s 2
  | some len =>
    if len < off + data.length || decide (4096 < data.length) then mailStatus s 2
    else mailStatus (modBoot s (fun b => { b with image := (data.zip (List.range data.length)).foldl (fun m x => put (off + x.2) x.1 m) b.image })) 0
def execFwData (off : Nat) (data : List Byte) (s : State) : Out := .next (bootCommand s (writeImage s off data))

def msCycles : Nat := 1500000
/-- FW_COMMIT: boot step 2 begins on every die; its verdict on the signature is not the image's alone. -/
def commitImage (s : State) : State :=
  match s.boot.imageLen with
  | none => mailStatus s 2
  | some len =>
    if s.boot.image.length < len then mailStatus s 2
    else
      let ok := Config.freeBit s.draw
      later (mailStatus (modBoot { s with draw := s.draw + 1 } (fun b => { b with step := 2, fail := 0 })) 0) (3 * msCycles) (.bootVerify ok)
def execFwCommit (s : State) : Out := .next (bootCommand s (commitImage s))
/-- LOG_SET: accepted at any time. -/
def execLogSet (addr : Word) (s : State) : Out := .next (mailStatus (modBoot s (fun b => { b with logRing := addr })) 0)

/-! ### Boot steps (R428, R429) -/

/-- BOOT_VERIFY: a bad signature stops the boot; the ROM waits for a new FW_BEGIN. -/
def execBootVerify (sigOk : Bool) (s : State) : Out :=
  .next (if s.boot.step != 2 then s
    else if sigOk then later (modBoot s (fun b => { b with step := 3 })) msCycles .bootMeasure
    else mailStatus (modBoot s (fun b => { b with step := 0, fail := 1, imageLen := none, image := [] })) 2)

/-- 32 bytes that the spec does not fix. -/
def freeBytes (n : Nat) : List Byte := (List.range 4).flatMap (fun i => leBytes 8 (Config.freeWord (n + i)))
/-- BOOT_MEASURE: the log of ROM, image digest, fuse configuration and package configuration. -/
def execBootMeasure (s : State) : Out :=
  .next (if s.boot.step != 3 then s
    else
      let log := [(1, freeBytes s.draw), (2, sha256 (s.boot.image.map Prod.snd)), (3, freeBytes (s.draw + 4)), (4, freeBytes (s.draw + 8))]
      later (modBoot { s with draw := s.draw + 12 } (fun b => { b with step := 4, measLog := log })) (180 * msCycles) .bootTrain)

/-! ### Units and their verdicts (R436, R437) -/

def kindCode : UnitKind → Nat
  | .sram => 1 | .regfile => 2 | .engine => 3 | .lane => 4 | .router => 5 | .hbmRow => 6
def kindOf : Nat → Option UnitKind
  | 1 => some .sram | 2 => some .regfile | 3 => some .engine | 4 => some .lane | 5 => some .router | 6 => some .hbmRow | _ => none
/-- The core of a register file or an engine. -/
def unitCore (u : UnitKind) (die cluster index : Nat) : Nat :=
  die * 256 + cluster * 16 + (if u = .regfile then index / 16 else index) % 16
def laneOfUnit (die cluster index : Nat) : Nat := routerOf (die * 16 + cluster) * 4 + index % 4
def unitLog (s : State) (u : UnitKind) (verdict die cluster index : Nat) (syn : Word) : State :=
  logEvent s (kindCode u) verdict die cluster index syn

/-- Saves every program thread and lets none return. -/
def saveEvery (s : State) : State :=
  ((allThreads s).filter (fun x => x.1.slot != 0)).foldl (fun s x =>
    modThread (markDue s x.1 true) x.1 (fun th => { th with saveDue := th.saveDue.map (fun d => { d with full := true }) })) s
def stopEvery (s : State) : State := { s with queues := s.queues.map (fun x => (x.1, if x.2.enable then { x.2 with stopped := true } else x.2)) }

/-- A thread that only its own core may restore (R327). -/
def homeOnly (s : State) (th : Thread) : Bool :=
  isFrwait th || watchedMember s th.uid || (match launchOf s th.launch with
    | some l => replayMode l.lrec = 2 || replayMode l.lrec = 1
    | none => false)
/-- A core is retired: its threads are saved, and those that no other core may restore are logged. -/
def retireCore (s : State) (u : UnitKind) (core : Nat) : State :=
  let s := modBoot (modCore s core (fun k => { k with retired := true })) (fun b => { b with degraded := true })
  ((coreThreads core (coreAt s core)).filter (fun x => x.1.slot != 0)).foldl (fun s x =>
    let s := markDue s x.1 false
    if homeOnly s x.2 then unitLog s u 1 (dieOf core) (clusterOf core % 16) (posOf core * 16 + x.1.slot) 0 else s) s

/-- A lasting verdict. -/
def failUnit (s : State) (u : UnitKind) (die cluster index : Nat) : State :=
  match u with
  | .sram =>
    modBoot (modCluster s (die * 16 + cluster) (fun cl => modBank cl index (fun b => { b with mode := .off, slot := 0, watch := 0, held := none })))
      (fun b => { b with degraded := true })
  | .regfile | .engine => retireCore s u (unitCore u die cluster index)
  | .lane =>
    let l := laneOfUnit die cluster index
    modBoot { s with spared := if l ∈ s.spared then s.spared else s.spared ++ [l] } (fun b => { b with degraded := true })
  | .router => modBoot (saveEvery s) (fun b => { b with fail := 3, ready := false, degraded := true })
  | .hbmRow =>
    let n := lookN s.spares (die * 64 + index / 1024)
    { s with spares := put (die * 64 + index / 1024) (min 64 (n + 1)) s.spares }
/-- A passing unit returns to service; a tested engine's latches are empty (R115). -/
def passUnit (s : State) (u : UnitKind) (die cluster index : Nat) : State :=
  match u with
  | .sram => modCluster s (die * 16 + cluster) (fun cl => modBank cl index (fun b => { b with held := none }))
  | .lane => { s with spared := s.spared.filter (fun x => x != laneOfUnit die cluster index) }
  | _ => s

/-- A core's steward starts in slot 0, in the state of a thread at its start, and sets the base of the core's spill area (R5, R294,
R428). -/
def startSteward (s : State) (core : Nat) : State :=
  let th := { threadReset with uid := s.nextUid, pc := Config.stewardEntry core, ready := s.now + 1 }
  modCore (placeThread s ⟨core, 0⟩ th) core (fun k => { k with dqspill := Config.spillBase core &&& ~~~(7 : Word) })
/-- BOOT_TRAIN: stewards start and every unit is tested. -/
def trainAll (s : State) : State :=
  let ok := (List.range 8).filter (fun d => Config.stewardStarts d)
  let s := ((List.range 2048).filter (fun c => dieOf c ∈ ok)).foldl startSteward s
  let s := Config.powerOnFailures.foldl (fun s x => match kindOf x.1 with
    | some u => failUnit s u x.2.1 x.2.2.1 x.2.2.2
    | none => s) s
  let s := modBoot s (fun b => { b with diesok := BitVec.ofNat 8 (ok.foldl (fun n d => n + 2 ^ d) 0) })
  if ok.length < 8 then modBoot s (fun b => { b with fail := 2, step := 4 })
  else if s.boot.fail = 3 then s
  else if 4096 ≤ s.boot.bootcnt then modBoot s (fun b => { b with ready := true, step := 7 })
  else later (modBoot s (fun b => { b with step := 5 })) msCycles .bootCounter
def execBootTrain (s : State) : Out := .next (if s.boot.step != 4 then s else trainAll s)
/-- BOOT_COUNTER: the next bit is blown, then READY. -/
def execBootCounter (s : State) : Out :=
  .next (if s.boot.step != 5 then s
    else later (modBoot s (fun b => { b with bootcnt := b.bootcnt + 1, ready := true, step := 6 })) (6100 * msCycles) .bootCertify)
/-- BOOT_CERTIFY: a fresh level-2 tree. -/
def execBootCertify (s : State) : Out := .next (if s.boot.step != 6 then s else modBoot s (fun b => { b with attest := true, leafUsed := 0, step := 7 }))

/-- DEVICE_RESET: what lasts is the fuses, the units retired, memory outside the registers, and the other machines. -/
def resetDevice (s : State) : State :=
  let banks (v : Vector Bank 32) : Vector Bank 32 := v.map (fun b => if b.mode = .off then { bankReset with mode := .off } else bankReset)
  { State.reset with
    now := s.now, draw := s.draw, nextUid := s.nextUid, nextId := s.nextId, pkg := s.pkg
    cores := (s.cores.filter (fun x => x.2.retired)).map (fun x => (x.1, { coreReset with retired := true }))
    clusters := (s.clusters.filter (fun x => x.2.banks.toList.any (fun b => b.mode = .off))).map (fun x => (x.1, { clusterReset with banks := banks x.2.banks }))
    hbm := s.hbm, sram := s.sram, host := s.host, peers := s.peers, spared := s.spared, spares := s.spares
    boot := { bootReset with bootcnt := s.boot.bootcnt, degraded := s.boot.degraded } }
def execDeviceReset (s : State) : Out := .next (resetDevice s)

/-! ### Power (R432-R434) -/

def modPower (s : State) (f : Power → Power) : State := { s with power := f s.power }
/-- One step up, MDUTY first. -/
def raiseLevels (p : Power) : Power := if p.mduty < 6 then { p with mduty := p.mduty + 1 } else { p with gate := min 7 (p.gate + 1) }
/-- One step down, in the reverse order. -/
def lowerLevels (p : Power) : Power := if 0 < p.gate then { p with gate := p.gate - 1 } else { p with mduty := p.mduty - 1 }
/-- The controller reads the power of the last interval. -/
def powerStep (s : State) : State :=
  let w := (Config.freeWord s.draw).toNat % 65536
  let a := (Config.freeWord (s.draw + 1)).toNat % 65536
  modPower { s with draw := s.draw + 2 } (fun p =>
    let p := { p with power := w, icore := a }
    if p.thermal then { p with gate := 7, mduty := 6 }
    else if p.force then p
    else if p.cap < w then raiseLevels p
    else if 100 * w < 98 * p.cap then lowerLevels p else p)

/-- THERMAL_THROTTLE. -/
def execThermalThrottle (temp : BitVec 8) (s : State) : Out :=
  .next (modPower s (fun p => let p := { p with temp := temp.toNat }
    if 105 ≤ temp.toNat then { p with thermal := true, gate := 7, mduty := 6 } else p))
/-- THERMAL_RECOVER. -/
def execThermalRecover (temp : BitVec 8) (s : State) : Out :=
  .next (modPower s (fun p => let p := { p with temp := temp.toNat }
    if temp.toNat < 95 then forceLevels { p with thermal := false } else p))
/-- THERMAL_SHUTDOWN. -/
def execThermalShutdown (temp : BitVec 8) (s : State) : Out :=
  .next (
    let s := modPower s (fun p => { p with temp := temp.toNat })
    if 115 ≤ temp.toNat then
      logEvent (modPower (stopEvery (saveEvery (modBoot s (fun b => { b with ready := false }))))
        (fun p => { p with thermal := true, gate := 7, mduty := 6 })) 0 3 0 0 0 (BitVec.ofNat 64 temp.toNat)
    else s)

/-- BALANCING_STEP (R315, R323, R413, R433). -/
def execBalancingStep (s : State) : Out := .next (powerStep (rereadProd (retrySaves (balanceAll s))))

/-! ### Self-test (R436-R438) -/

def sameUnit (u : UnitKind) (die cluster index : Nat) (x : UnitTest) : Bool := x.u = u && x.die = die && x.cluster = cluster && x.index = index
def testOf (s : State) (u : UnitKind) (die cluster index : Nat) : Option UnitTest := s.tests.find? (sameUnit u die cluster index)
/-- The duration of a test. -/
def testTime : UnitKind → Nat
  | .sram => 1040 + 163840 | .regfile => 512 | .engine => 3200 | .lane => 30000 | .router => 2048 | .hbmRow => 4000
/-- A unit that is already out of service. -/
def outOfService (s : State) (u : UnitKind) (die cluster index : Nat) : Bool :=
  match u with
  | .sram => (bankAt (clusterAt s (die * 16 + cluster)) index).mode = .off
  | .regfile | .engine => (coreAt s (unitCore u die cluster index)).retired
  | _ => false

/-- The bank writes its dirty lines back and drops its way's lines. -/
def dropWay (s : State) (g b : Nat) : State :=
  let mine := (clusterAt s g).cache.filter (fun l => l.way = b)
  modCluster (mine.foldl storeDirty s) g (fun cl => { cl with cache := cl.cache.filter (fun l => l.way != b) })
/-- A bank's cells, moved from one bank to another. -/
def moveCells (m : List Host.Cell) (g a b : Nat) : List Host.Cell :=
  let inBank (x : Nat) (c : Host.Cell) : Bool := decide (sramAddr g x 0 ≤ c.1) && decide (c.1 < sramAddr g (x + 1) 0)
  (m.filter (inBank a)).foldl (fun m c => memPut m (c.1 - sramAddr g a 0 + sramAddr g b 0) c.2) (m.filter (fun c => !inBank a c && !inBank b c))
/-- The contents and state of bank a go to CACHE bank b, and the two entries are exchanged. -/
def exchangeBanks (s : State) (g a b : Nat) : State :=
  let s := dropWay s g b
  let s := { s with sram := moveCells s.sram g a b }
  modCluster s g (fun cl =>
    let old := bankAt cl a
    let cl := modBank (modBank cl a (fun _ => bankReset)) b (fun _ => old)
    let fifo := match look a cl.fifo with
      | some l => put b l (del a cl.fifo)
      | none => cl.fifo
    { cl with
      fifo := fifo
      full := cl.full.map (fun x => if x / 16384 = a then b * 16384 + x % 16384 else x)
      shadow := (cl.shadow.filter (fun x => x.1 / 12288 != a)) ++ (cl.shadow.filter (fun x => x.1 / 12288 = a)).map (fun x => (b * 12288 + x.1 % 12288, x.2)) })
/-- The lowest CACHE bank that can take another bank's contents. -/
def partnerBank (s : State) (g b : Nat) : Option Nat :=
  bankNums.find? (fun c => c != b && (bankAt (clusterAt s g) c).mode = .cache && bankQuiet s g c)
/-- A running launch holds the cluster's banks. -/
def clusterUsed (s : State) (g : Nat) : Bool := s.launches.any (fun l => !l.waiting && g ∈ clusterSet l.lrec)
/-- Holds a bank for its test. -/
def fenceBank (s : State) (g b d : Nat) : State := modCluster s g (fun cl => modBank cl b (fun x => { x with held := some (s.now + d) }))

/-- Fences a unit for its test; none where the test is postponed. -/
def fenceUnit (s : State) (u : UnitKind) (die cluster index : Nat) : Option State :=
  let g := die * 16 + cluster
  match u with
  | .sram =>
    if (bankAt (clusterAt s g) index).mode = .cache then
      (if (bankAt (clusterAt s g) index).held.isNone then some (fenceBank (dropWay s g index) g index (testTime .sram)) else none)
    else if !bankQuiet s g index then none
    else match partnerBank s g index with
      | some c =>
        let s := exchangeBanks s g index c
        some (later (fenceBank (fenceBank s g index (testTime .sram)) g c 1040) 1040 (.bankcfgComplete g c))
      | none => if clusterUsed s g then none else some (fenceBank s g index (testTime .sram))
  | .regfile =>
    if slotFree s (unitCore u die cluster index) (index % 16) then some s else none
  | .engine => some (modCore s (unitCore u die cluster index) (fun k => { k with latches := Vector.replicate 4 none }))
  | .lane =>
    let l := laneOfUnit die cluster index
    some { s with spared := if l ∈ s.spared then s.spared else s.spared ++ [l] }
  | .router | .hbmRow => some s
/-- What a postponed test asks for meanwhile: the register file's thread is saved. -/
def askFence (s : State) (u : UnitKind) (die cluster index : Nat) : State :=
  if u = .regfile then
    let t : TId := ⟨unitCore u die cluster index, index % 16⟩
    let t := if (slotAt (coreAt s t.core) t.slot).occ = .withheld then ⟨t.core, mateSlot t.slot⟩ else t
    if t.slot = 0 then s else modThread (markDue s t false) t (fun th => { th with saveDue := th.saveDue.map (fun d => { d with full := true }) })
  else s

/-- Begins a test, or postpones it. -/
def startTest (s : State) (u : UnitKind) (die cluster index : Nat) (syn : Word) : State :=
  match fenceUnit s u die cluster index with
  | some s =>
    let x : UnitTest := ⟨u, die, cluster, index, s.now + testTime u, false, syn⟩
    later { s with tests := s.tests.filter (fun y => !sameUnit u die cluster index y) ++ [x] } (testTime u) (.selfTestVerdict u die cluster index syn)
  | none =>
    if (testOf s u die cluster index).isSome then s
    else unitLog (askFence { s with tests := s.tests ++ [⟨u, die, cluster, index, 0, true, syn⟩] } u die cluster index) u 2 die cluster index syn
/-- SELF_TEST_START: an error sends the unit to its test; a further error on a unit under test is folded into it. -/
def execSelfTestStart (u : UnitKind) (die cluster index : Nat) (syndrome : Word) (s : State) : Out :=
  .next (match testOf s u die cluster index with
    | some x => if x.postponed then startTest s u die cluster index x.syndrome else s
    | none => if outOfService s u die cluster index then s else startTest s u die cluster index syndrome)
/-- A postponed test that can begin now. -/
def testDue (s : State) : Option UnitTest := s.tests.find? (fun x => x.postponed && (fenceUnit s x.u x.die x.cluster x.index).isSome)

/-- The unit that SELFTEST's operand names on a die: its cluster and its index there. -/
def unitOfCode (v : Word) : Option (UnitKind × Nat × Nat) :=
  let i := v.toNat / 256 % 65536
  match kindOf (v.toNat % 256) with
  | none => none
  | some u =>
    let per := match u with
      | .sram => 32 | .regfile => 256 | .engine => 16 | .lane => 4 | .router => 1 | .hbmRow => 65536
    let count := match u with
      | .sram => 512 | .regfile => 4096 | .engine => 256 | .lane => 64 | .router => 16 | .hbmRow => 65536
    if i < count && v.toNat < 2 ^ 24 then some (u, i / per, i % per) else none
/-- Tells the stewards that wait for a unit's verdict. -/
def tellTest (s : State) (u : UnitKind) (die cluster index n : Nat) : State :=
  (allThreads s).foldl (fun s x =>
    match x.2.park.bind Park.retry, unitOfCode ((x.2.latch.getD []).headD 0) with
    | some (.selftest _ _ _), some (u', c, i) =>
      if u' = u && c = cluster && i = index && dieOf x.1.core = die && x.2.cont = 1 then
        modThread s x.1 (fun th => { th with cont := 2, latch := some [(th.latch.getD []).headD 0, BitVec.ofNat 64 n] })
      else s
    | _, _ => s) s

/-- SELF_TEST_VERDICT: a pass returns the unit to service, a fail retires it; the outcome is the unit's own. -/
def testVerdict (s : State) (u : UnitKind) (die cluster index : Nat) (syn : Word) : State :=
  match testOf s u die cluster index with
  | none => s
  | some x =>
    if x.postponed || decide (s.now < x.busyUntil) then s
    else
      let bad := Config.freeBit s.draw
      let s := { s with draw := s.draw + 1, tests := s.tests.filter (fun y => !sameUnit u die cluster index y) }
      let full := u = .hbmRow && decide (64 ≤ lookN s.spares (die * 64 + index / 1024))
      let s := if bad then failUnit s u die cluster index else passUnit s u die cluster index
      let s := unitLog s u (boolNat bad) die cluster index syn
      let s := if bad && full then unitLog s u 1 die cluster index 1 else s
      tellTest s u die cluster index (boolNat bad)
def execSelfTestVerdict (u : UnitKind) (die cluster index : Nat) (syndrome : Word) (s : State) : Out :=
  .next (testVerdict s u die cluster index syndrome)

/-- SELFTEST: parks the steward for the test's duration. -/
def execSelftest (p : Pred) (d a : Reg) (s : State) : Out :=
  let i := Instr.selftest p d a
  stewardOnly p s i (fun th => operands s th i [a] none (fun s' vs =>
    let die := dieOf s.cur.core
    let wait (s : State) (n c : Nat) : State := modThread (park s s.cur (.until c) (some i)) s.cur (fun th => { th with cont := n })
    if th.cont = 2 then writeLate s s.cur th i d (vs.getD 1 0)
    else if th.cont = 1 then wait (keeping s' vs) 1 (s.now + 1)
    else match unitOfCode (vs.getD 0 0) with
      | none => writeLate (keeping s' vs) s.cur th i d 3
      | some (u, c, x) =>
        if outOfService s u die c x then writeLate (keeping s' vs) s.cur th i d 1
        else if (testOf s u die c x).isSome then writeLate (keeping s' vs) s.cur th i d 2
        else
          let s1 := startTest (keeping s' vs) u die c x 0
          if ((testOf s1 u die c x).map UnitTest.postponed).getD true then writeLate s1 s.cur th i d 2
          else wait s1 1 (s.now + testTime u)))

end Sys2Proof.Machine
end

