-- ==== Sys2Proof/Machine/Dispatch.lean ====
section
/-! DEFINITION. One arm per constructor of Instr: the meaning it calls. -/
namespace Sys2Proof.Machine
open Sys2Proof

def exec (i : Instr) (s : State) : Host.Outcome State Fault Refusal :=
  match i with
  | .add p d a b => Sys2Proof.Machine.execAdd p d a b s
  | .sub p d a b => Sys2Proof.Machine.execSub p d a b s
  | .mul p d a b => Sys2Proof.Machine.execMul p d a b s
  | .mulh p d a b => Sys2Proof.Machine.execMulh p d a b s
  | .mulhs p d a b => Sys2Proof.Machine.execMulhs p d a b s
  | .div p d a b => Sys2Proof.Machine.execDiv p d a b s
  | .divs p d a b => Sys2Proof.Machine.execDivs p d a b s
  | .rem p d a b => Sys2Proof.Machine.execRem p d a b s
  | .rems p d a b => Sys2Proof.Machine.execRems p d a b s
  | .and p d a b => Sys2Proof.Machine.execAnd p d a b s
  | .or p d a b => Sys2Proof.Machine.execOr p d a b s
  | .xor p d a b => Sys2Proof.Machine.execXor p d a b s
  | .andn p d a b => Sys2Proof.Machine.execAndn p d a b s
  | .shl p d a b => Sys2Proof.Machine.execShl p d a b s
  | .shr p d a b => Sys2Proof.Machine.execShr p d a b s
  | .sra p d a b => Sys2Proof.Machine.execSra p d a b s
  | .rotl p d a b => Sys2Proof.Machine.execRotl p d a b s
  | .min p d a b => Sys2Proof.Machine.execMin p d a b s
  | .max p d a b => Sys2Proof.Machine.execMax p d a b s
  | .mins p d a b => Sys2Proof.Machine.execMins p d a b s
  | .maxs p d a b => Sys2Proof.Machine.execMaxs p d a b s
  | .clz p d a => Sys2Proof.Machine.execClz p d a s
  | .ctz p d a => Sys2Proof.Machine.execCtz p d a s
  | .popc p d a => Sys2Proof.Machine.execPopc p d a s
  | .bext p sx d a pos lenM1 => Sys2Proof.Machine.execBext p sx d a pos lenM1 s
  | .bins p d a b pos lenM1 => Sys2Proof.Machine.execBins p d a b pos lenM1 s
  | .brev p d a => Sys2Proof.Machine.execBrev p d a s
  | .bswap p d a => Sys2Proof.Machine.execBswap p d a s
  | .sel p d a b c => Sys2Proof.Machine.execSel p d a b c s
  | .cmp p cc d a b => Sys2Proof.Machine.execCmp p cc d a b s
  | .pand p d a b => Sys2Proof.Machine.execPand p d a b s
  | .por p d a b => Sys2Proof.Machine.execPor p d a b s
  | .pxor p d a b => Sys2Proof.Machine.execPxor p d a b s
  | .pnot p d a => Sys2Proof.Machine.execPnot p d a s
  | .mov p d a => Sys2Proof.Machine.execMov p d a s
  | .lea p d a b s_ off => Sys2Proof.Machine.execLea p d a b s_ off s
  | .addi p d a imm => Sys2Proof.Machine.execAddi p d a imm s
  | .muli p d a imm => Sys2Proof.Machine.execMuli p d a imm s
  | .andi p d a imm => Sys2Proof.Machine.execAndi p d a imm s
  | .ori p d a imm => Sys2Proof.Machine.execOri p d a imm s
  | .xori p d a imm => Sys2Proof.Machine.execXori p d a imm s
  | .shli p d a n => Sys2Proof.Machine.execShli p d a n s
  | .shri p d a n => Sys2Proof.Machine.execShri p d a n s
  | .srai p d a n => Sys2Proof.Machine.execSrai p d a n s
  | .cmpi p cc d a imm => Sys2Proof.Machine.execCmpi p cc d a imm s
  | .movi p d imm => Sys2Proof.Machine.execMovi p d imm s
  | .movhi p d a h => Sys2Proof.Machine.execMovhi p d a h s
  | .leai p d imm => Sys2Proof.Machine.execLeai p d imm s
  | .fadd p ty rm d a b => Sys2Proof.Machine.execFadd p ty rm d a b s
  | .fsub p ty rm d a b => Sys2Proof.Machine.execFsub p ty rm d a b s
  | .fmul p ty rm d a b => Sys2Proof.Machine.execFmul p ty rm d a b s
  | .fma p ty rm d a b c => Sys2Proof.Machine.execFma p ty rm d a b c s
  | .fnma p ty rm d a b c => Sys2Proof.Machine.execFnma p ty rm d a b c s
  | .fdiv p ty rm d a b => Sys2Proof.Machine.execFdiv p ty rm d a b s
  | .fsqrt p ty rm d a => Sys2Proof.Machine.execFsqrt p ty rm d a s
  | .fmin p ty d a b => Sys2Proof.Machine.execFmin p ty d a b s
  | .fmax p ty d a b => Sys2Proof.Machine.execFmax p ty d a b s
  | .fabs p ty d a => Sys2Proof.Machine.execFabs p ty d a s
  | .fneg p ty d a => Sys2Proof.Machine.execFneg p ty d a s
  | .fcmp p cc ty d a b => Sys2Proof.Machine.execFcmp p cc ty d a b s
  | .fclass p ty d a => Sys2Proof.Machine.execFclass p ty d a s
  | .fcvt p dst src rm d a c t => Sys2Proof.Machine.execFcvt p dst src rm d a c t s
  | .nop p => Sys2Proof.Machine.execNop p s
  | .align p k => Sys2Proof.Machine.execAlign p k s
  | .br p off => Sys2Proof.Machine.execBr p off s
  | .jmp p addr => Sys2Proof.Machine.execJmp p addr s
  | .jmpr p a off => Sys2Proof.Machine.execJmpr p a off s
  | .call p off => Sys2Proof.Machine.execCall p off s
  | .callr p a off => Sys2Proof.Machine.execCallr p a off s
  | .ret p => Sys2Proof.Machine.execRet p s
  | .loop p d off => Sys2Proof.Machine.execLoop p d off s
  | .trap p n => Sys2Proof.Machine.execTrap p n s
  | .eret p next => Sys2Proof.Machine.execEret p next s
  | .quit p => Sys2Proof.Machine.execQuit p s
  | .ld p sz sx d m => Sys2Proof.Machine.execLd p sz sx d m s
  | .st p sz d m => Sys2Proof.Machine.execSt p sz d m s
  | .lda p sz sx sc d m => Sys2Proof.Machine.execLda p sz sx sc d m s
  | .stl p sz sc d m => Sys2Proof.Machine.execStl p sz sc d m s
  | .ldfe p sc d m => Sys2Proof.Machine.execLdfe p sc d m s
  | .ldff p sc d m => Sys2Proof.Machine.execLdff p sc d m s
  | .stfe p sc d m => Sys2Proof.Machine.execStfe p sc d m s
  | .stff p sc d m => Sys2Proof.Machine.execStff p sc d m s
  | .feset p m => Sys2Proof.Machine.execFeset p m s
  | .feclr p m => Sys2Proof.Machine.execFeclr p m s
  | .fence p o sc => Sys2Proof.Machine.execFence p o sc s
  | .waita p cc sz sc m b => Sys2Proof.Machine.execWaita p cc sz sc m b s
  | .wait p l s_ c t => Sys2Proof.Machine.execWait p l s_ c t s
  | .amo p op sz sx o sc d m b => Sys2Proof.Machine.execAmo p op sz sx o sc d m b s
  | .cas p sz sx o sc d m b => Sys2Proof.Machine.execCas p sz sx o sc d m b s
  | .amof p op o sc d m b => Sys2Proof.Machine.execAmof p op o sc d m b s
  | .fraddM p kind o sc d m b => Sys2Proof.Machine.execFraddM p kind o sc d m b s
  | .frrdM p rm clr o sc d m => Sys2Proof.Machine.execFrrdM p rm clr o sc d m s
  | .arrive p d g => Sys2Proof.Machine.execArrive p d g s
  | .bwait p g a => Sys2Proof.Machine.execBwait p g a s
  | .bar p d g => Sys2Proof.Machine.execBar p d g s
  | .bgrpJoin p g => Sys2Proof.Machine.execBgrpJoin p g s
  | .bgrpLeave p g => Sys2Proof.Machine.execBgrpLeave p g s
  | .chbind p kind d target => Sys2Proof.Machine.execChbind p kind d target s
  | .chstat p d a => Sys2Proof.Machine.execChstat p d a s
  | .cflush p inv m => Sys2Proof.Machine.execCflush p inv m s
  | .vadd p et sat vm d a b => Sys2Proof.Machine.execVadd p et sat vm d a b s
  | .vsub p et sat vm d a b => Sys2Proof.Machine.execVsub p et sat vm d a b s
  | .vmul p et sat vm d a b => Sys2Proof.Machine.execVmul p et sat vm d a b s
  | .vfma p et vm d a b c => Sys2Proof.Machine.execVfma p et vm d a b c s
  | .vmin p et vm d a b => Sys2Proof.Machine.execVmin p et vm d a b s
  | .vmax p et vm d a b => Sys2Proof.Machine.execVmax p et vm d a b s
  | .vabs p et sat vm d a => Sys2Proof.Machine.execVabs p et sat vm d a s
  | .vneg p et sat vm d a => Sys2Proof.Machine.execVneg p et sat vm d a s
  | .vand p et vm d a b => Sys2Proof.Machine.execVand p et vm d a b s
  | .vor p et vm d a b => Sys2Proof.Machine.execVor p et vm d a b s
  | .vxor p et vm d a b => Sys2Proof.Machine.execVxor p et vm d a b s
  | .vshl p et vm d a b => Sys2Proof.Machine.execVshl p et vm d a b s
  | .vshr p et vm d a b => Sys2Proof.Machine.execVshr p et vm d a b s
  | .vsra p et vm d a b => Sys2Proof.Machine.execVsra p et vm d a b s
  | .vcmp p cc et vm d a b => Sys2Proof.Machine.execVcmp p cc et vm d a b s
  | .vsel p et vm d a b c => Sys2Proof.Machine.execVsel p et vm d a b c s
  | .vcvt p dst src vm d a part => Sys2Proof.Machine.execVcvt p dst src vm d a part s
  | .vred p op et sat vm d a => Sys2Proof.Machine.execVred p op et sat vm d a s
  | .vshuf p mode et vm d a => Sys2Proof.Machine.execVshuf p mode et vm d a s
  | .vbcast p et vm d a => Sys2Proof.Machine.execVbcast p et vm d a s
  | .vins p et d a n => Sys2Proof.Machine.execVins p et d a n s
  | .vext p et d a n => Sys2Proof.Machine.execVext p et d a n s
  | .vld p d m => Sys2Proof.Machine.execVld p d m s
  | .vst p d m => Sys2Proof.Machine.execVst p d m s
  | .vldg p d m => Sys2Proof.Machine.execVldg p d m s
  | .vsts p d m => Sys2Proof.Machine.execVsts p d m s
  | .vrcp p et vm d a => Sys2Proof.Machine.execVrcp p et vm d a s
  | .vrsq p et vm d a => Sys2Proof.Machine.execVrsq p et vm d a s
  | .vexp2 p et vm d a => Sys2Proof.Machine.execVexp2 p et vm d a s
  | .vlog2 p et vm d a => Sys2Proof.Machine.execVlog2 p et vm d a s
  | .vrng p vm d a => Sys2Proof.Machine.execVrng p vm d a s
  | .vsr p et vm d a b h => Sys2Proof.Machine.execVsr p et vm d a b h s
  | .vquant p n vm d a b c => Sys2Proof.Machine.execVquant p n vm d a b c s
  | .vdeq p n vm d a h => Sys2Proof.Machine.execVdeq p n vm d a h s
  | .vdrop p et vm d a b c q => Sys2Proof.Machine.execVdrop p et vm d a b c q s
  | .mma p o => Sys2Proof.Machine.execMma p o s
  | .mmag p o e => Sys2Proof.Machine.execMmag p o e s
  | .accz p d floor => Sys2Proof.Machine.execAccz p d floor s
  | .accst p ty rm fr a b mask => Sys2Proof.Machine.execAccst p ty rm fr a b mask s
  | .accld p ty d a mask => Sys2Proof.Machine.execAccld p ty d a mask s
  | .accmv p d a => Sys2Proof.Machine.execAccmv p d a s
  | .accadd p d a => Sys2Proof.Machine.execAccadd p d a s
  | .latch p ty sideB l1 f a mask => Sys2Proof.Machine.execLatch p ty sideB l1 f a mask s
  | .fmtsetReg p d a => Sys2Proof.Machine.execFmtsetReg p d a s
  | .fmtsetPreset p d pre sc sat => Sys2Proof.Machine.execFmtsetPreset p d pre sc sat s
  | .fmtget p d a => Sys2Proof.Machine.execFmtget p d a s
  | .frsend p a b tag mask => Sys2Proof.Machine.execFrsend p a b tag mask s
  | .frwait p d a => Sys2Proof.Machine.execFrwait p d a s
  | .cpy p near sh d a b c => Sys2Proof.Machine.execCpy p near sh d a b c s
  | .ctest p sel d a => Sys2Proof.Machine.execCtest p sel d a s
  | .cwait p d a => Sys2Proof.Machine.execCwait p d a s
  | .ccancel p d a => Sys2Proof.Machine.execCcancel p d a s
  | .publish p a b => Sys2Proof.Machine.execPublish p a b s
  | .publishG p a b c => Sys2Proof.Machine.execPublishG p a b c s
  | .bankcfg p a => Sys2Proof.Machine.execBankcfg p a s
  | .spawn p pin d a b c => Sys2Proof.Machine.execSpawn p pin d a b c s
  | .spawnat p d a b c e => Sys2Proof.Machine.execSpawnat p d a b c e s
  | .join p a => Sys2Proof.Machine.execJoin p a s
  | .yieldTok p ck d a => Sys2Proof.Machine.execYieldTok p ck d a s
  | .yieldWord p cc near ck a b => Sys2Proof.Machine.execYieldWord p cc near ck a b s
  | .yoke p d => Sys2Proof.Machine.execYoke p d s
  | .unyoke p => Sys2Proof.Machine.execUnyoke p s
  | .xmovFrom p d a => Sys2Proof.Machine.execXmovFrom p d a s
  | .xmovTo p d a => Sys2Proof.Machine.execXmovTo p d a s
  | .migrate p d a => Sys2Proof.Machine.execMigrate p d a s
  | .startCtx p d a b => Sys2Proof.Machine.execStartCtx p d a b s
  | .startFrame p d a b => Sys2Proof.Machine.execStartFrame p d a b s
  | .reap p d a => Sys2Proof.Machine.execReap p d a s
  | .chkpt p n => Sys2Proof.Machine.execChkpt p n s
  | .srd p d r => Sys2Proof.Machine.execSrd p d r s
  | .swr p r a => Sys2Proof.Machine.execSwr p r a s
  | .tlbinv p sc a b => Sys2Proof.Machine.execTlbinv p sc a b s
  | .tlbinvAll p sc => Sys2Proof.Machine.execTlbinvAll p sc s
  | .wspill p near => Sys2Proof.Machine.execWspill p near s
  | .wfill p near => Sys2Proof.Machine.execWfill p near s
  | .nred p a b tag mask => Sys2Proof.Machine.execNred p a b tag mask s
  | .digestN p d a b => Sys2Proof.Machine.execDigestN p d a b s
  | .digestT p d b => Sys2Proof.Machine.execDigestT p d b s
  | .dgchk p a b tag => Sys2Proof.Machine.execDgchk p a b tag s
  | .selftest p d a => Sys2Proof.Machine.execSelftest p d a s
  | .lineFetchArrival t va => Sys2Proof.Machine.execLineFetchArrival t va s
  | .threadWake t => Sys2Proof.Machine.execThreadWake t s
  | .nearLoadLand t id => Sys2Proof.Machine.execNearLoadLand t id s
  | .nearStoreAck t id => Sys2Proof.Machine.execNearStoreAck t id s
  | .homeWaiterServe h => Sys2Proof.Machine.execHomeWaiterServe h s
  | .waiterTableResend q => Sys2Proof.Machine.execWaiterTableResend q s
  | .walkComplete t => Sys2Proof.Machine.execWalkComplete t s
  | .engineEntryDone core id => Sys2Proof.Machine.execEngineEntryDone core id s
  | .frsendInject core id => Sys2Proof.Machine.execFrsendInject core id s
  | .frsendComplete core id => Sys2Proof.Machine.execFrsendComplete core id s
  | .copyRecordArrival cluster token => Sys2Proof.Machine.execCopyRecordArrival cluster token s
  | .copyBeatWrite cluster token beat => Sys2Proof.Machine.execCopyBeatWrite cluster token beat s
  | .copyComplete cluster token => Sys2Proof.Machine.execCopyComplete cluster token s
  | .copyFault cluster token => Sys2Proof.Machine.execCopyFault cluster token s
  | .frameReady core f => Sys2Proof.Machine.execFrameReady core f s
  | .spillComplete core => Sys2Proof.Machine.execSpillComplete core s
  | .dequeRefill core => Sys2Proof.Machine.execDequeRefill core s
  | .joinDecrement t addr launch op => Sys2Proof.Machine.execJoinDecrement t addr launch op s
  | .latchToDeque core => Sys2Proof.Machine.execLatchToDeque core s
  | .loadForward core id => Sys2Proof.Machine.execLoadForward core id s
  | .barrierArrivalRecord uid pg die g phase => Sys2Proof.Machine.execBarrierArrivalRecord uid pg die g phase s
  | .barrierComplete pg die g => Sys2Proof.Machine.execBarrierComplete pg die g s
  | .watchSweep h pg die g m => Sys2Proof.Machine.execWatchSweep h pg die g m s
  | .watchSweepDone h pg die g m => Sys2Proof.Machine.execWatchSweepDone h pg die g m s
  | .bankcfgStart cluster bank => Sys2Proof.Machine.execBankcfgStart cluster bank s
  | .bankcfgComplete cluster bank => Sys2Proof.Machine.execBankcfgComplete cluster bank s
  | .publishSwap t => Sys2Proof.Machine.execPublishSwap t s
  | .publishPoint t => Sys2Proof.Machine.execPublishPoint t s
  | .loadRequest q => Sys2Proof.Machine.execLoadRequest q s
  | .storeRequest q => Sys2Proof.Machine.execStoreRequest q s
  | .atomicRequest q => Sys2Proof.Machine.execAtomicRequest q s
  | .fullEmptyRequest q => Sys2Proof.Machine.execFullEmptyRequest q s
  | .waitaRequest q => Sys2Proof.Machine.execWaitaRequest q s
  | .withdrawal q => Sys2Proof.Machine.execWithdrawal q s
  | .furrowMessage m => Sys2Proof.Machine.execFurrowMessage m s
  | .frameMessage f dest src tag => Sys2Proof.Machine.execFrameMessage f dest src tag s
  | .probeMessage thief victim mask => Sys2Proof.Machine.execProbeMessage thief victim mask s
  | .reply t tag r => Sys2Proof.Machine.execReply t tag r s
  | .acknowledgement t tag fault => Sys2Proof.Machine.execAcknowledgement t tag fault s
  | .translationRequest incoming pkg cluster frame t => Sys2Proof.Machine.execTranslationRequest incoming pkg cluster frame t s
  | .translationReply cluster pkg frame entry t => Sys2Proof.Machine.execTranslationReply cluster pkg frame entry t s
  | .invalidation pkg cluster first count => Sys2Proof.Machine.execInvalidation pkg cluster first count s
  | .invalidationAck pkg cluster first count release => Sys2Proof.Machine.execInvalidationAck pkg cluster first count release s
  | .nredMessage m => Sys2Proof.Machine.execNredMessage m s
  | .digestMessage group round member digest count => Sys2Proof.Machine.execDigestMessage group round member digest count s
  | .barrierMessage pg die g uid phase => Sys2Proof.Machine.execBarrierMessage pg die g uid phase s
  | .contextMessage uid src target => Sys2Proof.Machine.execContextMessage uid src target s
  | .refusal q => Sys2Proof.Machine.execRefusal q s
  | .refusalResend q => Sys2Proof.Machine.execRefusalResend q s
  | .requestTimeout t tag => Sys2Proof.Machine.execRequestTimeout t tag s
  | .claimLatchStart core => Sys2Proof.Machine.execClaimLatchStart core s
  | .emptyAnswer thief victim => Sys2Proof.Machine.execEmptyAnswer thief victim s
  | .notificationWrite q => Sys2Proof.Machine.execNotificationWrite q s
  | .launchRecord rid => Sys2Proof.Machine.execLaunchRecord rid s
  | .launchNearImage lid cluster => Sys2Proof.Machine.execLaunchNearImage lid cluster s
  | .doneWord lid => Sys2Proof.Machine.execDoneWord lid s
  | .bootVerify sigOk => Sys2Proof.Machine.execBootVerify sigOk s
  | .selfTestVerdict u die cluster index syndrome => Sys2Proof.Machine.execSelfTestVerdict u die cluster index syndrome s
  | .queueDisabled q => Sys2Proof.Machine.execQueueDisabled q s
  | .threadSave t => Sys2Proof.Machine.execThreadSave t s
  | .slotPop core slot => Sys2Proof.Machine.execSlotPop core slot s
  | .replayDivergenceDeadline core launch => Sys2Proof.Machine.execReplayDivergenceDeadline core launch s
  | .launchThreadsDone lid => Sys2Proof.Machine.execLaunchThreadsDone lid s
  | .signal rid => Sys2Proof.Machine.execSignal rid s
  | .forfeitEnd t => Sys2Proof.Machine.execForfeitEnd t s
  | .alignTimeout t => Sys2Proof.Machine.execAlignTimeout t s
  | .waitLimit t => Sys2Proof.Machine.execWaitLimit t s
  | .engineEntryStart core => Sys2Proof.Machine.execEngineEntryStart core s
  | .copyEngineTake cluster engine => Sys2Proof.Machine.execCopyEngineTake cluster engine s
  | .spillStart core => Sys2Proof.Machine.execSpillStart core s
  | .stealProbe core => Sys2Proof.Machine.execStealProbe core s
  | .balancingStep => Sys2Proof.Machine.execBalancingStep s
  | .saveDeadline t => Sys2Proof.Machine.execSaveDeadline t s
  | .threadRestore queue uid t => Sys2Proof.Machine.execThreadRestore queue uid t s
  | .flitRoute reply router => Sys2Proof.Machine.execFlitRoute reply router s
  | .starvationStart router => Sys2Proof.Machine.execStarvationStart router s
  | .starvationEnd => Sys2Proof.Machine.execStarvationEnd s
  | .flitCrcRetry id => Sys2Proof.Machine.execFlitCrcRetry id s
  | .linkFrame port tagOk flits => Sys2Proof.Machine.execLinkFrame port tagOk flits s
  | .hbmChannelAccess ch => Sys2Proof.Machine.execHbmChannelAccess ch s
  | .dieBridgeTransfer src dst => Sys2Proof.Machine.execDieBridgeTransfer src dst s
  | .hostLinkTransfer => Sys2Proof.Machine.execHostLinkTransfer s
  | .hostCxlMemAccess write addr data => Sys2Proof.Machine.execHostCxlMemAccess write addr data s
  | .hostSnoop line => Sys2Proof.Machine.execHostSnoop line s
  | .doorbell q v => Sys2Proof.Machine.execDoorbell q v s
  | .queueEnable q => Sys2Proof.Machine.execQueueEnable q s
  | .queueDisable q => Sys2Proof.Machine.execQueueDisable q s
  | .queueResume q => Sys2Proof.Machine.execQueueResume q s
  | .registerWrite q r v => Sys2Proof.Machine.execRegisterWrite q r v s
  | .takeRecord q => Sys2Proof.Machine.execTakeRecord q s
  | .headlandRecord q => Sys2Proof.Machine.execHeadlandRecord q s
  | .launchBankMap lid cluster => Sys2Proof.Machine.execLaunchBankMap lid cluster s
  | .launchPreload lid cluster => Sys2Proof.Machine.execLaunchPreload lid cluster s
  | .launchCoreStart lid core => Sys2Proof.Machine.execLaunchCoreStart lid core s
  | .launchWriteback lid cluster => Sys2Proof.Machine.execLaunchWriteback lid cluster s
  | .waitrec rid => Sys2Proof.Machine.execWaitrec rid s
  | .cond rid => Sys2Proof.Machine.execCond rid s
  | .fenceRecord rid => Sys2Proof.Machine.execFenceRecord rid s
  | .preemptSaveSlots rid => Sys2Proof.Machine.execPreemptSaveSlots rid s
  | .preemptSaveLaunch rid => Sys2Proof.Machine.execPreemptSaveLaunch rid s
  | .preemptRelease rid => Sys2Proof.Machine.execPreemptRelease rid s
  | .preemptDispose rid => Sys2Proof.Machine.execPreemptDispose rid s
  | .fwBegin len => Sys2Proof.Machine.execFwBegin len s
  | .fwData off data => Sys2Proof.Machine.execFwData off data s
  | .fwCommit => Sys2Proof.Machine.execFwCommit s
  | .logSet addr => Sys2Proof.Machine.execLogSet addr s
  | .keyInstall keyId key inSession => Sys2Proof.Machine.execKeyInstall keyId key inSession s
  | .linkKey port tx key => Sys2Proof.Machine.execLinkKey port tx key s
  | .groupUpdate addr => Sys2Proof.Machine.execGroupUpdate addr s
  | .exportSet addr => Sys2Proof.Machine.execExportSet addr s
  | .agentInval first count => Sys2Proof.Machine.execAgentInval first count s
  | .getVersion => Sys2Proof.Machine.execGetVersion s
  | .getCapabilities => Sys2Proof.Machine.execGetCapabilities s
  | .negotiateAlgorithms => Sys2Proof.Machine.execNegotiateAlgorithms s
  | .getDigests => Sys2Proof.Machine.execGetDigests s
  | .getCertificate => Sys2Proof.Machine.execGetCertificate s
  | .challenge => Sys2Proof.Machine.execChallenge s
  | .getMeasurements signed => Sys2Proof.Machine.execGetMeasurements signed s
  | .keyExchange => Sys2Proof.Machine.execKeyExchange s
  | .finish => Sys2Proof.Machine.execFinish s
  | .endSession => Sys2Proof.Machine.execEndSession s
  | .bootMeasure => Sys2Proof.Machine.execBootMeasure s
  | .bootTrain => Sys2Proof.Machine.execBootTrain s
  | .bootCounter => Sys2Proof.Machine.execBootCounter s
  | .bootCertify => Sys2Proof.Machine.execBootCertify s
  | .deviceReset => Sys2Proof.Machine.execDeviceReset s
  | .thermalThrottle temp => Sys2Proof.Machine.execThermalThrottle temp s
  | .thermalRecover temp => Sys2Proof.Machine.execThermalRecover temp s
  | .thermalShutdown temp => Sys2Proof.Machine.execThermalShutdown temp s
  | .selfTestStart u die cluster index syndrome => Sys2Proof.Machine.execSelfTestStart u die cluster index syndrome s

end Sys2Proof.Machine
end

