-- ==== Sys2Proof/Machine/Issue.lean ====
section
/-! DEFINITION. Issue: eligibility and the choice of a slot (R57, R60, R432), the parks before issue (R63, R144), the line checks
in their order (R21-R27, R424), single instructions and pairs (R23-R25, R96), and the cluster fetch port (R69). -/
namespace Sys2Proof.Machine
open Sys2Proof

/-! ### Eligibility (R57, R60, R69, R139) -/

/-- The line of a thread's next pc, if the core's line buffer holds it. -/
def threadLine (s : State) (t : TId) (th : Thread) : Option LineEnt := findLn (coreAt s t.core) (rootOf s th) (lineVa th.pc)

/-- A line can be issued from in the cycle after its arrival. -/
def lineReady (s : State) (t : TId) (th : Thread) : Bool :=
  match threadLine s t th with
  | some l => decide (l.lastUse < s.now)
  | none => false

/-- The thread may issue in this cycle. An illegal offset needs no line: its trap comes before any fetch (R26). -/
def eligible (s : State) (t : TId) (th : Thread) : Bool :=
  th.park.isNone && th.stopped.isNone && th.forfeit = 0 && decide (th.ready ≤ s.now)
    && ((linePos th.pc).isNone || lineReady s t th)

/-- The slot that issues: that of the cycle's rotation position, or else the one opposite. Under GATE, in the withheld
rotations only positions 0 and 8 issue (R432). -/
def issuerOf (s : State) (core : Nat) : Option (TId × Thread) :=
  let p := s.now % 16
  if s.now / 16 % 8 < s.power.gate && p != 0 && p != 8 then none
  else [p, mateSlot p].findSome? (fun n =>
    match thread? s ⟨core, n⟩ with
    | some th => if eligible s ⟨core, n⟩ th then some (⟨core, n⟩, th) else none
    | none => none)

/-! ### The unit that issues (R20, R25) -/

/-- The positions that issue as one: a pair from its first instruction; its second alone after a return. -/
def unitAt (d : Line) (p : Nat) : List Nat :=
  if pairBit d p && !(decide (0 < p) && pairBit d (p - 1)) then [p, p + 1] else [p]

/-- The legal instructions of the unit whose predicate holds. -/
def unitActive (th : Thread) (d : Line) (ps : List Nat) : List Instr :=
  ps.filterMap (fun p => match decode (lineInstr d p) with
    | .ok i => if predOk th (predicate i) then some i else none
    | .error _ => none)

/-- The number of a counter in the park reason. -/
def counterNum : OpKind → Nat
  | .ld => 0
  | .st | .msg => 1
  | .cp => 2
  | _ => 3
/-- A counter that an instruction would raise stands at 63 (R63). -/
def atCounter (th : Thread) (i : Instr) : Option Nat :=
  match raises i with
  | some k => if 63 ≤ countOf k th then some (counterNum k) else none
  | none => none

/-- What a unit waits for before it issues: the registers that are not present, then a counter at 63. -/
def unitWait (th : Thread) (is : List Instr) : Option Why :=
  match is.find? (fun i => missing th i != []) with
  | some i => some (.presence (is.flatMap (missing th)) (opOf i))
  | none => (is.findSome? (atCounter th)).map .counter

/-! ### Line checks (R26, R27) -/

/-- The failing parity of the unit's words, the lowest first, or of the line word. -/
def parityCode (d : Line) (ps : List Nat) : Option Nat :=
  match ps.find? (wordParityBad d) with
  | some p => some (16 + p)
  | none => if lineParityBad d then some 0x1F else none

/-- The first of checks 4 and 5 that fails. -/
def lineFault (th : Thread) (d : Line) (p : Nat) : Option TrapInfo :=
  match malformed d with
  | some c => some ⟨0x02, lineVa th.pc, BitVec.ofNat 64 c⟩
  | none => if th.checked && !targetBit d p then some ⟨0x05, th.pc, 0⟩ else none

/-- A turn that ends in a trap; a refetch for one of its checks is over. -/
def trapTurn (s : State) (t : TId) (ti : TrapInfo) : State :=
  trap (modThread s t (fun th => { th with turns := th.turns + 1, refetch := false })) t ti

/-- The line is dropped and asked for once more, for this check of this thread (R26). -/
def refetchLine (s : State) (t : TId) (l : LineEnt) : State :=
  modThread (modCore s t.core (fun k => { k with lines := k.lines.filter (fun x => !(x.root = l.root && x.va = l.va)) })) t
    (fun th => { th with refetch := true })

/-! ### Running the unit -/

/-- Runs one word on the current thread: an illegal word traps (R55). -/
def runWord (s : State) (w : IWord) : Out :=
  match decode w with
  | .ok i => exec i s
  | .error e => .next (trap s s.cur (illegalInfo e.op.toNat e.reason e.field))

/-- The thread still stands right after the instruction at `pc`. -/
def wentOn (s : State) (t : TId) (th : Thread) : Bool :=
  match thread? s t with
  | some x => x.uid = th.uid && x.park.isNone && x.stopped.isNone && x.pc = succPc th.pc && !x.checked
  | none => false

/-- The first instruction of a pair parks on a channel: the pair issues again as a whole. -/
def repeatPair (s : State) (t : TId) : State :=
  modThread s t (fun th => { th with park := th.park.map (fun p => { p with retry := none }) })

/-- Runs the unit: for a pair, the second instruction runs when the first has completed, with the registers as they stood
before the pair (R24, R25). -/
def runUnit (s : State) (t : TId) (th : Thread) (d : Line) (ps : List Nat) : Out :=
  match ps with
  | [] => .next s
  | [p] => runWord s (lineInstr d p)
  | p :: q :: _ => match runWord s (lineInstr d p) with
    | .next s1 =>
      if wentOn s1 t th then runWord { s1 with cur := t, views := ⟨t, th⟩ :: s1.views } (lineInstr d q)
      else .next (repeatPair s1 t)
    | o => o

/-- A park before issue: the turn is used when the unit issues. -/
def parkedBefore (s : State) (uid : Nat) : Bool :=
  match findUid s uid with
  | some (_, th) => match th.park with
    | some p => p.retry.isNone && (match p.why with
      | .chRead _ | .chWrite _ | .dequeSpill => true
      | _ => false)
    | none => false
  | none => false
/-- Counts the turn that has issued. -/
def countTurn (uid : Nat) : Out → Out
  | .next s => .next (if parkedBefore s uid then s else modUid s uid (fun th => { th with turns := th.turns + 1 }))
  | o => o

/-- The cycle becomes the line's last use. -/
def useLine (s : State) (t : TId) (l : LineEnt) : State :=
  modCore s t.core (fun k => { k with lines := k.lines.map (fun x => if x.root = l.root && x.va = l.va then { x with lastUse := s.now } else x) })

/-- The thread issues from a line: parity, then checks 4 and 5, then the unit. -/
def issueLine (s : State) (t : TId) (th : Thread) (p : Nat) (l : LineEnt) : Out :=
  let ps := unitAt l.data p
  match parityCode l.data ps with
  | some c => .next (if th.refetch then trapTurn s t ⟨0x03, lineVa th.pc, BitVec.ofNat 64 c⟩ else refetchLine s t l)
  | none => match lineFault th l.data p with
    | some ti => .next (trapTurn s t ti)
    | none =>
      let th := { th with refetch := false }
      countTurn th.uid (runUnit (useLine (setThread s t th) t l) t th l.data ps)

/-- The thread issues: a deferred fault first (R131), then the checks of R26 in their order. -/
def issue (s : State) (t : TId) (th : Thread) : Out :=
  let s := { s with cur := t }
  match th.deferred with
  | ti :: rest => .next (trapTurn (setThread s t { th with deferred := rest }) t ti)
  | [] => match linePos th.pc with
    | none => .next (trapTurn s t ⟨0x04, th.pc, 0⟩)
    | some p => match threadLine s t th with
      | none => .next s
      | some l => issueLine s t th p l

/-- What a thread that is chosen waits for before its issue. -/
def waitBefore (s : State) (t : TId) (th : Thread) : Option Why :=
  match th.deferred, linePos th.pc, threadLine s t th with
  | [], some p, some l => unitWait th (unitActive th l.data (unitAt l.data p))
  | _, _, _ => none

/-- Offers a core the cycle: the chosen thread issues, or parks and leaves the cycle to the other slot; none where no thread
is eligible. -/
def offerCore (s : State) (core : Nat) : Option Out :=
  match issuerOf s core with
  | none => none
  | some (t, th) => match waitBefore s t th with
    | some why => some (.next (park { s with scan := core } t why none))
    | none => some (issue { s with scan := core + 1 } t th)

/-! ### The cluster fetch port (R69) -/

/-- A fetched line is on its way to a thread. -/
def lineComing (s : State) (t : TId) (va : Word) : Bool :=
  s.agenda.any (fun x => match x.2 with
    | .lineFetchArrival u a => u = t && a = va
    | _ => false)

/-- The pc whose line a thread needs next (R69): its own, or while it is parked in an instruction, the pc that its turn has decided:
the successor, or the target of a CALL that waits for loads; none where the turn has not decided it. -/
def nextPc (th : Thread) : Option Word :=
  if th.stopped.isSome then none
  else match th.park with
    | none => some th.pc
    | some p => match p.why, p.retry with
      | .presence _ _, _ | .counter _, _ => some th.pc
      | .line, _ | .joinWait _ _ _, _ => none
      | _, some (.quit _) | _, some (.eret _ _) | _, some (.join _ _) | _, some (.jmpr _ _ _) | _, some (.loop _ _ _) => none
      | _, some (.call _ off) => some (th.pc + off.signExtend 64)
      | _, some (.callr _ _ off) => (th.latch.bind List.head?).map (fun v => v + off.signExtend 64)
      | _, _ => some (succPc th.pc)

/-- The line that a thread has to ask for. -/
def wantsLine (s : State) (t : TId) (th : Thread) : Option Word :=
  match nextPc th with
  | none => none
  | some pc =>
    if (linePos pc).isNone || (findLn (coreAt s t.core) (rootOf s th) (lineVa pc)).isSome || lineComing s t (lineVa pc) then none
    else some (lineVa pc)

/-- Every thread without its line has a request at its core's port. -/
def askLines (s : State) (core : Nat) : State :=
  (coreThreads core (coreAt s core)).foldl (fun s x => match wantsLine s x.1 x.2 with
    | some va => askLine s x.1 va
    | none => s) s

/-- A request's line: its address in its thread's address space. -/
def reqLine (s : State) (core : Nat) (r : Nat × Word) : Nat × Word :=
  (((thread? s ⟨core, r.1⟩).map (rootOf s)).getD 0, r.2)

/-- The lines that the cluster's port serves in this cycle: those of the first two requesting cores at or after port t mod 16.
DESIGN CHOICE (18): R69 does not say which of one core's several missing lines is asked for first; a core presents them first in,
first out. -/
def servedLines (s : State) (g : Nat) : List (Nat × Word) :=
  let heads := (List.range 16).filterMap (fun i =>
    let c := g * 16 + (s.now + i) % 16
    ((coreAt s c).lineReqs.head?).map (reqLine s c))
  heads.eraseDups.take 2

/-- Requests for a served line leave their core; the line arrives after its time. -/
def serveLines (s : State) (core : Nat) (served : List (Nat × Word)) : State :=
  let hit (r : Nat × Word) : Bool := reqLine s core r ∈ served
  let mine := (coreAt s core).lineReqs.filter hit
  let s := modCore s core (fun k => { k with lineReqs := k.lineReqs.filter (fun r => !hit r) })
  mine.foldl (fun s r => match thread? s ⟨core, r.1⟩ with
    | some th =>
      let x := fetchXl (rootOf s th) r.2
      if (firmwareLine s ⟨core, r.1⟩ r.2).isSome then later s firmwareDelay (.lineFetchArrival ⟨core, r.1⟩ r.2)
      else later (fetchWalk s core x) (fetchDelay s core x) (.lineFetchArrival ⟨core, r.1⟩ r.2)
    | none => s) s

/-- One cycle of a cluster's fetch port. -/
def fetchPort (s : State) (g : Nat) : State :=
  match servedLines s g with
  | [] => s
  | served => (List.range 16).foldl (fun s i => serveLines s (g * 16 + i) served) s

end Sys2Proof.Machine
end

