-- ==== Sys2Proof/Machine/Schedule.lean ====
section
/-! DEFINITION. The order of a cycle's work: an instruction that continues, the events that are due, what waits and can go on,
the issue of the cores, slots that take work, the units' own cycle, and the next cycle (R15, R57, R59, R290, R317). -/
namespace Sys2Proof.Machine
open Sys2Proof

/-- One meaning after another; a fault or a refusal ends the chain. -/
def chain (o : Out) (f : State → Out) : Out :=
  match o with
  | .next s => f s
  | o => o
/-- A meaning for each member of a list, in order. -/
def eachOut {α : Type} (l : List α) (f : α → State → Out) (s : State) : Out := l.foldl (fun o x => chain o (f x)) (.next s)

/-! ### Events that are due -/

def isProbe : Instr → Bool
  | .probeMessage _ _ _ => true
  | _ => false
/-- A frame on its way to a deque, which a local SPAWN of the cycle precedes (R290). -/
def isPush : Instr → Bool
  | .frameMessage _ _ _ tag => tag != claimTag
  | .latchToDeque _ => true
  | _ => false
/-- Removes the first entry of which `f` holds. -/
def pullFirst {α : Type} (f : α → Bool) : List α → Option (α × List α)
  | [] => none
  | x :: r => if f x then some (x, r) else (pullFirst f r).map (fun y => (y.1, x :: y.2))
/-- The first event that is due; a probe waits for the slots to take their frames, and a push for the cores to issue (R290, R319). -/
def eventPoll (s : State) : Option Out :=
  (pullFirst (fun x => decide (x.1 ≤ s.now) && !isProbe x.2 && !isPush x.2) s.agenda).map (fun x => exec x.1.2 { s with agenda := x.2 })
/-- A frame that reaches a core's deque comes after the cycle's own SPAWN. -/
def framePoll (s : State) : Option Out :=
  (pullFirst (fun x => decide (x.1 ≤ s.now) && isPush x.2) s.agenda).map (fun x => exec x.1.2 { s with agenda := x.2 })

/-- A probe's rank at its victim: cluster-mates in position order, then the others by global core index. -/
def probeRank : Instr → Nat
  | .probeMessage thief victim _ => if clusterOf thief = clusterOf victim then posOf thief else 16 + thief
  | _ => 0
def probePoll (s : State) : Option Out :=
  match oldest (fun x => probeRank x.2) (s.agenda.filter (fun x => decide (x.1 ≤ s.now) && isProbe x.2)) with
  | none => none
  | some e => some (exec e.2 { s with agenda := s.agenda.erase e })

/-! ### What waits and can go on -/

/-- The thread's st count, wherever it runs. -/
def stOf (s : State) (uid : Nat) : Nat := ((findUid s uid).map (fun x => x.2.st)).getD 0
/-- A held operation can go on: its earlier operations are complete, and its write-back is acknowledged (R222, R236). -/
def heldActs (s : State) (h : HeldOp) : Bool :=
  allDone s h.before && (match h.wbAck with
    | some c => decide (c ≤ s.now)
    | none => true) && (match h.act with
    | .barrierArrivalRecord uid _ _ _ _ => stOf s uid = 0
    | _ => true)
/-- A wide release first writes the cluster's dirty lines back; the acknowledgements come a far store's time later. -/
def heldStep (s : State) (h : HeldOp) : State :=
  if h.wide && h.wbAck.isNone then
    let (s, d) := writeBackAll s (clusterOf h.t.core)
    { s with held := s.held.map (fun x => if x.id = h.id then { x with wbAck := some (s.now + d) } else x) }
  else releaseHeld s h
def heldPoll (s : State) : Option Out := (s.held.find? (heldActs s)).map (fun h => .next (heldStep s h))

/-- The parked thread goes on in this cycle; it does so once a cycle. -/
def wakes (s : State) (t : TId) (th : Thread) : Bool :=
  match th.park with
  | some p => !(p.since = s.now && th.ready = s.now + 1) && wakeNow s t th p
  | none => false
/-- The thread that has waited longest wakes first, then by core and slot. -/
def wakePoll (s : State) : Option Out :=
  (oldest (fun x => ((x.2.park.map Park.since).getD 0 * 2048 + x.1.core) * 16 + x.1.slot)
    ((allThreads s).filter (fun x => wakes s x.1 x.2))).map (fun x => execThreadWake x.1 s)

/-- ALIGN has waited 256 cycles. -/
def alignOver (s : State) (th : Thread) : Bool :=
  match th.park with
  | some p => (match p.why with
    | .align _ => decide (p.since + 256 ≤ s.now)
    | _ => false)
  | none => false
def alignPoll (s : State) : Option Out := ((allThreads s).find? (fun x => alignOver s x.2)).map (fun x => execAlignTimeout x.1 s)
def savePoll (s : State) : Option Out := ((allThreads s).find? (fun x => saveActs s x.2)).map (fun x => execThreadSave x.1 s)
def deadlinePoll (s : State) : Option Out := ((allThreads s).find? (fun x => deadlineActs s x.2)).map (fun x => execSaveDeadline x.1 s)
/-- A side's fill begins (R64). -/
def fillPoll (s : State) : Option Out := (s.cores.findSome? (fun x => beginNext s x.1)).map .next
/-- A bank serves the request that its arbitration gives this cycle (R68). -/
def bankPoll (s : State) : Option Out := (nextBank s).map (fun x => .next (bankServe s x.1 x.2))
/-- The head of an engine's queue starts (R64). -/
def enginePoll (s : State) : Option Out := (s.cores.find? (fun x => engineReady s x.1)).map (fun x => execEngineEntryStart x.1 s)
def recordPoll (s : State) : Option Out := s.taken.findSome? (recordStep s)
def launchPoll (s : State) : Option Out := s.launches.findSome? (launchStep s)
def disablePoll (s : State) : Option Out :=
  (s.queues.find? (fun x => x.2.disabling && s.taken.all (fun r => r.queue != x.1))).map (fun x => execQueueDisabled x.1 s)
/-- A notification has room. -/
def noteActs (s : State) (q : Nat) : Bool :=
  (queueAt s q).notes != [] && noteRoom s q && decide ((queueAt (drainNotes s q) q).notes.length < (queueAt s q).notes.length)
def notePoll (s : State) : Option Out := (s.queues.find? (fun x => noteActs s x.1)).map (fun x => execNotificationWrite x.1 s)
/-- A postponed self-test begins. -/
def testPoll (s : State) : Option Out := (testDue s).map (fun x => execSelfTestStart x.u x.die x.cluster x.index x.syndrome s)

/-! ### Issue (R57) -/

/-- The scan stands here when every core has been offered the cycle and the units have had theirs. -/
def scanEnd : Nat := 4096
/-- The next core, in index order, that can use the cycle. -/
def issuePoll (s : State) : Option Out := s.cores.findSome? (fun x => if x.1 < s.scan then none else offerCore s x.1)

/-! ### Slots that take work (R296, R317, R320) -/

def restorePoll (s : State) : Option Out := (restoreDue s).map (fun x => execThreadRestore x.1.queue x.1.uid x.2 s)
def startPoll (s : State) : Option Out := (coreStartDue s).map (fun x => execLaunchCoreStart x.1 x.2 s)
/-- A frame that waits in the claim latch for its REPLAY list's slot goes on. -/
def latchActs (s : State) (core : Nat) : Bool :=
  match (coreAt s core).claim with
  | none => false
  | some (f, _, _) =>
    ((launchOf s (frameLaunch f)).map (fun l => replayMode l.lrec)).getD 0 = 2
      && !s.agenda.any (fun x => match x.2 with
        | .latchToDeque c | .claimLatchStart c => c = core
        | _ => false)
      && (match latchPlace s core f with
        | some (some slot) => slotTakes s core slot f.queue.toNat || preemptNamed s core slot
        | some none => false
        | none => true)
def latchPoll (s : State) : Option Out := (s.cores.find? (fun x => latchActs s x.1)).map (fun x => execClaimLatchStart x.1 s)
/-- The slots of a core that a pop would fill, or that begin a refill. -/
def popActs (s : State) (core : Nat) : Option Nat :=
  let k := coreAt s core
  if !canTake s core then none
  else
    let free := programSlots.filter (fun n => slotTakes s core n (slotAt k n).owner)
    if free = [] then none else if refillDue s core then free.head? else free.find? (fun n => (popFrame s core n).isSome)
def popPoll (s : State) : Option Out := s.cores.findSome? (fun x => (popActs s x.1).map (fun n => execSlotPop x.1 n s))

/-! ### The units' cycle -/

/-- The members of a list without repeats, in the order of their first appearance. -/
def once {α : Type} [DecidableEq α] (l : List α) : List α := l.foldl (fun acc x => if x ∈ acc then acc else acc ++ [x]) []
/-- Routers with a flit that stands ready. -/
def readyRouters (s : State) : List (Bool × Nat) :=
  once ((s.flits.filter (fun f => decide (f.readyAt ≤ s.now))).map (fun f => (f.reply, f.router)))
def starvedRouters (s : State) : List Nat := once (((s.flits.map Flit.router)).filter (starving s))
def readyBridges (s : State) : List (Nat × Nat) := once ((s.bridges.filter (fun x => decide (x.ready ≤ s.now))).map Transfer.at_)
/-- Transitions of banks that can begin. -/
def waitingBanks (s : State) : List (Nat × Nat) :=
  s.clusters.flatMap (fun x => ((List.range 32).filter (fun b => (bankAt x.2 b).waitStart.isSome)).map (fun b => (x.1, b)))
/-- The copies of every cluster, by token, and those that an engine has. -/
def allCopies (s : State) : List (Nat × BitVec 16) := s.clusters.flatMap (fun x => x.2.copies.map (fun c => (x.1, c.token)))
def runningCopies (s : State) : List (Nat × BitVec 16) :=
  s.clusters.flatMap (fun x => (x.2.copies.filter (fun c => c.engine.isSome)).map (fun c => (x.1, c.token)))
def prepareStep (s : State) (x : Nat × BitVec 16) : State :=
  match copyOf s x.1 x.2 with
  | some c => prepareCopy (fillPages s x.1 c) x.1 c
  | none => s
def copyStep (s : State) (x : Nat × BitVec 16) : State :=
  match copyOf s x.1 x.2 with
  | some c => copyCycle s x.1 c
  | none => s

/-- The fabric's cycle: routers, starvation, die boundaries, the host link and the HBM channels. -/
def fabricCycle (s : State) : Out :=
  let o := eachOut (readyRouters s) (fun x => execFlitRoute x.1 x.2) s
  let o := chain o (fun s => eachOut (starvedRouters s) execStarvationStart s)
  let o := chain o execStarvationEnd
  let o := chain o (fun s => eachOut (readyBridges s) (fun x => execDieBridgeTransfer x.1 x.2) s)
  let o := chain o (fun s => if s.hostLink = [] then .next s else execHostLinkTransfer s)
  chain o (fun s => eachOut (once (s.channels.map ChanReq.ch)) execHbmChannelAccess s)

/-- The cycle of the banks, copy engines and deques. -/
def engineCycle (s : State) : Out :=
  let o := eachOut (waitingBanks s) (fun x => execBankcfgStart x.1 x.2) s
  let o := chain o (fun s => .next ((allCopies s).foldl prepareStep s))
  let o := chain o (fun s => eachOut (s.clusters.map Prod.fst) (fun g s => chain (execCopyEngineTake g 0 s) (execCopyEngineTake g 1)) s)
  let o := chain o (fun s => .next (shaCycle ((runningCopies s).foldl copyStep s)))
  chain o (fun s => eachOut ((s.cores.map Prod.fst).filter (spillDue s)) execSpillStart s)

/-- Each unit has the cycle once, when no core can use it any more. -/
def unitPoll (s : State) : Option Out :=
  if s.scan < scanEnd then some (chain (fabricCycle { s with scan := scanEnd }) engineCycle) else none

/-- A wait reaches its limit in this cycle (R142). -/
def limitPoll (s : State) : Option Out :=
  ((allThreads s).find? (fun x => (x.2.park.map (atLimit s x.2)).getD false)).map (fun x => execWaitLimit x.1 s)

/-! ### The next cycle -/

/-- COND samples its word at the end of the cycle in which it is taken. -/
def condCycle (s : State) : Out := eachOut ((s.taken.filter (fun r => recKind r.bytes = 4)).map TakenRec.rid) execCond s

/-- The wait counts go on (R142). -/
def countWait (s : State) (t : TId) (th : Thread) : State :=
  match th.park with
  | some p => if counted p && !paused s t th p then setThread s t { th with waited := th.waited + 1 } else s
  | none => s
/-- A forfeit count falls at the thread's own position (R60). -/
def countForfeit (x : TId × Thread) (s : State) : Out :=
  if x.2.forfeit = 0 || x.1.slot != s.now % 16 then .next s
  else if x.2.forfeit = 1 then execForfeitEnd x.1 s
  else .next (setThread s x.1 { x.2 with forfeit := x.2.forfeit - 1 })

/-- Cores whose cycle for a steal probe this is, once the stewards run (R318, R428). -/
def probers (s : State) : List Nat :=
  if s.boot.step ≤ 4 then [] else ((List.range 32).map (fun i => i * 64 + s.now % 64)).filter (idleForSteal s)

/-- The work with which a cycle begins. -/
def beginCycle (s : State) : Out :=
  let s := (allThreads s).foldl (fun s x => countWait s x.1 x.2) s
  let o := eachOut ((allThreads s).filter (fun x => x.2.forfeit != 0)) countForfeit s
  let o := chain o (fun s => if s.now % 65536 = 0 then execBalancingStep s else .next s)
  let o := chain o (fun s => eachOut (probers s) execStealProbe s)
  let o := chain o (fun s => .next ((s.cores.map Prod.fst).foldl askLines s))
  let o := chain o (fun s => .next ((once (s.cores.map (fun x => clusterOf x.1))).foldl fetchPort s))
  chain o (fun s => match takeDue s with
    | some q => execTakeRecord q s
    | none => .next s)

/-- The clock goes on (R57). -/
def tick (s : State) : Out := chain (condCycle s) (fun s => beginCycle { s with now := s.now + 1, scan := 0 })

/-! ### One action -/

/-- What happens next within the cycle, in order; none at its end. -/
def cyclePoll (s : State) : Option Out :=
  [eventPoll, heldPoll, wakePoll, alignPoll, savePoll, deadlinePoll, enginePoll, recordPoll, launchPoll, disablePoll, notePoll, testPoll,
    issuePoll, fillPoll, framePoll, restorePoll, startPoll, latchPoll, popPoll, unitPoll, bankPoll, probePoll, limitPoll].findSome? (fun f => f s)

/-- The machine's next action: an instruction that continues at its wake, then the cycle's work, then the next cycle. -/
def nextAction (s : State) : Out :=
  match s.resume with
  | some (t, i) => exec i { s with resume := none, cur := t }
  | none => match cyclePoll s with
    | some o => o
    | none => tick s

end Sys2Proof.Machine
end

