-- ==== Sys2Proof/Machine/Step.lean ====
section
/-! DEFINITION. One step of the machine, and the placing of a first instruction where the machine issues next. -/
namespace Sys2Proof.Machine
open Sys2Proof

/-- One step: the next action of the package in the order of a cycle's work. Inputs from outside (host writes, mailbox
commands, fabric frames) are events of the agenda. -/
def step (s : State) : Host.Outcome State Fault Refusal := nextAction s

/-- The line that holds one instruction, at a marked first position, with NOPs after it. -/
def firstLine (nbits w : Nat) : Line :=
  sealLine 1 0 (BitVec.ofNat 96 (w % 2 ^ nbits) :: List.replicate 4 (BitVec.ofNat 96 (0x180 * 2 ^ 86)))

/-- The slot of the first instruction: the steward's for an opcode reserved to it (R56), else slot 8, which position 0 serves. -/
def firstSlot (nbits w : Nat) : Nat :=
  let op := w % 2 ^ nbits / 2 ^ 86
  if op = 0x38E || op = 0x38F || op = 0x399 then 0 else 8

/-- A thread of launch 0 at offset 4 of line 0, reached as a checked target (R21). -/
def firstThread (s : State) : Thread := { threadReset with uid := s.nextUid, pc := 4, ready := s.now }

/-- The machine with one instruction where the next step issues: a program reaches a core through boot, a host queue and a
launch, for all of which this stands. The line lies in the line buffer since cycle `now`, and the cycle is the next in which
position 0 issues from it; nothing else waits to run first. -/
def State.withFetchWord (s : State) (nbits w : Nat) : State :=
  let th := firstThread s
  let slot := firstSlot nbits w
  let line : LineEnt := ⟨rootOf s th, 0, firstLine nbits w, s.now⟩
  let core : Core := { coreReset with slots := [(slot, { slotReset with occ := .busy th })], lines := [line] }
  { s with now := (s.now / 16 + 1) * 16, nextUid := s.nextUid + 1, resume := none, views := [], agenda := [], held := []
           taken := [], launches := [], tests := [], saved := [], scan := 0, cores := [(0, core)]
           queues := s.queues.map (fun x => (x.1, { x.2 with disabling := false, notes := [] })) }

end Sys2Proof.Machine
end

