-- ==== Sys2Proof/Safety.lean ====
section
/-! DEFINITION. What counts as a safe run, and the state properties that claims name. -/
namespace Sys2Proof
open Sys2Proof.Machine

/-- Every memory of the package is in its canonical form. -/
def memOk (s : State) : Bool :=
  Memory.wf s.hbm && Memory.wf s.sram && Memory.wf s.host && s.peers.all (fun x => Memory.wf x.2.mem)

/-- The thread at the end of its instruction: it stands at `pc` and holds nothing more of the instruction. -/
def ended (th : Thread) (pc : Word) (chk : Bool) : Thread :=
  { th with pc := pc, checked := chk, park := none, cont := 0, release := none, latch := none, pops := [], refetch := false }

/-- The state at the end of an instruction of the thread in slot `t`, which is `th` then: nothing else differs but the
thread's view of its pair, which ends. -/
def afterInstr (s : State) (t : TId) (th : Thread) : State :=
  setThread { s with views := s.views.filter (fun x => x.t != t) } t th

/-- A step or a meaning goes on. -/
def goesOn (o : Host.Outcome State Fault Refusal) : Bool :=
  match o with
  | .next _ => true
  | _ => false

/-- A run is safe for `n` steps: none of them stops with a fault or a refusal. -/
def safeFor (n : Nat) (s : State) : Prop := ∃ t, core.run n s = .next t

end Sys2Proof
end

