-- ==== Sys2Proof/Certificates/Slice0/Obligations.lean ====
section
/-! DEFINITION. The statements for the provers, and before them the words that they use. -/
namespace Sys2Proof.Says
open Sys2Proof Sys2Proof.Machine

/-! ### The words of the statements -/

/-- The current thread is `th`; it begins an instruction whose predicate `p` holds, and no part of it is under way. -/
def AtTurn (s : State) (th : Thread) (p : Pred) : Prop :=
  thread? s s.cur = some th ∧ predOk (viewOf s s.cur th) p = true ∧ th.park = none ∧ th.latch = none ∧ th.cont = 0 ∧
    th.release = none ∧ th.pops = []

/-- The channels among the operands can be used: each is bound, and has its words or its room. -/
def CanUse (s : State) (th : Thread) (i : Instr) (rs : List Reg) (d : Option Reg) : Prop :=
  opsFault s th (opOf i) rs d = none ∧ chBlocked s s.cur th rs d = none

/-- No channel stands among these registers. -/
def NoChannel (rs : List Reg) : Prop := ∀ r ∈ rs, chOf r = none

/-- The value of the n-th scalar operand of the current thread, channels popped in field order (R72); 0 past the last. -/
def val (s : State) (th : Thread) (rs : List Reg) (n : Nat) : Word := (takeOps s th rs).2.getD n 0
/-- The state with the operands' channels popped, which is `s` where no channel is read. -/
def popped (s : State) (th : Thread) (rs : List Reg) : State := (takeOps s th rs).1

/-- The current thread after its own registers became those of `th` and its instruction ended at `pc`. -/
def moved (s : State) (th : Thread) (pc : Word) (checked : Bool) : State := afterInstr s s.cur (ended th pc checked)
/-- The same with sequential flow (R20). -/
def passed (s : State) (th : Thread) : State := moved s th (succPc th.pc) false

/-- The state after the running instruction of `th` writes `v` to the scalar, mask or predicate destination `d` and ends:
g0, m0 and p0 lose the write (R35), a predicate takes bit 0 (R73), a k register is visible to other cycles 8 cycles later
(R145), a channel's queue gets the word, which its core pushes in this cycle (R238), and a FIFO bank's waiters look again (R251).
Nothing else changes. -/
def wrote (s : State) (th : Thread) (d : Reg) (v : Word) : State :=
  match d with
  | .g n => passed s { th with g := if n = 0 then th.g else th.g.set n v }
  | .w n => passed s { th with w := th.w.set n v }
  | .m n => passed s { th with m := if n = 0 then th.m else th.m.set n v }
  | .p n => passed s { th with p := if n = 0 then th.p else th.p.set n (v.getLsbD 0) }
  | .k n =>
    let c := coreAt s s.cur.core
    passed (setCore s s.cur.core { c with k := c.k.set n (kWrite s.now c.k[n] v) }) th
  | .ch n => match chQueue s s.cur th n true with
    | some q => passed (modCore (chPoke (setChWords s q (chWords s q ++ [⟨s.now + chDelay q, nearOps s th.uid, v⟩])) q) s.cur.core
        (fun k => { k with chPush := s.now + 1 })) th
    | none => s
  | _ => passed s th

/-- The same where the instruction had parked: a k register shows its result on the wake (R61). -/
def woken (s : State) (th : Thread) (d : Reg) (v : Word) : State :=
  match d with
  | .k n =>
    let c := coreAt s s.cur.core
    passed (setCore s s.cur.core { c with k := c.k.set n (kWake s.now c.k[n] v) }) th
  | _ => wrote s th d v

/-- The registers that a trap writes (R93): scr.epc, the cause with IN, scr.eaddr and scr.einfo. -/
def trapScr (th : Thread) (ti : TrapInfo) : ScrFile :=
  { th.scr with epc := th.pc, ecause := 256 ||| ti.cause.setWidth 64, eaddr := ti.addr, einfo := ti.info }
/-- The current thread `th` may take a trap itself (R93). -/
def CanTrap (th : Thread) : Prop := inTrap th = false ∧ th.scr.tvec ≠ 0
/-- The state after the current thread `th` has taken the trap: it stands at scr.tvec, a checked target, and nothing else
changes (R93). -/
def trapped (s : State) (th : Thread) (ti : TrapInfo) : State := moved s { th with scr := trapScr th ti } th.scr.tvec true

end Sys2Proof.Says

open Sys2Proof Sys2Proof.Machine Sys2Proof.Says

/-! ### Integer instructions (classes 0 and 1) -/

namespace Sys2Proof.Says

/-- Predicate, sources, destination and result of the register and immediate instructions of R73 and R78; the result is a
function of the pc and of the operand values, first to third, in field order. Division, comparison and the bit fields have statements of
their own. -/
def intRow : Instr → Option (Pred × List Reg × Reg × (Word → Word → Word → Word → Word))
  | .add p d a b => some (p, [a, b], d, fun _ x y _ => x + y)
  | .sub p d a b => some (p, [a, b], d, fun _ x y _ => x - y)
  | .mul p d a b => some (p, [a, b], d, fun _ x y _ => BitVec.ofNat 64 (x.toNat * y.toNat))
  | .mulh p d a b => some (p, [a, b], d, fun _ x y _ => BitVec.ofNat 64 (x.toNat * y.toNat / 2 ^ 64))
  | .mulhs p d a b => some (p, [a, b], d, fun _ x y _ => BitVec.ofInt 64 (x.toInt * y.toInt / 2 ^ 64))
  | .and p d a b => some (p, [a, b], d, fun _ x y _ => x &&& y)
  | .or p d a b => some (p, [a, b], d, fun _ x y _ => x ||| y)
  | .xor p d a b => some (p, [a, b], d, fun _ x y _ => x ^^^ y)
  | .andn p d a b => some (p, [a, b], d, fun _ x y _ => x &&& ~~~y)
  | .shl p d a b => some (p, [a, b], d, fun _ x y _ => x <<< (y.toNat % 64))
  | .shr p d a b => some (p, [a, b], d, fun _ x y _ => x >>> (y.toNat % 64))
  | .sra p d a b => some (p, [a, b], d, fun _ x y _ => x.sshiftRight (y.toNat % 64))
  | .rotl p d a b => some (p, [a, b], d, fun _ x y _ => x.rotateLeft (y.toNat % 64))
  | .min p d a b => some (p, [a, b], d, fun _ x y _ => if x.toNat ≤ y.toNat then x else y)
  | .max p d a b => some (p, [a, b], d, fun _ x y _ => if x.toNat ≤ y.toNat then y else x)
  | .mins p d a b => some (p, [a, b], d, fun _ x y _ => if x.toInt ≤ y.toInt then x else y)
  | .maxs p d a b => some (p, [a, b], d, fun _ x y _ => if x.toInt ≤ y.toInt then y else x)
  | .clz p d a => some (p, [a], d, fun _ x _ _ => aluClz x)
  | .ctz p d a => some (p, [a], d, fun _ x _ _ => aluCtz x)
  | .popc p d a => some (p, [a], d, fun _ x _ _ => aluPopc x)
  | .brev p d a => some (p, [a], d, fun _ x _ _ => aluBrev x)
  | .bswap p d a => some (p, [a], d, fun _ x _ _ => aluBswap x)
  | .sel p d a b c => some (p, [a, b, c], d, fun _ x y z => if z = 1 then x else y)
  | .pand p d a b => some (p, [a, b], d, fun _ x y _ => x &&& y)
  | .por p d a b => some (p, [a, b], d, fun _ x y _ => x ||| y)
  | .pxor p d a b => some (p, [a, b], d, fun _ x y _ => x ^^^ y)
  | .pnot p d a => some (p, [a], d, fun _ x _ _ => x ^^^ 1)
  | .mov p d a => some (p, [a], d, fun _ x _ _ => x)
  | .lea p d a b s off => some (p, [a, b], d, fun _ x y _ => x + (y <<< s.val) + off.signExtend 64)
  | .addi p d a imm => some (p, [a], d, fun _ x _ _ => x + imm.signExtend 64)
  | .muli p d a imm => some (p, [a], d, fun _ x _ _ => x * imm.signExtend 64)
  | .andi p d a imm => some (p, [a], d, fun _ x _ _ => x &&& imm.signExtend 64)
  | .ori p d a imm => some (p, [a], d, fun _ x _ _ => x ||| imm.signExtend 64)
  | .xori p d a imm => some (p, [a], d, fun _ x _ _ => x ^^^ imm.signExtend 64)
  | .shli p d a n => some (p, [a], d, fun _ x _ _ => x <<< n.toNat)
  | .shri p d a n => some (p, [a], d, fun _ x _ _ => x >>> n.toNat)
  | .srai p d a n => some (p, [a], d, fun _ x _ _ => x.sshiftRight n.toNat)
  | .movi p d imm => some (p, [], d, fun _ _ _ _ => imm.signExtend 64)
  | .movhi p d a h => some (p, [a], d, fun _ x _ _ => BitVec.ofNat 64 (h.toNat * 2 ^ 48 + x.toNat % 2 ^ 48))
  | .leai p d imm => some (p, [], d, fun pc _ _ _ => pc + imm.signExtend 64)
  | _ => none

/-- The result of DIV, DIVS, REM and REMS where they do not trap (R74). -/
def divRow : Instr → Option (Pred × Reg × Reg × Reg × (Word → Word → Word))
  | .div p d a b => some (p, d, a, b, fun x y => if y = 0 then 0xFFFFFFFFFFFFFFFF else BitVec.ofNat 64 (x.toNat / y.toNat))
  | .divs p d a b => some (p, d, a, b, fun x y =>
      if y = 0 then -1 else if x.toInt = -2 ^ 63 ∧ y.toInt = -1 then BitVec.ofInt 64 (-2 ^ 63)
      else BitVec.ofInt 64 (x.toInt.tdiv y.toInt))
  | .rem p d a b => some (p, d, a, b, fun x y =>
      if y = 0 then x else BitVec.ofNat 64 (x.toNat - y.toNat * (x.toNat / y.toNat)))
  | .rems p d a b => some (p, d, a, b, fun x y =>
      if y = 0 then x else if x.toInt = -2 ^ 63 ∧ y.toInt = -1 then 0
      else BitVec.ofInt 64 (x.toInt - y.toInt * x.toInt.tdiv y.toInt))
  | _ => none

end Sys2Proof.Says

namespace Sys2Proof.Says

/-- R73: leading and trailing zeros (64 for 0), set bits, the 64 bits and the 8 bytes reversed, rotation, and both halves of
the products, each said of the bits or the numbers themselves. -/
def BitCountRule : Prop :=
  (∀ a : Word, a ≠ 0 → ∃ n < 64, aluClz a = BitVec.ofNat 64 n ∧ a.getLsbD (63 - n) = true ∧
    ∀ j < 64, 63 - n < j → a.getLsbD j = false) ∧
  (∀ a : Word, a ≠ 0 → ∃ n < 64, aluCtz a = BitVec.ofNat 64 n ∧ a.getLsbD n = true ∧ ∀ j < n, a.getLsbD j = false) ∧
  aluClz 0 = 64 ∧ aluCtz 0 = 64 ∧ aluPopc 0 = 0 ∧
  (∀ (a : Word) (j : Nat), j < 64 → a.getLsbD j = false → aluPopc (a ||| BitVec.twoPow 64 j) = aluPopc a + 1) ∧
  (∀ (a : Word) (j : Nat), j < 64 → (aluBrev a).getLsbD j = a.getLsbD (63 - j)) ∧
  (∀ (a : Word) (k : Nat), k < 8 → (aluBswap a).extractLsb' (8 * k) 8 = a.extractLsb' (8 * (7 - k)) 8) ∧
  (∀ a b : Word, (aluMulh a b).toNat * 2 ^ 64 + (aluMul a b).toNat = a.toNat * b.toNat) ∧
  (∀ a b : Word, (aluMulhs a b).toInt * 2 ^ 64 + (aluMul a b).toNat = a.toInt * b.toInt)

end Sys2Proof.Says

/-- R73, R78, R72, R20: each of these instructions writes its result to its destination and ends, whatever its operands are
(pairs' views and channels included); no other register, flag, counter or byte of memory changes. And the
counts, reversals and double-width products are those of the bits and numbers themselves. -/
def Obligations.IntegerResults : Prop :=
  (∀ (i : Instr) (p : Pred) (rs : List Reg) (d : Reg) (f : Word → Word → Word → Word → Word), intRow i = some (p, rs, d, f) →
     ∀ (s : State) (th : Thread), AtTurn s th p → CanUse s th i rs (some d) →
       exec i s = .next (wrote (popped s th rs) th d (f th.pc (val s th rs 0) (val s th rs 1) (val s th rs 2)))) ∧
  BitCountRule

/-- R74: DIV, DIVS, REM and REMS. A zero divisor traps when scr.fctl.DZT is 1, with D not written and no channel word
consumed; otherwise the result is that of R74's pseudocode. -/
def Obligations.DivisionRule : Prop :=
  ∀ (i : Instr) (p : Pred) (d a b : Reg) (f : Word → Word → Word), divRow i = some (p, d, a, b, f) →
    ∀ (s : State) (th : Thread), AtTurn s th p → CanUse s th i [a, b] (some d) →
      let x := val s th [a, b] 0
      let y := val s th [a, b] 1
      if y = 0 ∧ th.scr.fctl.getLsbD 9 = true then CanTrap th → exec i s = .next (trapped s th ⟨0x33, 0, 0⟩)
      else exec i s = .next (wrote (popped s th [a, b]) th d (f x y))

namespace Sys2Proof.Says

/-- The conditions of CMP and CMPI (R76). -/
def condHolds (cc : Cond) (a b : Word) : Prop :=
  match cc with
  | .eq => a = b
  | .ne => a ≠ b
  | .lt => a.toInt < b.toInt
  | .ge => b.toInt ≤ a.toInt
  | .ltu => a.toNat < b.toNat
  | .geu => b.toNat ≤ a.toNat
  | .tst => a &&& b ≠ 0
  | .ntst => a &&& b = 0
/-- MOD[2:0] of CMP and CMPI (R76). -/
def condNumber : Cond → Nat
  | .eq => 0 | .ne => 1 | .lt => 2 | .ge => 3 | .ltu => 4 | .geu => 5 | .tst => 6 | .ntst => 7
/-- CMP or CMPI: predicate, condition, destination, sources and the second operand's value. -/
def cmpRow : Instr → Option (Pred × Cond × Reg × List Reg × (Word → Word))
  | .cmp p cc d a b => some (p, cc, d, [a, b], id)
  | .cmpi p cc d a imm => some (p, cc, d, [a], fun _ => imm.signExtend 64)
  | _ => none

end Sys2Proof.Says

/-- R76: CMP and CMPI set their predicate exactly when the condition holds; every MOD[2:0] value is one of the conditions,
and a nonzero MOD[15:3] is illegal with reason 0x2. -/
def Obligations.CompareConditions : Prop :=
  (∀ (i : Instr) (p : Pred) (cc : Cond) (d : Reg) (rs : List Reg) (g : Word → Word), cmpRow i = some (p, cc, d, rs, g) →
    ∀ (s : State) (th : Thread), AtTurn s th p → CanUse s th i rs (some d) → ∀ v : Word,
      v = 1 ∧ condHolds cc (val s th rs 0) (g (val s th rs 1)) ∨ v = 0 ∧ ¬ condHolds cc (val s th rs 0) (g (val s th rs 1)) →
      exec i s = .next (wrote (popped s th rs) th d v)) ∧
  (∀ f : Fields, f.op = 0x01D ∧ f.imm = 0 ∨ f.op = 0x088 → f.rsv = false → 8 ≤ f.mod.toNat →
    decodeFields f = .error ⟨2, 0, f.op⟩) ∧
  (∀ (p : Pred) (cc : Cond) (d a b : Reg) (imm : BitVec 48), p.ok = true → d.isP = true → a.scalarR = true → b.scalarR = true →
    decodeFields (mkF 0x01D p d.code a.code b.code 0 (condNumber cc) 0) = .ok (.cmp p cc d a b) ∧
    decodeFields (mkF 0x088 p d.code a.code 0 0 (condNumber cc) imm.toNat) = .ok (.cmpi p cc d a imm))

namespace Sys2Proof.Says

/-- The bits of a field of `len` bits at `pos` that exist (R75). -/
def fieldBits (pos lenM1 : BitVec 6) : Nat := min (lenM1.toNat + 1) (64 - pos.toNat)
/-- BEXT's result, bit by bit (R75). -/
def IsExtract (v a : Word) (sx : Bool) (pos lenM1 : BitVec 6) : Prop :=
  ∀ j < 64, v.getLsbD j =
    if j < fieldBits pos lenM1 then a.getLsbD (pos.toNat + j) else (sx && a.getLsbD (pos.toNat + fieldBits pos lenM1 - 1))
/-- BINS's result, bit by bit (R75). -/
def IsInsert (v a b : Word) (pos lenM1 : BitVec 6) : Prop :=
  ∀ j < 64, v.getLsbD j =
    if pos.toNat ≤ j ∧ j < pos.toNat + fieldBits pos lenM1 then b.getLsbD (j - pos.toNat) else a.getLsbD j

end Sys2Proof.Says

/-- R75: BEXT and BINS take pos from IMM16[5:0] and len − 1 from IMM16[11:6], a nonzero IMM16[15:12] is illegal with reason
0x1, the field is clipped at bit 63, and the results are those of the rule's pseudocode, said bit by bit. -/
def Obligations.BitFields : Prop :=
  (∀ (s : State) (th : Thread) (p : Pred) (sx : Bool) (d a : Reg) (pos lenM1 : BitVec 6), AtTurn s th p →
    CanUse s th (.bext p sx d a pos lenM1) [a] (some d) →
    ∃ v, IsExtract v (val s th [a] 0) sx pos lenM1 ∧ exec (.bext p sx d a pos lenM1) s = .next (wrote (popped s th [a]) th d v)) ∧
  (∀ (s : State) (th : Thread) (p : Pred) (d a b : Reg) (pos lenM1 : BitVec 6), AtTurn s th p →
    CanUse s th (.bins p d a b pos lenM1) [a, b] (some d) →
    ∃ v, IsInsert v (val s th [a, b] 0) (val s th [a, b] 1) pos lenM1 ∧
      exec (.bins p d a b pos lenM1) s = .next (wrote (popped s th [a, b]) th d v)) ∧
  (∀ f : Fields, f.op = 0x018 ∨ f.op = 0x019 → 2 ^ 12 ≤ f.imm.toNat → decodeFields f = .error ⟨1, 0, f.op⟩) ∧
  (∀ (p : Pred) (sx : Bool) (d a b : Reg) (pos lenM1 : BitVec 6), p.ok = true → d.scalarW = true → a.scalarR = true →
    b.scalarR = true →
    decodeFields (mkF 0x018 p d.code a.code 0 0 (if sx then 1 else 0) (pos.toNat + 64 * lenM1.toNat)) = .ok (.bext p sx d a pos lenM1) ∧
    decodeFields (mkF 0x019 p d.code a.code b.code 0 0 (pos.toNat + 64 * lenM1.toNat)) = .ok (.bins p d a b pos lenM1))

/-! ### Scalar floating point (class 2) -/

namespace Sys2Proof.Says

/-- The code that a class-2 instruction reads: the low bits of its register (R80). -/
def low (ty : FType) (v : Word) : Nat := v.toNat % 2 ^ fmtWidth (fmtOfFType ty)
/-- A subnormal code of an FP type. -/
def subn (ty : FType) (c : Nat) : Bool := ty.isFp && isSubnormal (fmtOfFType ty) c
/-- The value written to the register: the code with the bits above it zero, an INT32 sign-extended (R80, R84). -/
def fpWord (ty : FType) (c : Nat) : Word :=
  if ty = .i32 then (BitVec.ofNat 32 c).signExtend 64 else BitVec.ofNat 64 c
/-- A class-2 result: the word written, the flags raised, and whether the normaliser was used. -/
structure FpOut where
  v : Word
  flags : BitVec 5
  norm : Bool
/-- The result of an arithmetic instruction: an operation on the operands' codes. -/
def fpOut (ty : FType) (xs : List Nat) (r : FRes) : FpOut :=
  ⟨BitVec.ofNat 64 r.1, r.2, xs.any (subn ty) || subn ty r.1⟩

/-- Predicate, sources, destination and result of the class-2 instructions (R81, R83, R84) on a thread's scr.fctl, scr.seed and
scr.step. -/
def fpRow : Instr → Option (Pred × List Reg × Reg × (ScrFile → Word → Word → Word → FpOut))
  | .fadd p ty rm d a b => some (p, [a, b], d, fun c x y _ =>
      fpOut ty [low ty x, low ty y] (fpAdd (fmtOfFType ty) (modeOf rm c.fctl) (low ty x) (low ty y)))
  | .fsub p ty rm d a b => some (p, [a, b], d, fun c x y _ =>
      fpOut ty [low ty x, low ty y] (fpSub (fmtOfFType ty) (modeOf rm c.fctl) (low ty x) (low ty y)))
  | .fmul p ty rm d a b => some (p, [a, b], d, fun c x y _ =>
      fpOut ty [low ty x, low ty y] (fpMul (fmtOfFType ty) (modeOf rm c.fctl) (low ty x) (low ty y)))
  | .fdiv p ty rm d a b => some (p, [a, b], d, fun c x y _ =>
      fpOut ty [low ty x, low ty y] (fpDiv (fmtOfFType ty) (modeOf rm c.fctl) (low ty x) (low ty y)))
  | .fma p ty rm d a b c' => some (p, [a, b, c'], d, fun c x y z => fpOut ty [low ty x, low ty y, low ty z]
      (fpFma (fmtOfFType ty) (modeOf rm c.fctl) (low ty x) (low ty y) (low ty z)))
  | .fnma p ty rm d a b c' => some (p, [a, b, c'], d, fun c x y z => fpOut ty [low ty x, low ty y, low ty z]
      (fpFnma (fmtOfFType ty) (modeOf rm c.fctl) (low ty x) (low ty y) (low ty z)))
  | .fsqrt p ty rm d a => some (p, [a], d, fun c x _ _ =>
      fpOut ty [low ty x] (fpSqrt (fmtOfFType ty) (modeOf rm c.fctl) (low ty x)))
  | .fmin p ty d a b => some (p, [a, b], d, fun _ x y _ =>
      let r := fpMinMax (fmtOfFType ty) false (low ty x) (low ty y)
      ⟨BitVec.ofNat 64 r.1, r.2, false⟩)
  | .fmax p ty d a b => some (p, [a, b], d, fun _ x y _ =>
      let r := fpMinMax (fmtOfFType ty) true (low ty x) (low ty y)
      ⟨BitVec.ofNat 64 r.1, r.2, false⟩)
  | .fabs p ty d a => some (p, [a], d, fun _ x _ _ => ⟨BitVec.ofNat 64 (fpAbs (fmtOfFType ty) (low ty x)), 0, false⟩)
  | .fneg p ty d a => some (p, [a], d, fun _ x _ _ => ⟨BitVec.ofNat 64 (fpNeg (fmtOfFType ty) (low ty x)), 0, false⟩)
  | .fcmp p cc ty d a b => some (p, [a, b], d, fun _ x y _ =>
      let r := fpCmp (fmtOfFType ty) cc (low ty x) (low ty y)
      ⟨if r.1 then 1 else 0, r.2, false⟩)
  | .fclass p ty d a => some (p, [a], d, fun _ x _ _ => ⟨BitVec.ofNat 64 (fpClass (fmtOfFType ty) (low ty x)), 0, false⟩)
  | .fcvt p dst src rm d a c' t => some (p, if rm = .sr then [a, c'] else [a], d, fun c x y _ =>
      let r := fpConvert (fmtOfFType dst) (fmtOfFType src) (modeOf rm c.fctl) (low src x)
        (sowDraw c.seed (t.setWidth 32) (c.step.setWidth 32) (y.setWidth 48) 3 0)
      ⟨fpWord dst r.1, r.2, subn src (low src x) || subn dst r.1⟩)
  | _ => none

/-- The thread with flags ORed into scr.fflags (R82) and, where the normaliser was used, two turns to forfeit (R60, R85). -/
def flagged (th : Thread) (o : FpOut) : Thread :=
  { th with scr := { th.scr with fflags := th.scr.fflags ||| o.flags.setWidth 64 }
            forfeit := if o.norm then 2 else th.forfeit }
/-- The raised exceptions that scr.fctl.TEN enables (R85, R104). -/
def enabled (th : Thread) (fl : BitVec 5) : BitVec 5 := fl &&& (th.scr.fctl >>> 3).setWidth 5

end Sys2Proof.Says

/-- R80, R81, R82, R84, R85: a class-2 instruction ORs its flags into scr.fflags and writes its result; when a raised exception
is enabled, it writes no destination, consumes no channel word, and takes trap 0x30 with the enabled exceptions in scr.einfo. -/
def Obligations.FpResults : Prop :=
  ∀ (i : Instr) (p : Pred) (rs : List Reg) (d : Reg) (f : ScrFile → Word → Word → Word → FpOut), fpRow i = some (p, rs, d, f) →
    i.wf = true → ∀ (s : State) (th : Thread), AtTurn s th p → CanUse s th i rs (some d) →
      let o := f th.scr (val s th rs 0) (val s th rs 1) (val s th rs 2)
      if enabled th o.flags = 0 then exec i s = .next (wrote (popped s th rs) (flagged th o) d o.v)
      else CanTrap th → exec i s = .next (trapped s (flagged th o) ⟨0x30, 0, (enabled th o.flags).setWidth 64⟩)

namespace Sys2Proof.Says

/-- FP32, FP16 and BF16. -/
def scalarFmts : List Fmt := [fmtF32, fmtF16, fmtBF16]

end Sys2Proof.Says

namespace Sys2Proof.Says

/-- R82: an arithmetic result with a NaN operand is the canonical NaN, and NV is raised exactly when an operand is a
signalling NaN or the operation is invalid in itself (∞ × 0 in FMA and FNMA). -/
def NanRule : Prop :=
  ∀ f ∈ scalarFmts, ∀ (mode : Rnd) (x y z : Nat),
    (isNan (valueOf f x) || isNan (valueOf f y) → ∀ op ∈ [fpAdd, fpSub, fpMul, fpDiv],
      op f mode x y = (nanCode f, if isSnan (valueOf f x) || isSnan (valueOf f y) then fNV else 0)) ∧
    (isNan (valueOf f x) → fpSqrt f mode x = (nanCode f, if isSnan (valueOf f x) then fNV else 0)) ∧
    (isNan (valueOf f x) || isNan (valueOf f y) || isNan (valueOf f z) → ∀ op ∈ [fpFma, fpFnma],
      op f mode x y z = (nanCode f,
        if isSnan (valueOf f x) || isSnan (valueOf f y) || isSnan (valueOf f z) ||
          (isInf (valueOf f x) && isZero (valueOf f y)) || (isZero (valueOf f x) && isInf (valueOf f y)) then fNV else 0))

end Sys2Proof.Says

/-- R82, R84: in every format and mode, a number's code converts to its own format unchanged and raises nothing, and a NaN
becomes the canonical NaN, raising NV exactly when it was signalling. -/
def Obligations.NansAndFormats : Prop :=
  (∀ f ∈ scalarFmts, ∀ (mode : Rnd) (c r : Nat), c < 2 ^ fmtWidth f →
    fpConvert f f mode c r =
      if isNan (valueOf f c) then (nanCode f, if isSnan (valueOf f c) then fNV else 0) else (c, 0)) ∧
  NanRule

/-- R83: FMIN, FMAX, FCMP and FCLASS. -/
def Obligations.CompareAndClassify : Prop :=
  ∀ f ∈ scalarFmts, ∀ (a b : Nat), a < 2 ^ fmtWidth f → b < 2 ^ fmtWidth f →
    let x := valueOf f a
    let y := valueOf f b
    let sn : BitVec 5 := if isSnan x || isSnan y then fNV else 0
    let an : BitVec 5 := if isNan x || isNan y then fNV else 0
    (∀ mx, isNan x → isNan y → fpMinMax f mx a b = (nanCode f, sn)) ∧
    (∀ mx, isNan x → ¬ isNan y → fpMinMax f mx a b = (b, sn)) ∧
    (∀ mx, ¬ isNan x → isNan y → fpMinMax f mx a b = (a, sn)) ∧
    (¬ isNan x → ¬ isNan y → ltVal x y → fpMinMax f false a b = (a, 0) ∧ fpMinMax f true a b = (b, 0)) ∧
    (¬ isNan x → ¬ isNan y → ltVal y x → fpMinMax f false a b = (b, 0) ∧ fpMinMax f true a b = (a, 0)) ∧
    (isZero x → isZero y → signOf x → ¬ signOf y → fpMinMax f false a b = (a, 0) ∧ fpMinMax f true a b = (b, 0)) ∧
    (isZero x → isZero y → ¬ signOf x → signOf y → fpMinMax f false a b = (b, 0) ∧ fpMinMax f true a b = (a, 0)) ∧
    fpCmp f .eq a b = (!isNan x && !isNan y && !ltVal x y && !ltVal y x, sn) ∧
    fpCmp f .lt a b = (!isNan x && !isNan y && ltVal x y, an) ∧
    fpCmp f .le a b = (!isNan x && !isNan y && !ltVal y x, an) ∧
    fpCmp f .un a b = (isNan x || isNan y, sn) ∧
    fpCmp f .ne a b = (isNan x || isNan y || ltVal x y || ltVal y x, sn) ∧
    fpClass f a = 2 ^ (if isSnan x then 8 else if isNan x then 9 else if isInf x then (if signOf x then 0 else 7)
      else if isZero x then (if signOf x then 3 else 4) else if isSubnormal f a then (if signOf x then 2 else 5)
      else if signOf x then 1 else 6)

/-! ### Predicates, operands and channels -/

namespace Sys2Proof.Says

/-- The instructions reserved to the steward (R56): in another slot they trap whatever their predicate. -/
def forSteward : Instr → Bool
  | .startCtx .. | .startFrame .. | .reap .. | .selftest .. => true
  | _ => false

end Sys2Proof.Says

/-- R32: the predicate codes, and what an instruction whose predicate is false does: it ends, and nothing else changes; nor
does it park before its issue. An instruction reserved to the steward stands in slot 0 here: R26 checks that first. -/
def Obligations.PredicateFalse : Prop :=
  (∀ n : Fin 8, predOf (BitVec.ofNat 4 n) = ⟨n, false⟩ ∧ predOf (BitVec.ofNat 4 (8 + n)) = ⟨n, true⟩) ∧
  (∀ th : Thread, predOk th ⟨0, false⟩ = true ∧ ∀ n : Fin 8, n ≠ 0 →
    (predOk th ⟨n, false⟩ = th.p[n]) ∧ predOk th ⟨n, true⟩ = !th.p[n]) ∧
  (∀ (f : Fields) (r : Row), rowOf f = some r → f.pr = 8 → ∃ e, judge f r = .error e) ∧
  (∀ (i : Instr) (f : Fields) (s : State) (th : Thread), toFields i = some f → thread? s s.cur = some th →
    predOk (viewOf s s.cur th) (predOf f.pr) = false → (forSteward i = true → s.cur.slot = 0) →
    exec i s = .next (passed s th)) ∧
  (∀ (i : Instr) (s : State) (t : TId) (th : Thread) (l : LineEnt) (q : Nat), linePos th.pc = some q → threadLine s t th = some l →
    unitAt l.data q = [q] → decode (lineInstr l.data q) = .ok i → predOk th (predicate i) = false → waitBefore s t th = none)

namespace Sys2Proof.Says

/-- R238, R243: a scalar instruction that names an unbound channel traps 0x22 with no effect; one whose source has too few
readable words, or whose destination is full, parks and pops nothing. -/
def ChannelWaitRule : Prop :=
  ∀ (i : Instr) (p : Pred) (rs : List Reg) (d : Reg) (f : Word → Word → Word → Word → Word), intRow i = some (p, rs, d, f) →
    ∀ (s : State) (th : Thread), AtTurn s th p →
      (∀ n : Fin 8, .ch n ∈ rs → th.ch[n].kind = .none → NoChannel (rs.takeWhile (· ≠ .ch n)) → CanTrap th →
        exec i s = .next (trapped s th ⟨0x22, 0, BitVec.ofNat 64 n⟩)) ∧
      (∀ n : Fin 8, d = .ch n → NoChannel rs → th.ch[n].kind = .none → CanTrap th →
        exec i s = .next (trapped s th ⟨0x22, 0, BitVec.ofNat 64 n⟩)) ∧
      (opsFault s th (opOf i) rs (some d) = none → ∀ (n : Fin 8) (q : ChQueue), rs = [.ch n] → chQueue s s.cur th n false = some q →
        readyWords s q = [] →
        exec i s = .next (setThread s s.cur { th with park := some ⟨.chRead n, some i, s.now⟩, waited := 0 })) ∧
      (opsFault s th (opOf i) rs (some d) = none → ∀ (n : Fin 8) (q : ChQueue), NoChannel rs → d = .ch n →
        chQueue s s.cur th n true = some q → (chWords s q).length = chCap q →
        exec i s = .next (setThread s s.cur { th with park := some ⟨.chWrite n, some i, s.now⟩, waited := 0 }))

end Sys2Proof.Says

/-- R33, R35, R72, R238: what a scalar field reads. Without a channel, operands are read and nothing else happens; a channel
pops its oldest word. g0 and p0 and m0 read as constants. An unbound
channel traps 0x22; an empty source or a full destination parks (R238, R243). -/
def Obligations.OperandValues : Prop :=
  ((∀ (s : State) (th : Thread) (rs : List Reg), NoChannel rs →
     takeOps s th rs = (s, rs.map (readReg s s.cur (viewOf s s.cur th)))) ∧
   (∀ (s : State) (t : TId) (th : Thread), readReg s t th (.g 0) = 0 ∧ readReg s t th (.m 0) = BitVec.allOnes 64 ∧
     readReg s t th (.p 0) = 1 ∧ (∀ n : Fin 48, readReg s t th (.w n) = th.w[n]) ∧
     (∀ n : Fin 16, n ≠ 0 → readReg s t th (.g n) = th.g[n]) ∧ (∀ n : Fin 8, n ≠ 0 → readReg s t th (.m n) = th.m[n]) ∧
     (∀ n : Fin 8, n ≠ 0 → readReg s t th (.p n) = if th.p[n] then 1 else 0) ∧
     readReg s t th (.ident 8) = BitVec.ofNat 64 t.core ∧ readReg s t th (.ident 9) = BitVec.ofNat 64 (t.core % 16) ∧
     readReg s t th (.ident 10) = BitVec.ofNat 64 (t.core / 16 % 16) ∧ readReg s t th (.ident 11) = BitVec.ofNat 64 (t.core / 256) ∧
     readReg s t th (.ident 12) = BitVec.ofNat 64 s.pkg ∧ readReg s t th (.ident 14) = BitVec.ofNat 64 t.slot) ∧
   (∀ (s : State) (th : Thread) (n : Fin 8) (q : ChQueue) (w : ChWord) (ws : List ChWord),
     thread? s s.cur = some th → th.pops = [] → viewOf s s.cur th = th →
     (∀ c i, q = .inb c i → hasProgram (coreAt s c) = true) →
     chQueue s s.cur th n false = some q → chWords s q = w :: ws →
     val s th [.ch n] 0 = w.val ∧ chWords (popped s th [.ch n]) q = ws ∧
     (∀ q', q' ≠ q → chWords (popped s th [.ch n]) q' = chWords s q') ∧ (popped s th [.ch n]).hbm = s.hbm ∧
     (popped s th [.ch n]).sram = s.sram ∧ thread? (popped s th [.ch n]) s.cur = some { th with pops := [(n, w.val)] })) ∧
  ChannelWaitRule

/-! ### Control (class 3) -/

namespace Sys2Proof.Says

/-- Predicate and target of the jumps that read no register (R86). -/
def jumpRow (pc : Word) : Instr → Option (Pred × Word)
  | .br p off => some (p, pc + off.signExtend 64)
  | .jmp p addr => some (p, addr.signExtend 64)
  | _ => none

end Sys2Proof.Says

/-- R36, R86, R21: NOP ends; BR, JMP and JMPR end at their target, a checked one. Nothing else changes. -/
def Obligations.Jumps : Prop :=
  ∀ (s : State) (th : Thread) (p : Pred), AtTurn s th p →
    exec (.nop p) s = .next (passed s th) ∧
    (∀ (i : Instr) (target : Word), jumpRow th.pc i = some (p, target) → exec i s = .next (moved s th target true)) ∧
    (∀ (a : Reg) (off : BitVec 16), CanUse s th (.jmpr p a off) [a] none →
      exec (.jmpr p a off) s = .next (moved (popped s th [a]) th (val s th [a] 0 + off.signExtend 64) true))

/-- R87: LOOP counts its register down, 0 wrapping, and goes to its target while the count is not 0; a control instruction
whose predicate is false goes on sequentially; one whose register is not present parks until it is. -/
def Obligations.LoopRule : Prop :=
  (∀ (s : State) (th : Thread) (p : Pred) (d : Reg) (off : BitVec 48), AtTurn s th p → CanUse s th (.loop p d off) [d] (some d) →
    let v := val s th [d] 0 - 1
    exec (.loop p d off) s = .next (
      if v = 0 then wrote (popped s th [d]) th d 0
      else match thread? (wrote (popped s th [d]) th d v) s.cur with
        | some t => setThread (wrote (popped s th [d]) th d v) s.cur { t with pc := th.pc + off.signExtend 64, checked := true }
        | none => s)) ∧
  (∀ (i : Instr) (s : State) (th : Thread) (f : Fields), toFields i = some f → f.op.toNat / 128 = 3 → thread? s s.cur = some th →
    predOk (viewOf s s.cur th) (predOf f.pr) = false → exec i s = .next (passed s th)) ∧
  (∀ (i : Instr) (s : State) (t : TId) (th : Thread) (l : LineEnt) (q : Nat), (opOf i) / 128 = 3 → th.deferred = [] →
    linePos th.pc = some q → threadLine s t th = some l → unitAt l.data q = [q] → decode (lineInstr l.data q) = .ok i →
    predOk th (predicate i) = true → missing th i ≠ [] → waitBefore s t th = some (.presence (missing th i) (opOf i)))

namespace Sys2Proof.Says

/-- The caller's registers with the window one frame up (R89): the callee's w0-w15 are the caller's w32-w47, of which w47 holds
the return pc, and its w16-w47 are 0; the caller's w0-w31 are kept below. -/
def called (th : Thread) : Thread :=
  { th with lower := Vector.ofFn (fun i : Fin 32 => th.w[i]) :: th.lower, depth := th.depth + 1
            w := Vector.ofFn (fun i : Fin 48 => if i = 15 then succPc th.pc else if h : i.val < 16 then th.w[32 + i.val] else 0) }
/-- No outstanding load targets a register that the slide makes fresh (R89). -/
def SlideFree (th : Thread) : Prop := ∀ a, .w a ∈ th.absent → ¬ (freshLo th ≤ a ∧ a ≤ freshHi th)
/-- scr.einfo of traps 0x40 and 0x41 (R90). -/
def windowWord (th : Thread) (reason : Nat) : Word := BitVec.ofNat 64 (th.depth + (th.lower.length + 1) * 2 ^ 16 + reason * 2 ^ 20)

end Sys2Proof.Says

/-- R88, R89, R92: CALL and CALLR slide the window up and go to their target; with six resident frames or at depth 65,535 they
trap 0x40 with no effect; they park while an outstanding load targets a register of the fresh frame. -/
def Obligations.Calls : Prop :=
  ∀ (s : State) (th : Thread) (p : Pred), AtTurn s th p → ∀ (off : BitVec 48) (a : Reg) (off16 : BitVec 16),
    (CanTrap th → th.lower.length = 5 → exec (.call p off) s = .next (trapped s th ⟨0x40, 0, windowWord th 0⟩) ∧
      (CanUse s th (.callr p a off16) [a] none →
        exec (.callr p a off16) s = .next (trapped s th ⟨0x40, 0, windowWord th 0⟩))) ∧
    (CanTrap th → th.lower.length ≠ 5 → th.depth = 65535 →
      exec (.call p off) s = .next (trapped s th ⟨0x40, 0, windowWord th 1⟩) ∧
      (CanUse s th (.callr p a off16) [a] none →
        exec (.callr p a off16) s = .next (trapped s th ⟨0x40, 0, windowWord th 1⟩))) ∧
    (th.lower.length ≠ 5 → th.depth ≠ 65535 → ¬ SlideFree th →
      exec (.call p off) s = .next (setThread s s.cur
        { th with park := some ⟨.loadsLand (freshLo th) (freshHi th), some (.call p off), s.now⟩, waited := 0 })) ∧
    (th.lower.length ≠ 5 → th.depth ≠ 65535 → SlideFree th →
      exec (.call p off) s = .next (moved s (called th) (th.pc + off.signExtend 64) true) ∧
      (CanUse s th (.callr p a off16) [a] none →
        exec (.callr p a off16) s = .next (moved (popped s th [a]) (called th) (val s th [a] 0 + off16.signExtend 64) true)))

/-- R90: RET slides the window down, giving the caller its w0-w31 and as its w32-w47 the callee's w0-w15, and goes to w15, of
which only the offset is checked; at depth 0 or with one resident frame it traps 0x41; the layout of scr.einfo is that of
traps 0x40 and 0x41. -/
def Obligations.Returns : Prop :=
  ∀ (s : State) (th : Thread) (p : Pred), AtTurn s th p →
    (CanTrap th → th.depth = 0 → exec (.ret p) s = .next (trapped s th ⟨0x41, 0, windowWord th 1⟩)) ∧
    (CanTrap th → th.depth ≠ 0 → th.lower = [] → exec (.ret p) s = .next (trapped s th ⟨0x41, 0, windowWord th 0⟩)) ∧
    (th.depth ≠ 0 → ∀ (f : Vector Word 32) (r : List (Vector Word 32)), th.lower = f :: r → ∃ th' : Thread,
      exec (.ret p) s = .next (moved s th' th.w[15] false) ∧ th'.depth = th.depth - 1 ∧ th'.lower = r ∧
      (∀ (i : Nat) (h : i < 32), th'.w[i] = f[i]) ∧ (∀ (i : Nat) (h : i < 16), th'.w[32 + i] = th.w[i]) ∧
      th' = { th with w := th'.w, lower := r, depth := th.depth - 1, inlines := th'.inlines } ∧
      (th.inlines = [] → th'.inlines = [])) ∧
    (th.depth < 2 ^ 16 → th.lower.length < 6 → ∀ reason < 2,
      (windowWord th reason).extractLsb' 0 16 = BitVec.ofNat 16 th.depth ∧
      (windowWord th reason).extractLsb' 16 3 = BitVec.ofNat 3 (th.lower.length + 1) ∧
      (windowWord th reason).extractLsb' 20 4 = BitVec.ofNat 4 reason)

/-! ### Traps -/

namespace Sys2Proof.Says

/-- The record of an escalation that waits for its notification (R94, R422). -/
def escalOf (s : State) (th : Thread) (ti : TrapInfo) : Escal := ⟨s.cur, th.uid, s.now, th.pc, ti, th.launch⟩

end Sys2Proof.Says

/-- R95, with R93 and R94 for what Trap performs: TRAP n takes the software trap with scr.epc its own pc, cause 0x7F, address 0 and
information n, going to scr.tvec; in a handler, or with no handler, it escalates: the thread stops, its trap registers stay as
they are, and the steward is handed the cause. -/
def Obligations.SoftwareTrap : Prop :=
  ∀ (s : State) (th : Thread) (p : Pred) (n : BitVec 16), AtTurn s th p →
    (CanTrap th → exec (.trap p n) s = .next (trapped s th ⟨0x7F, 0, n.setWidth 64⟩)) ∧
    (¬ CanTrap th → ∃ t, exec (.trap p n) s = .next t ∧
      thread? t s.cur = some { th with stopped := some ⟨0x7F, 0, n.setWidth 64⟩ } ∧
      t.escal = s.escal ++ [escalOf s th ⟨0x7F, 0, n.setWidth 64⟩] ∧ t.hbm = s.hbm ∧ t.sram = s.sram ∧
      ∀ u, u ≠ s.cur → thread? t u = thread? s u)

namespace Sys2Proof.Says

/-- R56, R26: an instruction reserved to the steward traps 0x07 in any other slot, whatever its predicate. -/
def StewardRule : Prop :=
  ∀ (i : Instr) (s : State) (th : Thread), forSteward i = true → thread? s s.cur = some th → s.cur.slot ≠ 0 → th.pops = [] →
    CanTrap th → exec i s = .next (trapped s th ⟨0x07, 0, BitVec.ofNat 64 (opOf i)⟩)

end Sys2Proof.Says

/-- R93, R102: what taking a trap leaves in the thread's registers, and that nothing else of the machine changes. An
instruction reserved to the steward takes trap 0x07 in any other slot (R56). -/
def Obligations.TrapEntry : Prop :=
  (∀ (s : State) (t : TId) (th : Thread) (ti : TrapInfo), thread? s t = some th → th.pops = [] → CanTrap th →
     ∃ th', trap s t ti = afterInstr s t th' ∧ th'.pc = th.scr.tvec ∧ th'.checked = true ∧ th'.scr.epc = th.pc ∧
       th'.scr.ecause = 0x100 + ti.cause.setWidth 64 ∧ inTrap th' = true ∧ th'.scr.eaddr = ti.addr ∧ th'.scr.einfo = ti.info ∧
       th'.g = th.g ∧ th'.w = th.w ∧ th'.v = th.v ∧ th'.depth = th.depth ∧ th'.lower = th.lower ∧
       th'.scr = { th.scr with epc := th'.scr.epc, ecause := th'.scr.ecause, eaddr := th'.scr.eaddr, einfo := th'.scr.einfo }) ∧
  StewardRule

/-- R96: ERET goes to scr.epc and clears IN alone; ERET.NEXT, with the line of scr.epc in the line buffer and sound, goes to the
successor of the unit that holds scr.epc. -/
def Obligations.TrapReturn : Prop :=
  ∀ (s : State) (th : Thread) (p : Pred), AtTurn s th p →
    let done (pc : Word) : State := moved s { th with scr := { th.scr with ecause := th.scr.ecause &&& 0xFF } } pc false
    exec (.eret p false) s = .next (done th.scr.epc) ∧
    (∀ l : LineEnt, th.fetchFault = none → findLn (coreAt s s.cur.core) (rootOf s th) (lineVa th.scr.epc) = some l →
      lineParityBad l.data = false → malformed l.data = none →
      exec (.eret p true) s = .next (done (unitSucc l.data th.scr.epc)))

/-! ### Memory instructions (class 4) -/

namespace Sys2Proof.Says

/-- Memory is as before: HBM, the banks' SRAM, host memory and the peers'. -/
def SameMemory (s t : State) : Prop := t.hbm = s.hbm ∧ t.sram = s.sram ∧ t.host = s.host ∧ t.peers = s.peers
/-- Every thread but that in slot `u` is as before. -/
def SameOthers (s t : State) (u : TId) : Prop := ∀ v, v ≠ u → thread? t v = thread? s v

/-- A scalar memory instruction: its predicate, its operands, near or far, the alignment, the address from the first two operand
values, the operation at the home from scr.fctl.FOV and the second and third values, its register destination, the
counter it raises near, acquire, release, scope, the near time of R61, and whether it is a plain data access (R270). -/
structure Access where
  p : Pred
  rs : List Reg
  near : Bool
  align : Nat
  va : Word → Word → Word
  op : Bool → Word → Word → HomeOp
  dst : Option Reg
  sx : Bool
  kind : OpKind
  acq : Bool
  rel : Bool
  sc : Scope
  time : Nat
  plain : Bool

/-- The address `[a + b<<s + off]` (R42, R219). -/
def MemArg.at (m : MemArg) (a b : Word) : Word := a + (b <<< m.s.val) + m.off.signExtend 64
/-- The address `[a + off]` (R218, R219). -/
def AMem.at (m : AMem) (a : Word) : Word := a + m.off.signExtend 64
def bytesOf : Size → Nat
  | .b8 => 1 | .b16 => 2 | .b32 => 4 | .b64 => 8
def isAcq (o : Ord) : Bool := o = .acq || o = .ar
def isRel (o : Ord) : Bool := o = .rel || o = .ar
/-- The near time of an atomic: 24, and 40 where it acquires at DIE scope or wider (R61, R268). -/
def atomicTime (o : Ord) (sc : Scope) : Nat := if isAcq o && (sc = .sys || sc = .pkg || sc = .die) then 40 else 24

/-- The instructions that do not park near (R221, R222, R223, R228-R233). -/
def memRow : Instr → Option Access
  | .ld p sz sx d m => some ⟨p, [m.a, m.b], m.near, bytesOf sz, MemArg.at m, fun _ _ _ => .load (bytesOf sz), some d, sx, .ld,
      false, false, .thr, 20, true⟩
  | .st p sz d m => some ⟨p, [m.a, m.b, d], m.near, bytesOf sz, MemArg.at m, fun _ _ v => .store (bytesOf sz) v, none, false, .st,
      false, false, .thr, 20, true⟩
  | .stl p sz sc d m => some ⟨p, [m.a, m.b, d], m.near, bytesOf sz, MemArg.at m, fun _ _ v => .store (bytesOf sz) v, none, false,
      .st, false, true, sc, 20, false⟩
  | .stff p sc d m => some ⟨p, [m.a, m.b, d], m.near, 8, MemArg.at m, fun _ _ v => .stff v, none, false, .st, false, true, sc, 20,
      false⟩
  | .amo p op sz sx o sc d m b => some ⟨p, [m.a, b], m.near, bytesOf sz, fun a _ => AMem.at m a,
      fun _ v _ => .amo op (bytesOf sz) v, some d, sx, .ld, isAcq o, isRel o, sc, atomicTime o sc, false⟩
  | .cas p sz sx o sc d m b => some ⟨p, [m.a, b, d], m.near, bytesOf sz, fun a _ => AMem.at m a,
      fun _ v e => .cas (bytesOf sz) e v, some d, sx, .ld, isAcq o, isRel o, sc, atomicTime o sc, false⟩
  | .amof p op o sc d m b => some ⟨p, [m.a, b], m.near, 4, fun a _ => AMem.at m a, fun _ v _ => .amof op v, some d, false, .ld,
      isAcq o, isRel o, sc, atomicTime o sc, false⟩
  | .fraddM p k o sc d m b => some ⟨p, [m.a, b], m.near, 32, fun a _ => AMem.at m a, fun fov v _ => .fradd k v fov, some d, false,
      .ld, isAcq o, isRel o, sc, atomicTime o sc, false⟩
  | .frrdM p rm clr o sc d m => some ⟨p, [m.a], m.near, 32, fun a _ => AMem.at m a, fun _ _ _ => .frrd rm clr, some d, false, .ld,
      isAcq o, isRel o, sc, atomicTime o sc, false⟩
  | _ => none
/-- The instructions that park near until they are judged at the bank (R222, R223, R226). -/
def parkRow : Instr → Option Access
  | .lda p sz sx sc d m => some ⟨p, [m.a, m.b], m.near, bytesOf sz, MemArg.at m, fun _ _ _ => .load (bytesOf sz), some d, sx, .ld,
      true, false, sc, if sc = .sys || sc = .pkg || sc = .die then 36 else 20, false⟩
  | .ldfe p sc d m => some ⟨p, [m.a, m.b], m.near, 8, MemArg.at m, fun _ _ _ => .ldfe, some d, false, .ld, true, false, sc, 20, false⟩
  | .ldff p sc d m => some ⟨p, [m.a, m.b], m.near, 8, MemArg.at m, fun _ _ _ => .ldff, some d, false, .ld, true, false, sc, 20, false⟩
  | .stfe p sc d m => some ⟨p, [m.a, m.b, d], m.near, 8, MemArg.at m, fun _ _ v => .stfe v, none, false, .st, false, true, sc, 20,
      false⟩
  | .waita p cc sz sc m b => some ⟨p, [m.a, b], m.near, bytesOf sz, fun a _ => AMem.at m a, fun _ v _ => .waita cc (bytesOf sz) v,
      none, false, .ld, true, false, sc, 24, false⟩
  | _ => none
/-- FESET and FECLR, which raise no counter near (R223). -/
def stateRow : Instr → Option Access
  | .feset p m => some ⟨p, [m.a, m.b], m.near, 8, MemArg.at m, fun _ _ _ => .feset, none, false, .dec, false, false, .thr, 8, false⟩
  | .feclr p m => some ⟨p, [m.a, m.b], m.near, 8, MemArg.at m, fun _ _ _ => .feclr, none, false, .dec, false, false, .thr, 8, false⟩
  | _ => none
/-- Every scalar memory instruction. -/
def anyRow (i : Instr) : Option Access := (memRow i).orElse fun _ => (parkRow i).orElse fun _ => stateRow i

/-- The effective address of an access of the current thread. -/
def addr (s : State) (th : Thread) (a : Access) : Word := a.va (val s th a.rs 0) (val s th a.rs 1)
/-- The cluster of the current thread. -/
def myCluster (s : State) : Nat := s.cur.core / 16
/-- The request of an access of the current thread, at a place. -/
def request (s : State) (th : Thread) (i : Instr) (a : Access) (pl : Place) : MemReq :=
  { src := s.cur, uid := th.uid, opc := opOf i, op := a.op (th.scr.fctl.getLsbD 8) (val s th a.rs 1) (val s th a.rs 2)
    dest := (a.dst.map (fun r => destOf th r a.sx)).getD .none, va := addr s th a, place := pl, lanes := [], acq := a.acq
    scope := a.sc, data := a.plain, wt := false, near := a.near, parked := false, tag := 2, opId := 0, total := a.time
    entry := 0, level := 0 }
/-- The near place of an address in the current thread's cluster. -/
def nearAt (s : State) (va : Word) : Place := .near (myCluster s) va.toNat
/-- The thread with the presence bit of a late destination clear (R143). -/
def awaiting (th : Thread) (q : MemReq) : Thread :=
  match destId q.dest with
  | some r => clearPresence th r
  | none => th
/-- Nothing of the thread's own holds the access up: no access held at its line by a release or an acquire that is not
complete (R222, R275), and for a release nothing to wait for (R222). -/
def Unheld (s : State) (th : Thread) (a : Access) (pl : Place) : Prop :=
  blockers s th.uid pl = [] ∧ (a.rel = true → earlier s th.uid = [] ∧ dirtyFor s (myCluster s) a.sc = false)
/-- A near access that R250 admits at a bank that is neither FIFO nor watched. -/
def NearOk (s : State) (a : Access) (va : Word) (q : MemReq) : Prop :=
  a.near = true ∧ va.toNat % a.align = 0 ∧ nearFault (clusterAt s (myCluster s)) va.toNat (nearKindOf q) = none ∧
    isFifo (clusterAt s (myCluster s)) va.toNat = none ∧ nearArea (clusterAt s (myCluster s)) va.toNat = none

end Sys2Proof.Says

/-- R219, R250: a scalar memory access whose address is not aligned traps 0x13 with its size, and a near one at or above 2^22
traps 0x14; nothing else happens. -/
def Obligations.AddressTraps : Prop :=
  ∀ (i : Instr) (a : Access), anyRow i = some a → i.wf = true → ∀ (s : State) (th : Thread), AtTurn s th a.p → CanTrap th →
    (¬ (addr s th a).toNat % a.align = 0 →
      exec i s = .next (trapped s th ⟨0x13, addr s th a, BitVec.ofNat 64 a.align⟩)) ∧
    (a.near = true → (addr s th a).toNat % a.align = 0 → 2 ^ 22 ≤ (addr s th a).toNat →
      exec i s = .next (trapped s th (info14 (addr s th a).toNat 7 ((addr s th a).toNat / 2 ^ 17 % 32) 0 (opOf i))))

namespace Sys2Proof.Says

/-- R222, R223, R226: a near LDA, full/empty operation or WAITA parks; its request reaches the bank 4 cycles later. -/
def NearParkRule : Prop :=
  ∀ (i : Instr) (a : Access), parkRow i = some a → i.wf = true → ∀ (s : State) (th : Thread), AtTurn s th a.p →
    let q := { request s th i a (nearAt s (addr s th a)) with parked := true, opId := s.nextId }
    NearOk s a (addr s th a) q → Unheld s th a q.place →
      ∃ t, exec i s = .next t ∧
        thread? t s.cur = some { awaiting th q with park := some ⟨.homeWait q, none, s.now⟩, waited := 0
                                                    latch := some (takeOps s th a.rs).2 } ∧
        t.agenda = agendaPut s.agenda (s.now + 4) (reqEvent { q with total := a.time - 4 }) ∧
        SameMemory s t ∧ SameOthers s t s.cur ∧ t.clusters = s.clusters ∧ t.groups = s.groups ∧ t.queues = s.queues

end Sys2Proof.Says

/-- R61, R143, R219, R221, R228-R233: a near access that does not park ends at once with its counter raised and its
destination not present; its request reaches the bank 4 cycles later. FESET and FECLR raise no counter. No byte of memory
and no other thread changes at its issue. A near
LDA, full/empty operation or WAITA parks in its stead. In part the model's choice: log 11. -/
def Obligations.NearAccesses : Prop :=
  (∀ (i : Instr) (a : Access), (memRow i).orElse (fun _ => stateRow i) = some a → i.wf = true → ∀ (s : State) (th : Thread),
     AtTurn s th a.p →
     let q := request s th i a (nearAt s (addr s th a))
     NearOk s a (addr s th a) q → Unheld s th a q.place →
       let id := if a.kind = .dec then 0 else s.nextId
       ∃ t, exec i s = .next t ∧
         thread? t s.cur = some (ended (awaiting (addCount a.kind th) q) (succPc th.pc) false) ∧
         t.agenda = agendaPut s.agenda (s.now + 4) (reqEvent { q with opId := id, total := a.time - 4 }) ∧
         (a.kind ≠ .dec → ∃ o ∈ t.ops, o.id = id ∧ o.uid = th.uid ∧ o.kind = a.kind ∧ o.load = none) ∧
         SameMemory s t ∧ SameOthers s t s.cur ∧ t.clusters = s.clusters ∧ t.groups = s.groups ∧ t.queues = s.queues) ∧
  NearParkRule

namespace Sys2Proof.Says

/-- What leaves for this place reaches it: for another package, the external port sends it and its frame counter is not at its end
(R394, R398). -/
def Leaves (s : State) (g : Nat) (p : Place) : Prop :=
  ∀ k a, p = .peer k a → portOpen s (extPort s g k) = true ∧
    ((linkAt s (extPort s g k * 2 + 1)).key = none ∨ (linkAt s (extPort s g k * 2 + 1)).counter + 16 < 2 ^ 54 - 1)
/-- A request is on its way to its home: at a die boundary, on the torus, on the host link, or laid down for its arrival. -/
def OnWay (t : State) (q : MemReq) : Prop :=
  (∃ f ∈ t.flits, f.deliver = reqEvent q) ∨ (∃ b ∈ t.bridges, b.then_ = reqEvent q) ∨
    (∃ b ∈ t.hostLink, b.then_ = reqEvent q) ∨ ∃ c, (c, reqEvent q) ∈ t.agenda
/-- An answer is on its way back. -/
def AnswerOnWay (t : State) (e : Instr) : Prop :=
  (∃ f ∈ t.flits, f.deliver = e) ∨ (∃ b ∈ t.bridges, b.then_ = e) ∨ ∃ c, (c, e) ∈ t.agenda
/-- The translation that an access asks for (R379). -/
def ask (s : State) (th : Thread) (i : Instr) (a : Access) : Xl :=
  let op := a.op (th.scr.fctl.getLsbD 8) (val s th a.rs 1) (val s th a.rs 2)
  ⟨rootOf s th, addr s th a, opReads op, opWrites op, opHome op, false, false, a.plain, opOf i⟩
/-- The dirty bytes of these lines are at their homes, and no other byte of memory differs (R272). -/
def BytesHome (s t : State) (lines : List CacheLine) : Prop :=
  (∀ l ∈ lines, ∀ i < 64, l.dirty.getLsbD i = true → isAperture l.place = false →
    (∀ l' ∈ lines, ∀ j < 64, l'.dirty.getLsbD j = true → placeAdd l'.place j = placeAdd l.place i → lineByte l'.data j = lineByte l.data i) →
    placeGet t (placeAdd l.place i) = lineByte l.data i) ∧
  (∀ p, (∀ l ∈ lines, ∀ i < 64, l.dirty.getLsbD i = true → p ≠ placeAdd l.place i) → placeGet t p = placeGet s p)
/-- The cluster cache may serve the access: a load or store, and LDA or STL at a scope within the cluster (R220, R262). -/
def usesCache (i : Instr) (a : Access) : Bool :=
  match i with
  | .lda _ _ _ sc _ _ | .stl _ _ sc _ _ => !(sc = .sys || sc = .pkg || sc = .die)
  | _ => a.plain
/-- A far access that its page grants, aligned, at a home that performs it, through no cache and to no watched place. -/
def FarOk (s : State) (th : Thread) (i : Instr) (a : Access) (pl : Place) (leaf : Word) (lvl : Nat) : Prop :=
  a.near = false ∧ (addr s th a).toNat % a.align = 0 ∧ xlate s s.cur.core (ask s th i a) = .ok pl leaf lvl ∧
    (isFe (a.op (th.scr.fctl.getLsbD 8) (val s th a.rs 1) (val s th a.rs 2)) = true → fePlace pl = true) ∧
    (usesCache i a = true → cached s (myCluster s) pl (leaf.getLsbD 4) = false) ∧ leaf.getLsbD 5 = false ∧
    (∀ g off, pl = .near g off → nearArea (clusterAt s g) off = none) ∧ Leaves s (myCluster s) pl
/-- A far access is posted: the thread goes on, and st counts it; the others park (R219, R221). -/
def posts : Instr → Bool
  | .st .. | .stl .. | .feset .. | .feclr .. => true
  | _ => false

end Sys2Proof.Says

/-- R219, R221, R379, R391: a granted far access sends its request to the home of its place; a store, FESET or FECLR is posted with
st raised, and any other access parks the thread until the answer. A home operation first writes its
cluster's line back and drops it (R220); nothing else of memory and no other thread changes at issue.
In part the model's choice: logs 10 and 29. -/
def Obligations.FarAccesses : Prop :=
  ∀ (i : Instr) (a : Access), anyRow i = some a → i.wf = true → ∀ (s : State) (th : Thread) (pl : Place) (leaf : Word) (lvl : Nat),
    AtTurn s th a.p → FarOk s th i a pl leaf lvl → Unheld s th a pl →
      ∃ t q, exec i s = .next t ∧ OnWay t q ∧ q.op = (request s th i a pl).op ∧ q.va = addr s th a ∧ q.place = pl ∧ q.src = s.cur ∧
        q.dest = (request s th i a pl).dest ∧ SameOthers s t s.cur ∧
        (match (if a.plain then none else findLine (clusterAt s (myCluster s)) pl) with
          | none => SameMemory s t
          | some l => (isAperture pl = false → BytesHome s t [l]) ∧ ∀ x ∈ (clusterAt t (myCluster s)).cache, x.place ≠ lineOf pl) ∧
        if posts i then
          thread? t s.cur = some (ended { th with st := th.st + 1 } (succPc th.pc) false) ∧ q.parked = false ∧
            (∃ o ∈ t.ops, o.id = q.opId ∧ o.uid = th.uid ∧ o.kind = .st ∧ o.tag = some q.tag)
        else
          thread? t s.cur = some { awaiting th q with park := some ⟨.far q, none, s.now⟩, waited := 0
                                                      latch := some (takeOps s th a.rs).2 } ∧ q.parked = true

/-- R262: a plain load or store of a cacheable page that hits in the cluster cache is performed in the line and answered 64
cycles later, where no BANKCFG holds the bank of its way (R255): the load parks for it, the store is posted and marks its bytes dirty.
Memory itself does not change. -/
def Obligations.CachedAccesses : Prop :=
  ∀ (i : Instr) (a : Access), anyRow i = some a → usesCache i a = true → i.wf = true →
    ∀ (s : State) (th : Thread) (pl : Place) (leaf : Word) (lvl : Nat) (l : CacheLine),
    AtTurn s th a.p → a.near = false → (addr s th a).toNat % a.align = 0 → xlate s s.cur.core (ask s th i a) = .ok pl leaf lvl →
    Unheld s th a pl → cached s (myCluster s) pl (leaf.getLsbD 4) = true → entAp leaf ≠ 1 →
    findLine (clusterAt s (myCluster s)) pl = some l → (bankAt (clusterAt s (myCluster s)) l.way).held = none →
      ∃ t, exec i s = .next t ∧ SameMemory s t ∧ SameOthers s t s.cur ∧
        if posts i then
          thread? t s.cur = some (ended { th with st := th.st + 1 } (succPc th.pc) false) ∧
          (∃ tag, (s.now + 64, .acknowledgement s.cur tag none) ∈ t.agenda) ∧
          ∃ l', findLine (clusterAt t (myCluster s)) pl = some l' ∧
            ∀ j < 64, (l'.dirty.getLsbD j = (l.dirty.getLsbD j || (placeNum pl % 64 ≤ j && j < placeNum pl % 64 + a.align))) ∧
              lineByte l'.data j = if placeNum pl % 64 ≤ j && j < placeNum pl % 64 + a.align then
                (val s th a.rs 2).extractLsb' (8 * (j - placeNum pl % 64)) 8 else lineByte l.data j
        else
          ∃ r q, (s.now + 64, .reply s.cur 2 r) ∈ t.agenda ∧ (thread? t s.cur).bind Thread.park = some ⟨.far q, none, s.now⟩ ∧
            q.tag = 2 ∧ r.fault = none ∧ r.withdrawn = false ∧
            ∀ j < a.align, r.data.extractLsb' (8 * j) 8 = lineByte l.data (placeNum pl % 64 + j)

/-! ### Homes -/

namespace Sys2Proof.Says

/-- What an operation leaves at its home and answers: the bytes written from its address on, the state bit, the value, the
flags. -/
structure Done where
  bytes : List Byte := []
  full : Option Bool := none
  value : Nat := 0
  flags : BitVec 5 := 0

/-- The signed value of n bytes. -/
def signed (n v : Nat) : Int := if v < 2 ^ (8 * n - 1) then v else v - 2 ^ (8 * n)
/-- AMO's new value from the old one and B's low bytes (R228). -/
def amoNew (op : AmoOp) (n old b : Nat) : Nat :=
  match op with
  | .add => (old + b) % 2 ^ (8 * n)
  | .and => Nat.land old b
  | .or => Nat.lor old b
  | .xor => Nat.xor old b
  | .min => if b < old then b else old
  | .max => if b < old then old else b
  | .mins => if signed n b < signed n old then b else old
  | .maxs => if signed n b < signed n old then old else b
  | .swap => b
/-- scr.einfo and cause of a furrow cell's fault (R132, R232): PART 0 and CELL 0. -/
def cellFault (q : MemReq) (cause : BitVec 8) (reason : Nat) : TrapInfo :=
  ⟨cause, q.va, BitVec.ofNat 64 (q.opc * 2 ^ 18 + reason * 2 ^ 12)⟩

/-- What an operation on one place does at its home (R221, R223, R226, R228-R230, R232, R233): nothing where it waits, a
fault, or its effect. -/
def homeDone (s : State) (q : MemReq) : Option (Except TrapInfo Done) :=
  let old (n : Nat) : Nat := ofBytesLE (placeRead s q.place n)
  let full := feFull s q.place
  match q.op with
  | .load n => some (.ok { value := old n })
  | .store n v => some (.ok { bytes := leBytes n v })
  | .ldfe => if full then some (.ok { full := some false, value := old 8 }) else none
  | .ldff => if full then some (.ok { value := old 8 }) else none
  | .stfe v => if full then none else some (.ok { bytes := leBytes 8 v, full := some true })
  | .stff v => some (.ok { bytes := leBytes 8 v, full := some true })
  | .feset => some (.ok { full := some true })
  | .feclr => some (.ok { full := some false })
  | .waita cc n b =>
    let want := b.toNat % 2 ^ (8 * n)
    if (match cc with | .eq => decide (old n = want) | .ne => decide (old n ≠ want) | .ge => decide (want ≤ old n))
    then some (.ok { value := old n }) else none
  | .amo op n v => some (.ok { bytes := bytesLE (amoNew op n (old n) (v.toNat % 2 ^ (8 * n))) n, value := old n })
  | .cas n e v => some (.ok { bytes := if old n = e.toNat % 2 ^ (8 * n) then leBytes n v else [], value := old n })
  | .amof op v =>
    let b := v.toNat % 2 ^ 32
    some (.ok { bytes := bytesLE (match op with
                  | .add => (fpAdd fmtF32 .rne (old 4) b).1
                  | .min => (fpMinMax fmtF32 false (old 4) b).1
                  | .max => (fpMinMax fmtF32 true (old 4) b).1) 4
                value := old 4 })
  | .fradd k v fov =>
    some (match parseCell (placeRead s q.place 32) with
    | none => .error (cellFault q 0x32 1)
    | some (n, st, f) =>
      let r := furrowAdd n st (fraddContrib k v f.toInt)
      if r.2 = .fin ∧ ¬ (-2 ^ 191 ≤ r.1 ∧ r.1 < 2 ^ 191) then
        if fov then .ok { bytes := cellImage 0 (if r.1 < 0 then .ninf else .pinf) f
                          value := (stCode (if r.1 < 0 then .ninf else .pinf)).toNat }
        else .error (cellFault q 0x31 0)
      else .ok { bytes := cellImage r.1 r.2 f, value := (stCode r.2).toNat })
  | .frrd rm clr =>
    some (match parseCell (placeRead s q.place 32) with
    | none => .error (cellFault q 0x32 1)
    | some (n, st, f) =>
      let r := roundTo fmtF32 (accMode rm) (furrowVal n st f.toInt) 0
      .ok { bytes := if clr then cellImage 0 .fin f else [], value := r.1, flags := r.2 })
  | .join => some (.ok { value := old 8 })
  | .vload _ | .vstore _ _ | .readFrame | .writeFrame _ | .fifoPush _ | .fifoPop => some (.ok {})

/-- The 8-byte word of a place. -/
def wordOf : Place → Place
  | .hbm a => .hbm (a / 8)
  | .near g off => .near g (off / 8)
  | .host a => .host (a / 8)
  | .peer k a => .peer k (a / 8)
/-- The effect at the home is this and no more: every other byte of memory and every other state bit is as before. -/
def Performed (s t : State) (q : MemReq) (d : Done) : Prop :=
  (∀ j < d.bytes.length, placeGet t (placeAdd q.place j) = d.bytes.getD j 0) ∧
  (∀ p, (∀ j < d.bytes.length, p ≠ placeAdd q.place j) → placeGet t p = placeGet s p) ∧
  feFull t q.place = d.full.getD (feFull s q.place) ∧ (∀ p, wordOf p ≠ wordOf q.place → feFull t p = feFull s p)
/-- The one piece of a request for one place. -/
def piece (q : MemReq) : Lane := ⟨0, q.place, q.va, q.wt, q.entry, q.level⟩
/-- A request for one place, inside a bank where it is near, that its home's bank map admits and that no race watch judges; it is no
push or pop of a FIFO bank. -/
def Admitted (s : State) (q : MemReq) : Prop :=
  q.lanes = [] ∧ placeNum q.place % 2 ^ 17 + opBytes q.op ≤ 2 ^ 17 ∧ placeFault s q (piece q) = none ∧ isFifoOp q.op = false ∧
    (q.data = false ∨ q.src.slot = 0 ∨ placeArea s q (piece q) = none) ∧ (isFe q.op = true → fePlace q.place = true)
/-- The bytes that an admitted request reads hold an uncorrectable error (R405). -/
def ReadsError (s : State) (q : MemReq) : Prop := opReads q.op = true ∧ placeErr s q.place (opBytes q.op) = true
def OnePlace (s : State) (q : MemReq) : Prop := Admitted s q ∧ ¬ ReadsError s q
/-- Trap 0x70 of such a read (R405, R408): SITE 2 and the bank, SITE 4 and the stack and channel. -/
def errorTrap (s : State) (q : MemReq) : TrapInfo :=
  let x : Nat × Nat := match q.place with
    | .near g off => (2, (liveBank (clusterAt s g) (off / 2 ^ 17)).getD 0)
    | .hbm a => (4, hbmUnit a)
    | _ => (9, 0)
  ⟨0x70, q.va, BitVec.ofNat 64 (x.1 * 2 ^ 32 + q.opc * 2 ^ 18 + x.2 * 2 ^ 8)⟩
/-- The home's unit has not executed the request, and has or can make an entry for its source (R392). -/
def Fresh (s : State) (q : MemReq) : Prop :=
  (∀ w ∈ waitersOf s (homeOf s q.place), w.q ≠ q) ∧
    match unitEnt s (homeOf s q.place) q.src with
    | some u => seenReply u q = none
    | none => (s.units.filter (fun u => u.unit = homeOf s q.place)).length < 4096
/-- A bank's arbitration gives this cycle to an act, and this is what comes of it (R68). -/
def BankServes (s : State) (g : Nat) (act : PortAct) (o : Host.Outcome State Fault Refusal) : Prop :=
  ∃ r, bankNext s g r.bank = some r ∧ r.act = act ∧ o = .next (bankServe s g r)
/-- A far request stands at its home, and this is the outcome of taking it up: of its bank's cycle (R68), at HBM of its turn as the
oldest of its channel in a cycle that serves one (R260), elsewhere of its arrival. -/
def TakenUp (s : State) (q : MemReq) (o : Host.Outcome State Fault Refusal) : Prop :=
  q.near = false ∧ match q.place with
    | .hbm a => o = exec (.hbmChannelAccess (hbmUnit a)) s ∧ s.now % 32 < 25 ∧
        ∃ n, s.channels.find? (fun x => x.ch = hbmUnit a) = some ⟨hbmUnit a, .req q, n⟩
    | .near g _ => BankServes s g (.req q) o
    | _ => o = exec (reqEvent q) s
/-- In one cycle, the base-die unit of a die takes a before b: its own die's cores first, then by core (R231). -/
def portBefore (die : Nat) (a b : MemReq) : Bool :=
  if dieOf a.src.core = die && dieOf b.src.core != die then true
  else if dieOf b.src.core = die && dieOf a.src.core != die then false
  else decide (a.src.core ≤ b.src.core)
/-- The answer to a request. -/
def answerOf (q : MemReq) (fault : Option TrapInfo) (d : Done) : Instr :=
  if q.parked then .reply q.src q.tag ⟨BitVec.ofNat 512 d.value, d.flags, fault, false, []⟩ else .acknowledgement q.src q.tag fault
/-- No thread is changed. -/
def SameThreads (s t : State) : Prop := ∀ u, thread? t u = thread? s u

end Sys2Proof.Says

namespace Sys2Proof.Says

/-- R231, R260, R266: a request for HBM takes its place in its channel's queue, behind the older ones and those of its cycle that come
before it in port order, the host's last; the channel serves nothing in cycles t with t mod 32 at or above 25, and a host's write goes
to HBM past every cache. -/
def QueueRule : Prop :=
  (∀ (s : State) (q : MemReq) (a : Nat), q.place = .hbm a → hbmDie a < 8 → q.src.core < 2048 →
    let mine (l : List ChanReq) := l.filter (fun x => x.ch = hbmUnit a)
    let first (x : ChanReq) : Bool := decide (x.arrived < s.now) || (match x.act with
      | .req q' => portBefore (hbmDie a) q' q
      | .host _ _ => false)
    ∃ cs, exec (reqEvent q) s = .next { s with channels := cs } ∧
      mine cs = (mine s.channels).filter first ++ [⟨hbmUnit a, .req q, s.now⟩] ++ (mine s.channels).filter (fun x => !first x) ∧
      ∀ ch, ch ≠ hbmUnit a → cs.filter (fun x => x.ch = ch) = s.channels.filter (fun x => x.ch = ch)) ∧
  (∀ (s : State) (ch : Nat), 25 ≤ s.now % 32 → exec (.hbmChannelAccess ch) s = .next s) ∧
  (∀ (s : State) (ch a : Nat) (bs : List Byte) (x : ChanReq), s.now % 32 < 25 → s.channels.find? (fun y => y.ch = ch) = some x →
    x.act = .host a bs → ∃ t, exec (.hbmChannelAccess ch) s = .next t ∧ t.channels = s.channels.erase x ∧ SameThreads s t ∧
      t.clusters = s.clusters ∧ t.hbm = memPutBytes s.hbm a bs ∧ t.sram = s.sram ∧ t.host = s.host ∧ t.peers = s.peers)

/-- The act of a request at its bank's port: an access by itself, or a part of one of several requests. -/
def portAct (s : State) (q : MemReq) : PortAct := if q.near = true ∧ gatherOf s q.opId ≠ none then .piece q else .req q
/-- R68, R117, R255: a request for a bank stands at its port behind those that its core issued no later: a core's own port, 18 for
the aperture. A bank serves one request a cycle, none while a BANKCFG holds it; the ports present theirs in turn, from number
t mod 20 on. -/
def PortRule : Prop :=
  (∀ (s : State) (q : MemReq) (g off b : Nat), q.place = .near g off → liveBank (clusterAt s g) (off / 2 ^ 17) = some b →
    ∃ r l1 l2, r.bank = b ∧ r.port = (if q.near then q.src.core % 16 else 18) ∧ r.at_ = some s.now ∧ r.act = portAct s q ∧
      (q.near = true → 4 ≤ s.now → isFrame q.op = false → r.issued + 4 = s.now) ∧
      (clusterAt s g).ports = l1 ++ l2 ∧
      exec (reqEvent q) s = .next (setCluster s g { clusterAt s g with ports := l1 ++ r :: l2 }) ∧
      (∀ x ∈ l1, x.bank = b → x.port = r.port → x.issued ≤ r.issued) ∧
      ∀ x ∈ l2.head?, x.bank = b ∧ x.port = r.port ∧ r.issued < x.issued) ∧
  (∀ (s : State) (g b : Nat) (r : PortReq), bankNext s g b = some r →
    r ∈ (clusterAt s g).ports ∧ r.bank = b ∧ r.port < 20 ∧ (bankAt (clusterAt s g) b).held = none ∧
    (∃ c, r.at_ = some c ∧ c ≤ s.now) ∧
    (isHomeAct r.act = false → ∀ p < 20, portHead s g b p ≠ none → (r.port + 20 - s.now % 20) % 20 ≤ (p + 20 - s.now % 20) % 20) ∧
    (b < 32 → bankNext (takeCycle s g r) g b = none))

end Sys2Proof.Says

/-- R68, R221, R223, R226, R228-R233, R260, R392, R405, R408: what each request does in its one service at its home, and its answer; a
request that its unit has executed is answered again and has no effect; one that must wait takes a waiter's place; a read of a word
with an uncorrectable error is answered with trap 0x70.
In part the model's choice: logs 10, 25 and 28. -/
def Obligations.HomeService : Prop :=
  (∀ (s : State) (q : MemReq) (o : Host.Outcome State Fault Refusal), TakenUp s q o →
    (OnePlace s q → Fresh s q → ∀ d, homeDone s q = some (.ok d) →
      ∃ t, o = .next t ∧ Performed s t q d ∧ AnswerOnWay t (answerOf q none d) ∧ SameThreads s t) ∧
    (OnePlace s q → Fresh s q → ∀ ti, homeDone s q = some (.error ti) →
      ∃ t, o = .next t ∧ SameMemory s t ∧ AnswerOnWay t (answerOf q (some ti) {}) ∧ SameThreads s t) ∧
    (Admitted s q → ReadsError s q → Fresh s q →
      ∃ t, o = .next t ∧ SameMemory s t ∧ AnswerOnWay t (answerOf q (some (errorTrap s q)) {}) ∧ SameThreads s t) ∧
    (OnePlace s q → Fresh s q → homeDone s q = none →
      ∃ t, o = .next t ∧ SameMemory s t ∧ SameThreads s t ∧
        ∃ w ∈ waitersOf t (homeOf s q.place), w.q = q ∧ w.arrived = s.now) ∧
    ((∀ w ∈ waitersOf s (homeOf s q.place), w.q ≠ q) →
      ∀ u r, unitEnt s (homeOf s q.place) q.src = some u → seenReply u q = some r → q.parked = true →
      ∃ t, o = .next t ∧ SameMemory s t ∧ AnswerOnWay t (.reply q.src q.tag r) ∧ SameThreads s t)) ∧
  QueueRule ∧ PortRule

namespace Sys2Proof.Says

/-- A near request is served or judged at its bank in this cycle, and this is what comes of it (R68, R223, R226). -/
def AtBank (s : State) (q : MemReq) (o : Host.Outcome State Fault Refusal) : Prop :=
  q.near = true ∧ OnePlace s q ∧ ∃ g off, q.place = .near g off ∧ BankServes s g (.req q) o
/-- The counter that a near full/empty operation raises once it is judged (R61, R223). -/
def judged : HomeOp → OpKind
  | .stfe _ => .st
  | _ => .ld
/-- The answer of a near access lands in the time left of R61. -/
def Lands (t : State) (q : MemReq) (kind : OpKind) (id : Nat) : Prop :=
  (t.now + q.total, .nearLoadLand q.src id) ∈ t.agenda ∨ kind ≠ .ld ∧ (t.now + q.total, .nearStoreAck q.src id) ∈ t.agenda

end Sys2Proof.Says

/-- R61, R221, R223, R226, R228-R233: what each near request does at its bank. One that does not park lands in its time; of a
parked one, a satisfied full/empty operation ends its instruction with its counter raised, LDA and WAITA are answered in
their time, and one that must wait takes a waiter's place; one whose thread no longer waits is dropped.
In part the model's choice: logs 11 and 36. -/
def Obligations.NearService : Prop :=
  ∀ (s : State) (q : MemReq) (o' : Host.Outcome State Fault Refusal), AtBank s q o' →
    (q.parked = false → ∀ d, homeDone s q = some (.ok d) →
      ∃ t, o' = .next t ∧ Performed s t q d ∧ SameThreads s t ∧ t.now = s.now ∧
        (q.opId = 0 → t.ops = s.ops) ∧
        (∀ o ∈ s.ops, o.id = q.opId → q.opId ≠ 0 → Lands t q o.kind q.opId ∧
          { o with load := some ⟨q.dest, BitVec.ofNat 512 d.value, d.flags, none⟩ } ∈ t.ops)) ∧
    (q.parked = false → ∀ ti, homeDone s q = some (.error ti) → ∀ o ∈ s.ops, o.id = q.opId → q.opId ≠ 0 →
      ∃ t, o' = .next t ∧ SameMemory s t ∧ SameThreads s t ∧
        { o with load := some ⟨q.dest, 0, 0, some ti⟩ } ∈ t.ops) ∧
    (q.parked = true → awaits s q = false →
      ∃ t, o' = .next t ∧ SameMemory s t ∧ SameThreads s t ∧ t.ops = s.ops ∧ t.agenda = s.agenda) ∧
    (q.parked = true → ∀ (th : Thread) (pk : Park), thread? s q.src = some th → th.park = some pk → awaits s q = true →
      (∀ d, homeDone s q = some (.ok d) → (q.op = .ldfe ∨ q.op = .ldff ∨ ∃ v, q.op = .stfe v) →
        ∃ t, o' = .next t ∧ Performed s t q d ∧ t.now = s.now ∧ SameOthers s t q.src ∧
          thread? t q.src = some (ended (addCount (judged q.op) th) (succPc th.pc) false) ∧
          ∃ o ∈ t.ops, o.uid = th.uid ∧ o.kind = judged q.op ∧ Lands t q o.kind o.id ∧
            o.load = some ⟨q.dest, BitVec.ofNat 512 d.value, d.flags, none⟩) ∧
      (∀ d, homeDone s q = some (.ok d) → (∃ n, q.op = .load n) ∨ (∃ cc n b, q.op = .waita cc n b) →
        ∃ t, o' = .next t ∧ Performed s t q d ∧ SameOthers s t q.src ∧
          thread? t q.src = some { th with park := some { pk with why := .far { q with tag := 2 } } } ∧
          (s.now + q.total, .reply q.src 2 ⟨BitVec.ofNat 512 d.value, d.flags, none, false, []⟩) ∈ t.agenda) ∧
      (homeDone s q = none → ∃ t, o' = .next t ∧ SameMemory s t ∧ SameThreads s t ∧
        ∃ w ∈ waitersOf t (homeOf s q.place), w.q = q ∧ w.arrived = s.now))

namespace Sys2Proof.Says

/-- The value that a late result of n bytes gives a 64-bit register (R221). -/
def widened (sx : Bool) (n : Nat) (data : Line) : Word :=
  let m := data.toNat % 2 ^ (8 * n)
  if sx = true ∧ 2 ^ (8 * n - 1) ≤ m then BitVec.ofInt 64 (m - 2 ^ (8 * n)) else BitVec.ofNat 64 m

end Sys2Proof.Says

/-- R143, R221, R131: a near answer lands: its counter falls, the destination holds the value and is present, and its flags are
ORed in; a fault met at the bank is deferred instead. What a landing writes into each kind of destination. -/
def Obligations.Landings : Prop :=
  (∀ (i : Instr) (s : State) (t0 : TId) (id : Nat) (o : Op) (th : Thread) (l : PendLoad) (q : MemReq),
    i = .nearLoadLand t0 id ∨ i = .nearStoreAck t0 id → s.ops.find? (fun x => x.id = id) = some o →
    findUid s o.uid = some (o.t, th) → o.load = some l → o.q = some q → (∀ f ∈ (coreAt s o.t.core).forwards, id ∉ f.ops) →
    ∃ t, exec i s = .next t ∧ t.ops = s.ops.filter (fun x => x.id != id) ∧ SameMemory s t ∧ SameOthers s t o.t ∧
      thread? t o.t = some (match l.fault with
        | some ti => { setDest (subCount o.kind th) l.dest with deferred := th.deferred ++ [deferredInfo ti] }
        | none =>
          let th' := deliver (subCount o.kind th) l.dest (opResult q.op) l.data
          { th' with scr := { th'.scr with fflags := th'.scr.fflags ||| l.flags.setWidth 64 } }) ∧
      (∀ g, (clusterAt t g).cache =
        if l.fault = none ∧ q.acq = true ∧ q.scope ∈ [.sys, .pkg, .die] ∧ g = q.src.core / 16 then
          (clusterAt s g).cache.filter (fun x => x.dirty ≠ 0)
        else (clusterAt s g).cache)) ∧
  (∀ (th : Thread) (sx : Bool) (n : Nat) (data : Line), n = 1 ∨ n = 2 ∨ n = 4 ∨ n = 8 →
    (∀ (k : Fin 16) (a : Nat), k ≠ 0 → deliver th (.reg (.g k) a sx) n data =
      { th with g := th.g.set k (widened sx n data), absent := th.absent.filter (· ≠ .g k) }) ∧
    (∀ (k : Fin 48), deliver th (.reg (.w k) (th.depth * 32 + k) sx) n data =
      { th with w := th.w.set k (widened sx n data), absent := th.absent.filter (· ≠ .w (th.depth * 32 + k)) }) ∧
    (∀ a, deliver th (.reg (.g 0) a sx) n data = th) ∧ deliver th .none n data = th) ∧
  (∀ (th : Thread) (k : Fin 32) (m : BitVec 16) (z : Bool) (data : Line) (n : Nat),
    let t := deliver th (.lanes (.v k) m z) n data
    t.absent = th.absent.filter (· ≠ .v k) ∧ (∀ j : Fin 32, j ≠ k → t.v[j] = th.v[j]) ∧
      ∀ l < 16, laneOf t.v[k] l = if m.getLsbD l then laneOf data l else if z then 0 else laneOf th.v[k] l) ∧
  (∀ (th : Thread) (ti : TrapInfo), (deferredInfo ti).cause = ti.cause ∧ (deferredInfo ti).addr = ti.addr ∧
    (ti.cause ∈ [0x31, 0x32, 0x11, 0x23, 0x70] → (deferredInfo ti).info = ti.info ||| 0x80000000) ∧
    (ti.cause = 0x60 → (deferredInfo ti).info = ti.info ||| 0x10000000) ∧
    (ti.cause ∉ [0x31, 0x32, 0x11, 0x23, 0x70, 0x60] → deferredInfo ti = ti))

/-! ### Answers and waiting operations -/

namespace Sys2Proof.Says

/-- No other part of the package differs than the threads' cores: memory, clusters, groups, queues, operations, agenda. -/
def OnlyCores (s t : State) : Prop := t = { s with cores := t.cores, views := t.views, resume := t.resume }

end Sys2Proof.Says

/-- R391, R131, R393, R173: a reply whose id is that of the request on which its thread is parked is its answer, and any other is
discarded; the thread of an access of several requests is answered by the last of their replies, which holds them all; an acknowledgement lowers the counter of its posted request and frees its tag, and defers the fault met at the home.
In part the model's choice: log 25. -/
def Obligations.AnswersLand : Prop :=
  (∀ (s : State) (t : TId) (tag : Nat) (r : ReplyData),
    (∀ (th : Thread) (pk : Park) (q : MemReq), thread? s t = some th → th.park = some pk → pk.why = .far q →
      gatherOf s q.opId = none → q.tag = tag →
      exec (.reply t tag r) s = .next (setThread s t { th with park := some { pk with why := .replied q r } })) ∧
    (∀ (th : Thread) (pk : Park) (q y : MemReq) (x : Gather), thread? s t = some th → th.park = some pk → pk.why = .far q →
      gatherOf s q.opId = some x → x.parts.find? (fun y => y.tag = tag) = some y →
      let left := x.parts.filter (fun z => z.tag ≠ y.tag)
      let r' : ReplyData := ⟨x.r.data ||| r.data, x.r.flags ||| r.flags, lowerFault x.r.fault r.fault, x.r.withdrawn || r.withdrawn,
        x.r.frame ++ r.frame⟩
      (left = [] → exec (.reply t tag r) s = .next (setThread { s with gathers := s.gathers.filter (fun z => z.id != x.id) } t
        { th with park := some { pk with why := .replied q r' } })) ∧
      (left ≠ [] → exec (.reply t tag r) s = .next { s with
        gathers := s.gathers.map (fun z => if z.id = x.id then { x with parts := left, r := r' } else z) })) ∧
    ((∀ (th : Thread) (pk : Park) (q : MemReq), thread? s t = some th → th.park = some pk → pk.why = .far q →
        gatherOf s q.opId = none ∧ q.tag ≠ tag) →
      exec (.reply t tag r) s = .next s)) ∧
  (∀ (s : State) (t : TId) (tag : Nat) (fault : Option TrapInfo),
    (∀ (o : Op) (th : Thread), s.ops.find? (fun x => x.t = t && x.tag = some tag) = some o → findUid s o.uid = some (t, th) →
      s.ops.find? (fun x => x.id = o.id) = some o → o.kind ≠ .part →
      ∃ t', exec (.acknowledgement t tag fault) s = .next t' ∧ t'.ops = s.ops.filter (fun x => x.id != o.id) ∧ SameOthers s t' t ∧
        thread? t' t = some (match fault with
          | some ti => { subCount o.kind th with deferred := th.deferred ++ [deferredInfo ti] }
          | none => subCount o.kind th) ∧
        t' = { s with cores := t'.cores, ops := t'.ops } ∧
        (0 < o.resends → ∀ q, o.q = some q → (tag % 64, o.lastSent + 4 * timeoutOf q.place) ∈ (slotOf t' t).quiet)) ∧
    (s.ops.find? (fun x => x.t = t && x.tag = some tag) = none → exec (.acknowledgement t tag fault) s = .next s))

/-- R59, R131, R143, R221, R268, R379: a thread whose wake condition holds is eligible from the next cycle. An answered access
writes its destination, performs its acquire and ends; its fault traps; a deferred fault is taken in place of the
instruction's completion; an instruction parked for another reason is tried again, and with a thread in ALIGN those of its set.
In part the model's choice: logs 22 and 29. -/
def Obligations.Wakes : Prop :=
  ∀ (s : State) (t : TId) (th : Thread) (pk : Park), thread? s t = some th → th.park = some pk →
    let up := { th with ready := s.now + 1 }
    (∀ q r, pk.why = .replied q r → r.fault = none → r.withdrawn = false → takesDeferred th pk = false →
      pk.retry = none → (∀ m, q.op ≠ .vload m) →
      ∃ t', exec (.threadWake t) s = .next t' ∧ SameMemory s t' ∧ SameOthers s t' t ∧ t'.ops = s.ops ∧ t'.agenda = s.agenda ∧
        let th' := deliver up q.dest (opResult q.op) r.data
        thread? t' t = some (ended { th' with scr := { th'.scr with fflags := th'.scr.fflags ||| r.flags.setWidth 64 } }
          (succPc th.pc) false)) ∧
    (∀ q r i, pk.why = .replied q r → r.fault = none → r.withdrawn = false → takesDeferred th pk = false → pk.retry = some i →
      q.op ≠ .readFrame →
      ∃ t', exec (.threadWake t) s = .next t' ∧ SameMemory s t' ∧ SameOthers s t' t ∧ t'.resume = some (t, i) ∧
        thread? t' t = some { up with latch := some (th.latch.getD [] ++ [r.data.setWidth 64]), cont := 2, park := none }) ∧
    (∀ q r ti, pk.why = .replied q r → r.fault = some ti → r.withdrawn = false → takesDeferred th pk = false → CanTrap th → th.pops = [] →
      ∃ t', exec (.threadWake t) s = .next t' ∧ OnlyCores s t' ∧ SameOthers s t' t ∧
        thread? t' t = some (ended { setDest up q.dest with scr := trapScr th ti } th.scr.tvec true)) ∧
    (∀ ti rest, th.deferred = ti :: rest → takesDeferred th pk = true → (∀ n, pk.why ≠ .align n) → CanTrap th → th.pops = [] →
      let now' := match pk.why with
        | .replied q _ => setDest up q.dest
        | _ => up
      ∃ t', exec (.threadWake t) s = .next t' ∧ OnlyCores s t' ∧ SameOthers s t' t ∧
        thread? t' t = some (ended { now' with deferred := rest, barArr := none, scr := trapScr th ti } th.scr.tvec true)) ∧
    (∀ i, pk.retry = some i → takesDeferred th pk = false → (∀ q r, pk.why ≠ .replied q r) → (∀ f, pk.why ≠ .engineDone (some f)) →
      (∀ ti, pk.why ≠ .trapNow ti) →
      ∃ t', exec (.threadWake t) s = .next t' ∧ OnlyCores s t' ∧ t'.resume = some (t, i) ∧ thread? t' t = some { up with park := none } ∧
        ((∀ n, pk.why ≠ .align n) → SameOthers s t' t) ∧
        (∀ n, pk.why = .align n → ∀ v, v ≠ t → thread? t' v =
          if v.slot = t.slot ∧ v.core / 16 = t.core / 16 then (thread? s v).map (fun x =>
            if x.launch = th.launch ∧ x.stopped = none then { x with park := x.park.map (fun p => { p with why := .until s.now }) } else x)
          else thread? s v))

namespace Sys2Proof.Says

/-- The waiters of a home that stand in its table, oldest first, and those that it has refused (R224). -/
def inTable (s : State) (h : HomeId) : List Waiter := (waitersOf s h).filter (fun w => w.refusedAt.isNone)
def refused (s : State) (h : HomeId) : List Waiter := (waitersOf s h).filter (fun w => w.refusedAt.isSome)
/-- The entries of its table that are in use; a FIFO bank's pushers and poppers need none (R251). -/
def seats (s : State) (h : HomeId) : List Waiter := (inTable s h).filter (fun w => !isFifoOp w.q.op)
/-- A request's source sends it again, with its identity unchanged (R393). -/
def Resent (t : State) (q : MemReq) : Prop := OnWay t q
/-- The SITE of a home whose answer does not come (R408): host memory, a peer, or this package. -/
def siteOf : Place → Nat
  | .host _ => 6
  | .peer _ _ => 7
  | _ => 8
/-- Trap 0x70 of a request that its home never answered (R393). -/
def noAnswer (q : MemReq) : TrapInfo := ⟨0x70, q.va, BitVec.ofNat 64 (siteOf q.place * 2 ^ 32 + q.opc * 2 ^ 18)⟩

end Sys2Proof.Says

/-- R224: a home serves the first operation of its table that it can serve, answers it, and looks again in the next cycle; with
none it does nothing. A refused operation is resent every 64 cycles and judged then: it is served, or takes the place that is free
once no earlier refusal waits for it, or goes on being resent. -/
def Obligations.WaitersServed : Prop :=
  (∀ (s : State) (h : HomeId), (∀ w ∈ inTable s h, OnePlace s w.q ∧ homeDone s w.q = none) →
    (∀ w ∈ waitersOf s h, isFifoOp w.q.op = false) → exec (.homeWaiterServe h) s = .next s) ∧
  (∀ (s : State) (h : HomeId) (w : Waiter) (l r : List Waiter) (d : Done), inTable s h = l ++ w :: r →
    (∀ x ∈ l, OnePlace s x.q ∧ homeDone s x.q = none) → OnePlace s w.q → homeDone s w.q = some (.ok d) → w.q.near = false →
    ∃ t, exec (.homeWaiterServe h) s = .next t ∧ Performed s t w.q d ∧ SameThreads s t ∧ w ∉ waitersOf t h ∧
      (∀ x ∈ waitersOf s h, x ≠ w → x ∈ waitersOf t h) ∧ AnswerOnWay t (answerOf w.q none d) ∧
      (s.now + 1, .homeWaiterServe h) ∈ t.agenda) ∧
  (∀ (s : State) (q : MemReq), (waitersOf s (homeOf s q.place)).find? (fun w => w.q = q && w.refusedAt.isSome) = none →
    exec (.waiterTableResend q) s = .next s) ∧
  (∀ (s : State) (q : MemReq) (w : Waiter), (waitersOf s (homeOf s q.place)).find? (fun w => w.q = q && w.refusedAt.isSome) = some w →
    (seats s (homeOf s q.place)).length = waiterCap (homeOf s q.place) → OnePlace s q → homeDone s q = none →
    exec (.waiterTableResend q) s = .next (later s 64 (.waiterTableResend q))) ∧
  (∀ (s : State) (q : MemReq) (w : Waiter) (d : Done), refused s (homeOf s q.place) = [w] → w.q = q → q.near = false →
    OnePlace s q → homeDone s q = some (.ok d) →
    ∃ t, exec (.waiterTableResend q) s = .next t ∧ Performed s t q d ∧ SameThreads s t ∧ refused t (homeOf s q.place) = [] ∧
      AnswerOnWay t (answerOf q none d)) ∧
  (∀ (s : State) (q : MemReq) (w : Waiter), refused s (homeOf s q.place) = [w] → w.q = q →
    (seats s (homeOf s q.place)).length < waiterCap (homeOf s q.place) → OnePlace s q → homeDone s q = none →
    ∃ t, exec (.waiterTableResend q) s = .next t ∧ SameMemory s t ∧ SameThreads s t ∧ refused t (homeOf s q.place) = [] ∧
      inTable t (homeOf s q.place) = inTable s (homeOf s q.place) ++ [⟨q, s.now, none⟩] ∧ t.agenda = s.agenda)

/-- R241, R392, R393: a withdrawal removes an operation that its home has not served and answers it, leaves a served one
alone, and waits at the home for one that is still on its way; a refused request is resent 64 cycles after its refusal lands, and an unanswered one at its timeout, with the same
identity, three times; then a parked thread takes trap 0x70, and a posted request completes with it deferred.
In part the model's choice: logs 24 and 79. -/
def Obligations.Retries : Prop :=
  (∀ (s : State) (q : MemReq), (waitersOf s (homeOf s q.place)).find? (fun w => w.q.src = q.src && w.q.uid = q.uid && w.q.opId = q.opId) = none →
    exec (.withdrawal q) s = .next (if servedAt s q = true ∨ farWaits s q = false then s else later s 1 (.withdrawal q))) ∧
  (∀ (s : State) (q : MemReq) (w : Waiter), w.q.near = false → w.q.parked = true →
    (waitersOf s (homeOf s q.place)).find? (fun w => w.q.src = q.src && w.q.uid = q.uid && w.q.opId = q.opId) = some w →
    ∃ t r, exec (.withdrawal q) s = .next t ∧ SameMemory s t ∧ SameThreads s t ∧ w ∉ waitersOf t (homeOf s q.place) ∧
      r.withdrawn = true ∧ r.fault = none ∧ AnswerOnWay t (.reply w.q.src w.q.tag r)) ∧
  (∀ (s : State) (q : MemReq), ∃ t, exec (.refusal q) s = .next t ∧ SameMemory s t ∧ SameThreads s t ∧
    AnswerOnWay t (.refusalResend q)) ∧
  (∀ (s : State) (q : MemReq), Leaves s (q.src.core / 16) q.place →
    ∃ t, exec (.refusalResend q) s = .next t ∧ SameMemory s t ∧ SameThreads s t ∧ Resent t q) ∧
  (∀ (s : State) (t : TId) (tag : Nat) (o : Op) (q : MemReq), tag < 128 → s.ops.find? (fun x => x.t = t && x.tag = some tag) = some o →
    o.q = some q → o.lastSent + timeoutOf q.place ≤ s.now →
    (o.resends < 3 → Leaves s (t.core / 16) q.place → ∃ t', exec (.requestTimeout t (128 + tag)) s = .next t' ∧ SameMemory s t' ∧ SameThreads s t' ∧ Resent t' q ∧
      { o with resends := o.resends + 1, lastSent := s.now } ∈ t'.ops ∧
      (s.now + timeoutOf q.place, .requestTimeout t (128 + tag)) ∈ t'.agenda) ∧
    (o.resends = 3 → ∀ th, findUid s o.uid = some (t, th) → s.ops.find? (fun x => x.id = o.id) = some o → o.kind ≠ .part →
      ∃ t', exec (.requestTimeout t (128 + tag)) s = .next t' ∧ SameMemory s t' ∧ SameOthers s t' t ∧
        t'.ops = s.ops.filter (fun x => x.id != o.id) ∧
        thread? t' t = some { subCount o.kind th with deferred := th.deferred ++ [deferredInfo (noAnswer q)] })) ∧
  (∀ (s : State) (t : TId) (tag : Nat) (th : Thread) (pk : Park) (q : MemReq), tag < 128 → thread? s t = some th → th.park = some pk →
    pk.why = .far q → q.tag = tag → tag ≠ 2 → gatherOf s q.opId = none →
    (∀ w ∈ waitersOf s (homeOf s q.place), ¬ (w.q.src = t ∧ w.q.uid = q.uid)) →
    (∀ k, 1 ≤ k → k ≤ 3 → (s.now - q.total) / timeoutOf q.place = k → Leaves s (t.core / 16) q.place →
      ∃ t', exec (.requestTimeout t tag) s = .next t' ∧ SameMemory s t' ∧ SameThreads s t' ∧ Resent t' q ∧
        (s.now + timeoutOf q.place, .requestTimeout t tag) ∈ t'.agenda) ∧
    ((s.now - q.total) / timeoutOf q.place = 4 → CanTrap th → th.pops = [] →
      ∃ t', exec (.requestTimeout t tag) s = .next t' ∧ OnlyCores s t' ∧ SameOthers s t' t ∧
        thread? t' t = some (ended { setDest th q.dest with scr := trapScr th (noAnswer q) } th.scr.tvec true)))

/-! ### Fences, FIFO banks and vector memory -/

namespace Sys2Proof.Says

/-- DIE, PACKAGE and SYSTEM scope (R268). -/
def wideScope (sc : Scope) : Bool := sc = .die || sc = .pkg || sc = .sys
/-- The thread waits in the middle of its instruction `i`, which it goes on with at its wake: parked for `why`, in part `n`. -/
def inPart (s : State) (th : Thread) (i : Instr) (why : Why) (n : Nat) : Thread :=
  { th with park := some ⟨why, some i, s.now⟩, waited := 0, cont := n }
/-- The same thread, resumed in part `n` of its instruction. -/
def InPart (s : State) (th : Thread) (p : Pred) (n : Nat) : Prop :=
  thread? s s.cur = some th ∧ predOk (viewOf s s.cur th) p = true ∧ th.park = none ∧ th.cont = n

end Sys2Proof.Says

namespace Sys2Proof.Says

/-- R240: CFLUSH does not park; its posted operation is acknowledged 8 cycles later, or when the line's dirty bytes are home;
.WB keeps the line, clean, and .INV drops it; on an MS page or where the line is absent nothing else happens. It asks for
no permission. -/
def FlushRule : Prop :=
  ∀ (s : State) (th : Thread) (p : Pred) (inv : Bool) (m : MemArg) (pl : Place) (leaf : Word) (lvl : Nat),
    AtTurn s th p → CanUse s th (.cflush p inv m) [m.a, m.b] none → NoChannel [m.a, m.b] → isAperture pl = false →
    let va := MemArg.at m (val s th [m.a, m.b] 0) (val s th [m.a, m.b] 1)
    xlate s s.cur.core ⟨rootOf s th, va, false, false, false, false, true, false, opOf (.cflush p inv m)⟩ = .ok pl leaf lvl →
    let line := (clusterAt s (myCluster s)).cache.find? (fun l => l.place = lineOf pl)
    ∃ t tag d, exec (.cflush p inv m) s = .next t ∧ SameOthers s t s.cur ∧
      thread? t s.cur = some (ended { th with st := th.st + 1 } (succPc th.pc) false) ∧
      (∃ o ∈ t.ops, o.uid = th.uid ∧ o.kind = .st ∧ o.tag = some tag) ∧ (s.now + d, .acknowledgement s.cur tag none) ∈ t.agenda ∧
      match line with
      | none => SameMemory s t ∧ d = 8 ∧ ∀ g, (clusterAt t g).cache = (clusterAt s g).cache
      | some l =>
        if leaf.getLsbD 4 then SameMemory s t ∧ d = 8 ∧ ∀ g, (clusterAt t g).cache = (clusterAt s g).cache
        else BytesHome s t [l] ∧ d = (if l.dirty = 0 then 8 else farTime (myCluster s) pl false) ∧
          if inv then ∀ x ∈ (clusterAt t (myCluster s)).cache, x.place ≠ lineOf pl
          else ∀ x ∈ (clusterAt t (myCluster s)).cache, x.place = lineOf pl → x.dirty = 0

end Sys2Proof.Says

namespace Sys2Proof.Says

/-- The state and the cycle after a release at a scope has begun: at DIE scope or wider the cluster's dirty bytes are at their homes, the
lines clean, and the write-backs acknowledged at `c`; else nothing happens (R225, R268). -/
def Released (s r : State) (sc : Scope) (c : Nat) : Prop :=
  SameThreads s r ∧ r.now = s.now ∧ r.cur = s.cur ∧ r.views = s.views ∧ (wideScope sc = false → r = s ∧ c = s.now) ∧
  (wideScope sc = true → (∀ l ∈ (clusterAt r (myCluster s)).cache, l.dirty = 0) ∧ BytesHome s r (clusterAt s (myCluster s)).cache ∧
    s.now ≤ c ∧ (∀ l ∈ (clusterAt s (myCluster s)).cache, l.dirty ≠ 0 → s.now + farTime (myCluster s) l.place false ≤ c) ∧
    ((∀ l ∈ (clusterAt s (myCluster s)).cache, l.dirty = 0) → c = s.now))
/-- The clean lines are dropped at DIE scope or wider, and the thread waits the 16 cycles of an acquire (R268). -/
def Acquires (s : State) (th : Thread) (i : Instr) (sc : Scope) (t : State) : Prop :=
  SameMemory s t ∧ SameOthers s t s.cur ∧ thread? t s.cur = some (inPart s th i (.until (s.now + 16)) 2) ∧
    (clusterAt t (myCluster s)).cache = (clusterAt s (myCluster s)).cache.filter (fun l => !wideScope sc || l.dirty ≠ 0)
/-- The end of a FENCE's release: .REL is over, .AR goes on with its acquire. -/
def ReleaseEnds (s : State) (th : Thread) (p : Pred) (o : Ord) (sc : Scope) (out : Host.Outcome State Fault Refusal) : Prop :=
  (o = .rel → out = .next (passed s th)) ∧ (o = .ar → ∃ t, out = .next t ∧ Acquires s th (.fence p .ar sc) sc t)

end Sys2Proof.Says

/-- R225, R227, R268: an acquiring FENCE drops the cluster's clean lines at DIE scope or wider and takes 16 cycles; a releasing
one writes the dirty lines home at those scopes and waits until st is 0, writes back what has become dirty by then, and waits for the last
acknowledgement; .AR does both, in this order. WAIT ends when the counters are at or below its limits, and parks until then.
In part the model's choice: logs 30 and 33. -/
def Obligations.Fences : Prop :=
  (∀ (s : State) (th : Thread) (p : Pred) (sc : Scope), AtTurn s th p →
    ∃ t, exec (.fence p .acq sc) s = .next t ∧ Acquires s th (.fence p .acq sc) sc t) ∧
  (∀ (s : State) (th : Thread) (p : Pred) (sc : Scope) (o : Ord) (n : Nat), n = 0 ∨ n = 1 → InPart s th p n → o = .rel ∨ o = .ar →
    ∃ r c, Released s r sc c ∧
      (th.st ≠ 0 → exec (.fence p o sc) s = .next (setThread r s.cur { inPart s th (.fence p o sc) .drain 1 with release := some c })) ∧
      (th.st = 0 → s.now < c →
        exec (.fence p o sc) s = .next (setThread r s.cur { inPart s th (.fence p o sc) .drain 3 with release := some c })) ∧
      (th.st = 0 → c = s.now → ReleaseEnds r th p o sc (exec (.fence p o sc) s))) ∧
  (∀ (s : State) (th : Thread) (p : Pred) (sc : Scope) (o : Ord), InPart s th p 2 → exec (.fence p o sc) s = .next (passed s th)) ∧
  (∀ (s : State) (th : Thread) (p : Pred) (sc : Scope) (o : Ord), InPart s th p 3 → o = .rel ∨ o = .ar →
    ReleaseEnds s th p o sc (exec (.fence p o sc) s)) ∧
  (∀ (s : State) (th : Thread) (p : Pred) (l st c t : BitVec 6), AtTurn s th p →
    exec (.wait p l st c t) s = .next (
      if th.ld ≤ l.toNat ∧ th.st ≤ st.toNat ∧ th.cp ≤ c.toNat ∧ th.tl ≤ t.toNat then passed s th
      else setThread s s.cur { th with park := some ⟨.waitCnt l.toNat st.toNat c.toNat t.toNat, some (.wait p l st c t), s.now⟩, waited := 0 })) ∧
  FlushRule

namespace Sys2Proof.Says

/-- The request of a near LD.64 or ST.64 at a FIFO bank's address (R251). -/
def fifoRequest (s : State) (th : Thread) (i : Instr) (op : HomeOp) (d : Dest) (va : Word) : MemReq :=
  { src := s.cur, uid := th.uid, opc := opOf i, op := op, dest := d, va := va, place := nearAt s va, lanes := [], acq := false
    scope := .thr, data := false, wt := false, near := true, parked := true, tag := 2, opId := s.nextId, total := 20, entry := 0, level := 0 }
/-- An instruction at a FIFO bank parks until its bank has judged it; its request is at the bank's port 4 cycles later. -/
def GoesToFifo (s : State) (th : Thread) (i : Instr) (q : MemReq) (vs : List Word) : Prop :=
  ∃ t, exec i s = .next t ∧ SameMemory s t ∧ SameOthers s t s.cur ∧ t.clusters = s.clusters ∧
    t.agenda = agendaPut s.agenda (s.now + 4) (reqEvent { q with total := 16 }) ∧
    thread? t s.cur = some { awaiting th q with park := some ⟨.homeWait q, none, s.now⟩, waited := 0, latch := some vs }
/-- The request waits at its home; words, memory and threads are as before. -/
def WaitsThere (s t : State) (q : MemReq) (c : ChQueue) : Prop :=
  SameMemory s t ∧ SameThreads s t ∧ chWords t c = chWords s c ∧ ∃ w ∈ waitersOf t (homeOf s q.place), w.q = q ∧ w.arrived = s.now
/-- The request is done at the FIFO bank: the words there are these, no other queue and no byte differs, and its thread goes on with
the counter raised and the answer `data` on its way. -/
def DoneThere (s t : State) (q : MemReq) (th : Thread) (c : ChQueue) (ws : List ChWord) (kind : OpKind) (data : Line) : Prop :=
  SameMemory s t ∧ SameOthers s t q.src ∧ chWords t c = ws ∧ (∀ x, x ≠ c → chWords t x = chWords s x) ∧
    thread? t q.src = some (ended (addCount kind th) (succPc th.pc) false) ∧
    ∃ o ∈ t.ops, o.uid = th.uid ∧ o.kind = kind ∧ Lands t q kind o.id ∧ o.load = some ⟨q.dest, data, 0, none⟩

end Sys2Proof.Says

/-- R250, R251: an LD.64 at a FIFO bank's pop address and an ST.64 at its push address park, and their bank judges them in the order in
which it serves them: a pop takes the oldest word that is readable, a push adds one; a pop from an empty bank, a push to a full one,
and one behind another that waits, wait there.
In part the model's choice: log 34. -/
def Obligations.FifoBanks : Prop :=
  (∀ (s : State) (th : Thread) (p : Pred) (d : Reg) (m : MemArg) (b : Nat), AtTurn s th p → m.near = true →
    (∀ sx, CanUse s th (.ld p .b64 sx d m) [m.a, m.b] none →
      let ea := MemArg.at m (val s th [m.a, m.b] 0) (val s th [m.a, m.b] 1)
      NoChannel [m.a, m.b] → ea.toNat < 2 ^ 22 → ea.toNat % 2 ^ 17 = 8 → isFifo (clusterAt s (myCluster s)) ea.toNat = some b →
      blockers s th.uid (nearAt s ea) = [] →
      GoesToFifo s th (.ld p .b64 sx d m) (fifoRequest s th (.ld p .b64 sx d m) .fifoPop (destOf th d sx) ea) (takeOps s th [m.a, m.b]).2) ∧
    (CanUse s th (.st p .b64 d m) [m.a, m.b, d] none →
      let ea := MemArg.at m (val s th [m.a, m.b, d] 0) (val s th [m.a, m.b, d] 1)
      NoChannel [m.a, m.b, d] → ea.toNat < 2 ^ 22 → ea.toNat % 2 ^ 17 = 0 → isFifo (clusterAt s (myCluster s)) ea.toNat = some b →
      blockers s th.uid (nearAt s ea) = [] →
      GoesToFifo s th (.st p .b64 d m) (fifoRequest s th (.st p .b64 d m) (.fifoPush (val s th [m.a, m.b, d] 2)) .none ea)
        (takeOps s th [m.a, m.b, d]).2)) ∧
  (∀ (s : State) (q : MemReq) (g off b : Nat) (th : Thread) (o : Host.Outcome State Fault Refusal), q.near = true → q.place = .near g off →
    off < 2 ^ 22 → isFifo (clusterAt s g) off = some b → q.lanes = [] → q.data = false → q.parked = true → thread? s q.src = some th →
    awaits s q = true → BankServes s g (.req q) o →
    let c : ChQueue := .fifo g b
    (fifoBehind s q = true → ∃ t, o = .next t ∧ WaitsThere s t q c) ∧
    (fifoBehind s q = false → q.op = .fifoPop → off % 2 ^ 17 = 8 →
      (∀ w r, readyWords s c = w :: r → ∃ t, o = .next t ∧ DoneThere s t q th c (chWords s c).tail .ld (w.val.setWidth 512)) ∧
      (readyWords s c = [] → ∃ t, o = .next t ∧ WaitsThere s t q c)) ∧
    (fifoBehind s q = false → ∀ v, q.op = .fifoPush v → off % 2 ^ 17 = 0 →
      ((chWords s c).length < 16384 →
        ∃ t, o = .next t ∧ DoneThere s t q th c (chWords s c ++ [⟨s.now, nearOps s q.uid, v⟩]) .st 0) ∧
      (16384 ≤ (chWords s c).length → ∃ t, o = .next t ∧ WaitsThere s t q c)))

namespace Sys2Proof.Says

/-- A vector memory instruction: predicate, scalar operands, near, store, mask and Z fields, its vector data register, and the
address of a lane from the operand values and the thread's registers (R172). -/
structure VAccess where
  p : Pred
  rs : List Reg
  m : VMem
  store : Bool
  d : Reg
  at_ : Thread → Word → Word → Nat → Word

/-- The address of a lane of VLD and VST, and of VLDG and VSTS (R172). -/
def rowLane (m : VMem) (a b : Word) (l : Nat) : Word := a + (b <<< m.s.val) + m.off.signExtend 64 + BitVec.ofNat 64 (4 * l)
def gatherLane (m : VMem) (th : Thread) (a : Word) (l : Nat) : Word :=
  a + ((laneOf (readV th m.b) l).setWidth 64 <<< m.s.val) + m.off.signExtend 64
def vecRow : Instr → Option VAccess
  | .vld p d m => some ⟨p, [m.a, m.b], m, false, d, fun _ => rowLane m⟩
  | .vst p d m => some ⟨p, [m.a, m.b], m, true, d, fun _ => rowLane m⟩
  | .vldg p d m => some ⟨p, [m.a], m, false, d, fun th a _ => gatherLane m th a⟩
  | .vsts p d m => some ⟨p, [m.a], m, true, d, fun th a _ => gatherLane m th a⟩
  | _ => none
/-- The thread's mask for a vector access, its active lanes in lane order, and a lane's address. -/
def vMask (s : State) (th : Thread) (a : VAccess) : Word := maskOf (viewOf s s.cur th) a.m.m
def vLanes (s : State) (th : Thread) (a : VAccess) : List Nat := (List.range 16).filter (fun l => (vMask s th a).getLsbD l)
def vAddr (s : State) (th : Thread) (a : VAccess) (l : Nat) : Word :=
  a.at_ (viewOf s s.cur th) (val s th a.rs 0) (val s th a.rs 1) l
/-- A near lane that R250 admits at a bank that no race watch guards. -/
def LaneOk (s : State) (va : Word) : Prop :=
  va.toNat % 4 = 0 ∧ nearFault (clusterAt s (myCluster s)) va.toNat .sync = none ∧
    nearArea (clusterAt s (myCluster s)) va.toNat = none
/-- The request of a vector access: the row of the store data or the lanes that a load fills, and each active lane's place. -/
def IsRow (s : State) (th : Thread) (i : Instr) (a : VAccess) (q : MemReq) : Prop :=
  q.src = s.cur ∧ q.uid = th.uid ∧ q.opc = opOf i ∧ q.near = a.m.near ∧
    (a.store = true → q.op = .vstore ((vMask s th a).setWidth 16) (readV (viewOf s s.cur th) a.d) ∧ q.dest = .none) ∧
    (a.store = false → q.op = .vload ((vMask s th a).setWidth 16) ∧ q.dest = .lanes a.d ((vMask s th a).setWidth 16) a.m.z)

end Sys2Proof.Says

namespace Sys2Proof.Says

/-- The parts of a near access of several lanes (R68, R173): each lane stands in one of them, with the access's operation; those of VLDG and
VSTS have one lane each, those of VLD and VST all the lanes of one bank. -/
def InParts (i : Instr) (q : MemReq) (ps : List MemReq) : Prop :=
  (ps.flatMap MemReq.lanes).Perm q.lanes ∧ (∀ y ∈ ps, y.op = q.op ∧ y.opId = q.opId ∧ y.src = q.src ∧ y.near = true ∧ y.lanes ≠ []) ∧
    if opOf i = 0x298 ∨ opOf i = 0x299 then ∀ y ∈ ps, y.lanes.length = 1
    else (∀ y ∈ ps, ∀ a ∈ y.lanes, ∀ b ∈ y.lanes, placeNum a.place / 2 ^ 17 = placeNum b.place / 2 ^ 17) ∧
      ps.Pairwise (fun y z => ∀ a ∈ y.lanes, ∀ b ∈ z.lanes, placeNum a.place / 2 ^ 17 ≠ placeNum b.place / 2 ^ 17)
/-- The words that a load's lanes read. -/
def ReadsLanes (s : State) (q : MemReq) (data : Line) : Prop :=
  ∀ x ∈ q.lanes, x.n < 16 → (∀ y ∈ q.lanes, y.n = x.n → y = x) → (∀ y ∈ q.lanes, y.n < 16) →
    laneOf data x.n = BitVec.ofNat 32 (ofBytesLE (placeRead s x.place 4))
/-- The memory after a store's lanes have been written in lane order. -/
def WritesLanes (s t : State) (q : MemReq) (v : Line) : Prop :=
  ∀ p, placeGet t p = placeGet (q.lanes.foldl (fun s x => placeWrite s x.place (bytesLE (laneOf v x.n).toNat 4)) s) p
/-- R172, R173: at its home a load's request reads each lane's word, and a store's writes them. A part of a near access is answered when
every other part has been. -/
def LanesRule : Prop :=
  ∀ (s : State) (q : MemReq), q.lanes ≠ [] → (∀ x ∈ q.lanes, placeFault s q x = none ∧
      (q.data = false ∨ q.src.slot = 0 ∨ placeArea s q x = none)) →
    (∀ o, TakenUp s q o → Fresh s q →
      (∀ m, q.op = .vload m → (∀ x ∈ q.lanes, placeErr s x.place 4 = false) → ∃ t data, o = .next t ∧ SameMemory s t ∧
        ReadsLanes s q data ∧
        AnswerOnWay t (if q.parked then .reply q.src q.tag ⟨data, 0, none, false, []⟩ else .acknowledgement q.src q.tag none)) ∧
      (∀ m v, q.op = .vstore m v → ∃ t, o = .next t ∧ WritesLanes s t q v)) ∧
    (∀ (g : Nat) (o : Host.Outcome State Fault Refusal) (x : Gather), q.near = true → BankServes s g (.piece q) o →
      gatherOf s q.opId = some x → x.q.parked = false → isFrame x.q.op = false →
      let left := x.parts.filter (fun y => y.tag ≠ q.tag)
      (∀ m, q.op = .vload m → (∀ x ∈ q.lanes, placeErr s x.place 4 = false) → ∃ t data, o = .next t ∧ SameMemory s t ∧
        ReadsLanes s q data ∧
        (left ≠ [] → ∃ y ∈ t.gathers, y.id = x.id ∧ y.parts = left ∧ y.q = x.q ∧ y.r.data = x.r.data ||| data ∧ y.r.fault = x.r.fault) ∧
        (left = [] → ∀ o ∈ s.ops, o.id = x.q.opId → x.q.opId ≠ 0 →
          { o with load := some ⟨x.q.dest, x.r.data ||| data, x.r.flags, x.r.fault⟩ } ∈ t.ops)) ∧
      (∀ m v, q.op = .vstore m v → ∃ t, o = .next t ∧ WritesLanes s t q v))

end Sys2Proof.Says

/-- R172, R173: VLD, VST, VLDG and VSTS. Only active lanes are accessed; the lowest misaligned lane address traps 0x13;
with no active lane the instruction just ends; near lanes are sent as one request for each bank, or for each lane of VLDG and VSTS,
and the instruction ends; far lanes as one for each 64-byte range: a load parks and a store is posted. At its homes a load's request
reads each lane's word and a store's writes them in lane order.
In part the model's choice: logs 28 and 29. -/
def Obligations.VectorMemory : Prop :=
  (∀ (i : Instr) (a : VAccess), vecRow i = some a → i.wf = true → ∀ (s : State) (th : Thread), AtTurn s th a.p →
    CanUse s th i a.rs none →
    (vLanes s th a = [] → a.store = true → exec i s = .next (passed (popped s th a.rs) th)) ∧
    (vLanes s th a = [] → a.store = false → ∃ th', exec i s = .next (passed (popped s th a.rs) th') ∧ (∀ d, a.d = .v d →
      th' = { th with v := th'.v, absent := th.absent.filter (· ≠ .v d) } ∧ (∀ j : Fin 32, j ≠ d → th'.v[j] = th.v[j]) ∧
        th'.v[d] = if a.m.z then 0 else th.v[d])) ∧
    (∀ l ∈ vLanes s th a, CanTrap th → NoChannel a.rs → (vAddr s th a l).toNat % 4 ≠ 0 →
      (∀ k ∈ vLanes s th a, (vAddr s th a k).toNat < (vAddr s th a l).toNat → a.m.near = true ∧ LaneOk s (vAddr s th a k)) →
      exec i s = .next (trapped s th ⟨0x13, vAddr s th a l, 4⟩)) ∧
    (a.m.near = true → vLanes s th a ≠ [] → (∀ l ∈ vLanes s th a, LaneOk s (vAddr s th a l) ∧
        blockers s th.uid (nearAt s (vAddr s th a l)) = []) →
      ∃ t q x, exec i s = .next t ∧ IsRow s th i a q ∧
        q.lanes = (vLanes s th a).map (fun l => ⟨l, nearAt s (vAddr s th a l), vAddr s th a l, false, 0, 0⟩) ∧
        x ∈ t.gathers ∧ x.id = q.opId ∧ InParts i q x.parts ∧ (∀ y ∈ x.parts, (s.now + 4, reqEvent y) ∈ t.agenda) ∧
        SameMemory s t ∧ SameOthers s t s.cur ∧
        (∃ o ∈ t.ops, o.id = q.opId ∧ o.uid = th.uid ∧ o.kind = if a.store then .st else .ld) ∧
        thread? t s.cur = some (ended (awaiting (addCount (if a.store then .st else .ld) th) q) (succPc th.pc) false)) ∧
    (a.m.near = false → NoChannel a.rs → vLanes s th a ≠ [] → ∀ pl : Nat → Place × Word × Nat,
      (∀ l ∈ vLanes s th a, (vAddr s th a l).toNat % 4 = 0 ∧ blockers s th.uid (pl l).1 = [] ∧
        xlate s s.cur.core ⟨rootOf s th, vAddr s th a l, !a.store, a.store, false, false, false, true, opOf i⟩ =
          .ok (pl l).1 (pl l).2.1 (pl l).2.2 ∧
        cached s (myCluster s) (pl l).1 ((pl l).2.1.getLsbD 4) = false ∧ (pl l).2.1.getLsbD 5 = false ∧ Leaves s (myCluster s) (pl l).1 ∧
        (∀ g off, (pl l).1 = .near g off → nearArea (clusterAt s g) off = none)) →
      ∃ (t : State) (qs : List MemReq), exec i s = .next t ∧ SameMemory s t ∧ SameOthers s t s.cur ∧ (∀ q ∈ qs, IsRow s th i a q ∧ OnWay t q) ∧
        (qs.flatMap MemReq.lanes).Perm ((vLanes s th a).map (fun l =>
          ⟨l, (pl l).1, vAddr s th a l, (pl l).2.1.getLsbD 5, (pl l).2.1.toNat % 65536, (pl l).2.2⟩)) ∧
        (∀ q ∈ qs, ∀ y ∈ q.lanes, ∀ z ∈ q.lanes, y.va.toNat / 64 = z.va.toNat / 64) ∧
        qs.Pairwise (fun q q' => ∀ y ∈ q.lanes, ∀ z ∈ q'.lanes, y.va.toNat / 64 ≠ z.va.toNat / 64) ∧
        if a.store then thread? t s.cur = some (ended { th with st := th.st + 1 } (succPc th.pc) false)
        else ∃ q, (thread? t s.cur).bind Thread.park = some ⟨.far q, none, s.now⟩ ∧ IsRow s th i a q ∧ q.lanes.Perm (qs.flatMap MemReq.lanes))) ∧
  LanesRule

/-! ### Barriers and channel bindings -/

namespace Sys2Proof.Says

/-- The group that an operand names for the current thread, and the thread's membership (R234). -/
def myGroup (s : State) (g : GroupArg) : Option Group := findGroup s g.pg (dieOf s.cur.core) g.g.toNat
def IsMember (s : State) (th : Thread) (g : GroupArg) (gr : Group) (m : Member) : Prop :=
  myGroup s g = some gr ∧ member? gr th.uid = some m
/-- Trap 0x21 (R243): the member's phase, or 0, the reason and the group. -/
def groupWord (phase : BitVec 32) (reason : Nat) (g : GroupArg) : Word :=
  BitVec.ofNat 64 (phase.toNat * 2 ^ 32 + reason * 2 ^ 12 + (if g.pg then 128 else 0) + g.g.toNat)
/-- Two values name one group. -/
def SameGroup (a b : Group) : Prop := a.pg = b.pg ∧ a.die = b.die ∧ a.g = b.g
/-- These are the groups after one of them has become `gr`; a group without members is none. -/
def GroupsWith (gs old : List Group) (gr : Group) : Prop :=
  (gr.members ≠ [] → gr ∈ gs) ∧ (∀ x ∈ gs, SameGroup x gr → x = gr ∧ gr.members ≠ []) ∧ ∀ x, ¬ SameGroup x gr → (x ∈ gs ↔ x ∈ old)
/-- The group with a member's fields changed. -/
def withMember (gr : Group) (m : Member) : Group :=
  { gr with members := gr.members.map (fun x => if x.uid = m.uid then m else x) }
/-- The group after the thread has completed a wait on a phase (R281). -/
def withCompleted (gr : Group) (uid : Nat) (ph : BitVec 32) : Group :=
  { gr with members := gr.members.map (fun x => if x.uid = uid && phaseLe x.completed ph then { x with completed := ph } else x) }
/-- The lead of a member, against the swept minimum where the group is watched (R236, R281). -/
def lead (s : State) (gr : Group) (m : Member) : Nat :=
  (m.phase - if watchHomes s gr = [] then groupMin gr else gr.swept).toNat
/-- Cycles from a recording to the report of the completion: 12 for a die group, 48 for a package group (R236). -/
def reportTime (pg : Bool) : Nat := if pg then 48 else 12

end Sys2Proof.Says

namespace Sys2Proof.Says

/-- R236, R268, R281: BWAIT of a phase ahead of the member's own traps 0x21; a reported phase completes it, raises the completed
phase and drops the cluster's clean lines; for any other phase it parks. -/
def BwaitRule : Prop :=
  ∀ (s : State) (th : Thread) (p : Pred) (g : GroupArg) (a : Reg), AtTurn s th p → CanUse s th (.bwait p g a) [a] none →
    let ph : BitVec 32 := (val s th [a] 0).setWidth 32
    (CanTrap th → (∀ gr, myGroup s g = some gr → member? gr th.uid = none) →
      exec (.bwait p g a) s = .next (trapped s th ⟨0x21, 0, groupWord 0 0 g⟩)) ∧
    (∀ gr m, IsMember s th g gr m →
      (CanTrap th → 0 < (ph - m.phase).toNat → (ph - m.phase).toNat < 2 ^ 31 →
        exec (.bwait p g a) s = .next (trapped s th ⟨0x21, 0, groupWord m.phase 2 g⟩)) ∧
      (ph = m.phase ∨ 2 ^ 31 ≤ (ph - m.phase).toNat →
        (phaseLe ph gr.reported = true → ∃ t, exec (.bwait p g a) s = .next t ∧ SameMemory s t ∧ SameOthers s t s.cur ∧
          thread? t s.cur = some (ended th (succPc th.pc) false) ∧
          GroupsWith t.groups s.groups (withCompleted gr th.uid ph) ∧
          (NoChannel [a] → (clusterAt t (myCluster s)).cache = (clusterAt s (myCluster s)).cache.filter (fun l => l.dirty ≠ 0))) ∧
        (phaseLe ph gr.reported = false → NoChannel [a] → exec (.bwait p g a) s = .next (setThread s s.cur { th with
          park := some ⟨.bwait g.pg (dieOf s.cur.core) g.g.toNat ph false, some (.bwait p g a), s.now⟩, waited := 0
          latch := some [val s th [a] 0] }))))

end Sys2Proof.Says

/-- R234, R236, R243: ARRIVE and BAR of a thread that is no member trap 0x21; at the lead limit they park; else the member's phase
rises by one, and its arrival is held until its stores and the cluster's dirty lines are at home. ARRIVE ends with the new
phase in D; BAR waits on it, and when it is reported D holds it and the clean lines are dropped.
In part the model's choice: log 33. -/
def Obligations.Arrivals : Prop :=
  (∀ (s : State) (th : Thread) (p : Pred) (d : Reg) (g : GroupArg), (Instr.arrive p d g).wf = true → AtTurn s th p →
    (CanTrap th → (∀ gr, myGroup s g = some gr → member? gr th.uid = none) → ∀ i, i = .arrive p d g ∨ i = .bar p d g →
      exec i s = .next (trapped s th ⟨0x21, 0, groupWord 0 0 g⟩)) ∧
    (∀ gr m, IsMember s th g gr m →
      (¬ lead s gr m ≤ 2 → exec (.arrive p d g) s = .next (setThread s s.cur
          { th with park := some ⟨.arrive g.pg (dieOf s.cur.core) g.g.toNat, some (.arrive p d g), s.now⟩, waited := 0, cont := 1 }) ∧
        (th.barArr = none → exec (.bar p d g) s = .next (setThread s s.cur
          { th with park := some ⟨.arrive g.pg (dieOf s.cur.core) g.g.toNat, some (.bar p d g), s.now⟩, waited := 0 }))) ∧
      (lead s gr m ≤ 2 → ∃ gs h, GroupsWith gs s.groups (withMember gr { m with phase := m.phase + 1 }) ∧ h.uid = th.uid ∧
        h.before = [] ∧ h.wide = true ∧ h.act = .barrierArrivalRecord th.uid gr.pg gr.die gr.g (m.phase + 1) ∧
        exec (.arrive p d g) s = .next { wrote s th d ((m.phase + 1).setWidth 64) with
          groups := gs, held := s.held ++ [h], nextId := s.nextId + 1 } ∧
        (th.barArr = none → exec (.bar p d g) s = .next { setThread s s.cur { th with
            barArr := some (m.phase + 1)
            park := some ⟨.bwait g.pg (dieOf s.cur.core) g.g.toNat (m.phase + 1) true, some (.bar p d g), s.now⟩, waited := 0 } with
          groups := gs, held := s.held ++ [h], nextId := s.nextId + 1 })) ∧
      (th.barArr ≠ none →
        (phaseLe m.phase gr.reported = false → exec (.bar p d g) s = .next (setThread s s.cur
          { th with park := some ⟨.bwait g.pg (dieOf s.cur.core) g.g.toNat m.phase true, some (.bar p d g), s.now⟩, waited := 0 })) ∧
        (phaseLe m.phase gr.reported = true → ∃ t, exec (.bar p d g) s = .next t ∧ SameMemory s t ∧ SameOthers s t s.cur ∧
          thread? t s.cur = thread? (wrote s { th with barArr := none } d (m.phase.setWidth 64)) s.cur ∧
          (∀ n, d = .k n → kVal s.now (coreAt t s.cur.core).k[n] = m.phase.setWidth 64) ∧
          GroupsWith t.groups s.groups (withCompleted gr th.uid m.phase) ∧
          (clusterAt t (myCluster s)).cache = (clusterAt s (myCluster s)).cache.filter (fun l => l.dirty ≠ 0))))) ∧
  BwaitRule

namespace Sys2Proof.Says

/-- R234, R235, R243: BGRP.JOIN makes the thread a member at the group's minimum phase, 0 in an empty one; a member is unaffected;
a fifth group traps with reason 3 and a full one with reason 4. BGRP.LEAVE removes the thread. -/
def GroupMemberRule : Prop :=
  ∀ (s : State) (th : Thread) (p : Pred) (g : GroupArg), AtTurn s th p →
    let n := (s.groups.filter (fun x => (member? x th.uid).isSome)).length
    (∀ gr m, IsMember s th g gr m → exec (.bgrpJoin p g) s = .next (passed s th)) ∧
    ((∀ gr, myGroup s g = some gr → member? gr th.uid = none) → CanTrap th → 4 ≤ n →
      exec (.bgrpJoin p g) s = .next (trapped s th ⟨0x21, 0, groupWord 0 3 g⟩)) ∧
    (∀ gr, myGroup s g = some gr → member? gr th.uid = none → n < 4 →
      (CanTrap th → 65535 ≤ gr.members.length → exec (.bgrpJoin p g) s = .next (trapped s th ⟨0x21, 0, groupWord 0 4 g⟩)) ∧
      (gr.members.length < 65535 → ∃ gs, exec (.bgrpJoin p g) s = .next { passed s th with groups := gs } ∧
        GroupsWith gs s.groups { gr with members := gr.members ++ [⟨th.uid, groupMin gr, groupMin gr, groupMin gr⟩] })) ∧
    (myGroup s g = none → n < 4 → ∃ gs gr, exec (.bgrpJoin p g) s = .next { passed s th with groups := gs } ∧ gr ∈ gs ∧
      gr.members = [⟨th.uid, 0, 0, 0⟩] ∧ gr.pg = g.pg ∧ gr.g = g.g.toNat ∧ (g.pg = false → gr.die = dieOf s.cur.core)) ∧
    (∀ gr m, IsMember s th g gr m → ∃ t gr', exec (.bgrpLeave p g) s = .next t ∧ SameMemory s t ∧ SameOthers s t s.cur ∧
      thread? t s.cur = some (ended th (succPc th.pc) false) ∧ SameGroup gr' gr ∧
      gr'.members = gr.members.filter (fun x => x.uid ≠ th.uid) ∧ GroupsWith t.groups s.groups gr') ∧
    ((∀ gr, myGroup s g = some gr → member? gr th.uid = none) → exec (.bgrpLeave p g) s = .next (passed s th))

end Sys2Proof.Says

namespace Sys2Proof.Says

/-- A watch entry after the sweep for a minimum m: the records of phase m − 1 are cleared (R282). -/
def swept (m : BitVec 32) (e : BitVec 21) : BitVec 21 :=
  let old : BitVec 2 := (m - 1).setWidth 2
  (if e.extractLsb' 11 2 = old then 0#10 else e.extractLsb' 11 10) ++ (if e.extractLsb' 1 2 = old then 0#11 else e.extractLsb' 0 11)
/-- The entries after a sweep of those that a home holds; an entry of zero is not listed. -/
def sweptEntries (m : BitVec 32) (mine : Nat → Bool) (l : List (Nat × BitVec 21)) : List (Nat × BitVec 21) :=
  (l.map (fun x => if mine x.1 then (x.1, swept m x.2) else x)).filter (fun x => !mine x.1 || x.2 ≠ 0)

end Sys2Proof.Says

/-- R236, R281, R282: an arrival is recorded, and when it raises the minimum its completion is reported 12 or 48 cycles later; in a
watched group it is sent to every home, which sweeps for one minimum after the other: it clears the records of the phase before, a bank
in 4,096 cycles and a channel at 8 of its WT lines a cycle; the swept minimum follows when every home has finished. BGRP.JOIN and
BGRP.LEAVE change the members (R234, R235). In part the model's choice: log 38. -/
def Obligations.BarrierEvents : Prop :=
  GroupMemberRule ∧
  (∀ (s : State) (uid : Nat) (pg : Bool) (die g : Nat) (ph : BitVec 32),
    exec (.barrierArrivalRecord uid pg die g ph) s = .next (later s 0 (.barrierMessage pg die g uid ph))) ∧
  (∀ (s : State) (uid : Nat) (pg : Bool) (die g : Nat) (ph : BitVec 32) (gr : Group) (m : Member),
    findGroup s pg die g = some gr → member? gr uid = some m → phaseLe m.recorded ph = true →
    let gr1 := withMember gr { m with recorded := ph }
    let last := ((gr.reports.getLast?).map Prod.snd).getD gr.reported
    ∃ t gr2, exec (.barrierMessage pg die g uid ph) s = .next t ∧ SameMemory s t ∧ SameThreads s t ∧
      GroupsWith t.groups s.groups gr2 ∧ SameGroup gr2 gr ∧ gr2.members = gr1.members ∧ gr2.reported = gr.reported ∧
      (if groupRec gr1 ≠ last ∧ phaseLe last (groupRec gr1) = true then
        gr2.reports = gr.reports ++ [(s.now + reportTime gr.pg, groupRec gr1)] ∧
        (s.now + reportTime gr.pg, .barrierComplete gr.pg gr.die gr.g) ∈ t.agenda
      else gr2.reports = gr.reports) ∧
      (gr.announced ≠ groupRec gr1 → phaseLe gr.announced (groupRec gr1) = true →
        gr2.announced = groupRec gr1 ∧
        if watchHomes s gr = [] then gr2.swept = groupRec gr1
        else gr2.sweeping = gr.sweeping ++ (List.range (min 4 (groupRec gr1 - gr.announced).toNat)).flatMap (fun i =>
            (watchHomes s gr).map (fun h => (h, gr.announced + 1 + BitVec.ofNat 32 i))) ∧
          ∀ h ∈ watchHomes s gr, (∀ x ∈ gr.sweeping, x.1 ≠ h) →
            (s.now, .watchSweep h gr.pg gr.die gr.g (gr.announced + 1)) ∈ t.agenda)) ∧
  (∀ (s : State) (pg : Bool) (die g : Nat) (gr : Group), findGroup s pg die g = some gr → gr.members ≠ [] →
    ∃ gs, exec (.barrierComplete pg die g) s = .next { s with groups := gs } ∧
      let due := (gr.reports.filter (fun x => x.1 ≤ s.now)).map Prod.snd
      GroupsWith gs s.groups { gr with reported := due.getLastD gr.reported, reports := gr.reports.filter (fun x => s.now < x.1) }) ∧
  (∀ (s : State) (c b : Nat) (pg : Bool) (die g : Nat) (m : BitVec 32),
    exec (.watchSweep (.bank c b) pg die g m) s = .next (later s 4096 (.watchSweepDone (.bank c b) pg die g m))) ∧
  (∀ (s : State) (c : Nat) (pg : Bool) (die g : Nat) (m : BitVec 32),
    exec (.watchSweep (.channel c) pg die g m) s = .next (later s ((wtLines s c + 7) / 8) (.watchSweepDone (.channel c) pg die g m))) ∧
  (∀ (s : State) (h : HomeId) (pg : Bool) (die g : Nat) (m : BitVec 32), (∃ c b, h = .bank c b) ∨ (∃ c, h = .channel c) →
    ∃ t, exec (.watchSweepDone h pg die g m) s = .next t ∧ SameMemory s t ∧ SameThreads s t ∧
      (∀ c b, h = .bank c b → (clusterAt t c).shadow = sweptEntries m (fun k => k / 12288 = b) (clusterAt s c).shadow) ∧
      (∀ c, h = .channel c → t.wtShadow = sweptEntries m (fun k => hbmUnit (k * 8) = c) s.wtShadow) ∧
      ∀ gr, findGroup s pg die g = some gr → gr.members ≠ [] →
        let left := gr.sweeping.filter (· ≠ (h, m))
        GroupsWith t.groups s.groups { gr with sweeping := left, swept := match left with
          | [] => gr.announced
          | x :: _ => x.2 - 1 } ∧
        ∀ m', left.find? (fun x => x.1 = h) = some (h, m') → (s.now, .watchSweep h pg die g m') ∈ t.agenda)

/-- R237, R239, R243: CHBIND binds a channel of the thread to a legal target and traps 0x22 for an illegal one; CHSTAT writes the
binding's kind and target, the words it can read and those its target can accept, each count at most 255. -/
def Obligations.ChannelBindings : Prop :=
  ∀ (s : State) (th : Thread) (p : Pred) (n : Fin 8), AtTurn s th p →
    (∀ kind target, (Instr.chbind p kind (.ch n) target).wf = true →
      let bad : Option Nat := match kind with
        | .none => none
        | .slot => if target = 0 then some 3 else none
        | .nbr =>
          let pos := s.cur.core % 16
          if target = 0 ∧ pos / 4 = 0 ∨ target = 1 ∧ pos % 4 = 3 ∨ target = 2 ∧ pos / 4 = 3 ∨ target = 3 ∧ pos % 4 = 0 then some 1 else none
        | .fifo => if ∃ b ∈ (clusterAt s (myCluster s)).banks.toList, b.mode = .fifo ∧ b.slot = target.toNat then none else some 2
      match bad with
      | some r => CanTrap th → exec (.chbind p kind (.ch n) target) s = .next (trapped s th ⟨0x22, 0, BitVec.ofNat 64 (r * 2 ^ 12 + n)⟩)
      | none => exec (.chbind p kind (.ch n) target) s = .next (passed s { th with ch := th.ch.set n ⟨kind, target⟩ })) ∧
    (∀ d, (Instr.chstat p d (.ch n)).wf = true → viewOf s s.cur th = th → ∃ v : Word,
      exec (.chstat p d (.ch n)) s = .next (wrote s th d v) ∧ v.extractLsb' 24 40 = 0 ∧
      v.extractLsb' 0 3 = (match th.ch[n].kind with | .none => 0 | .slot => 1 | .nbr => 2 | .fifo => 3) ∧
      (th.ch[n].kind ≠ .none → v.extractLsb' 3 5 = th.ch[n].target) ∧
      (∀ q, chQueue s s.cur th n false = some q → v.extractLsb' 8 8 = BitVec.ofNat 8 (min (readyWords s q).length 255)) ∧
      (∀ q, chQueue s s.cur th n true = some q →
        v.extractLsb' 16 8 = BitVec.ofNat 8 (min (chCap q - (chWords s q).length) 255)))

/-! ### Vector instructions (class 5) -/

namespace Sys2Proof.Says

/-- The result of one element: its code, the flags it raises, and whether it met a subnormal in an instruction that forfeits. -/
structure VOut where
  code : Nat
  flags : BitVec 5 := 0
  sub : Bool := false
/-- A vector instruction that writes elements: predicate, scalar operands, destination, mask and .Z, the width and count of the
destination's elements, the mask bit that governs each, and what each becomes where it is active (none: it keeps its value),
from the thread's control registers, its registers as the instruction reads them, and the scalar operand. -/
structure VInst where
  p : Pred
  rs : List Reg
  d : Reg
  m : Fin 8
  z : Bool
  w : Nat
  n : Nat
  bit : Nat → Nat
  el : Thread → Thread → Word → Nat → Option VOut

/-- An element's value by its type, and the code of an integer result, wrapped or saturated (R164). -/
def elemInt (et : ET) (c : Nat) : Int :=
  if (et = .i32 ∨ et = .i16 ∨ et = .i8) ∧ 2 ^ (et.width - 1) ≤ c then c - 2 ^ et.width else c
def intCode (et : ET) (sat : Bool) (x : Int) : Nat :=
  let sg := et = .i32 ∨ et = .i16 ∨ et = .i8
  let lo : Int := if sg then -2 ^ (et.width - 1) else 0
  let hi : Int := if sg then 2 ^ (et.width - 1) - 1 else 2 ^ et.width - 1
  ((if sat then max lo (min hi x) else x) % 2 ^ et.width).toNat
/-- A floating-point result of an instruction that forfeits. -/
def fpElem (f : Fmt) (ops : List Nat) (r : FRes) : VOut := ⟨r.1, r.2, ops.any (isSubnormal f) || isSubnormal f r.1⟩
/-- A + B, A − B or A × B by type (R165). -/
def arithElem (et : ET) (sat : Bool) (rm : RMode) (fp : Fmt → Rnd → Nat → Nat → FRes) (int : Int → Int → Int) (t : Thread)
    (a b : Nat) : VOut :=
  if et.isFp then fpElem (fmtOfET et) [a, b] (fp (fmtOfET et) (modeOf rm t.scr.fctl) a b)
  else { code := intCode et sat (int (elemInt et a) (elemInt et b)) }
/-- Minimum or maximum by type. -/
def minMaxElem (et : ET) (mx : Bool) (a b : Nat) : VOut :=
  if et.isFp then ⟨(fpMinMax (fmtOfET et) mx a b).1, (fpMinMax (fmtOfET et) mx a b).2, false⟩
  else { code := if mx then (if elemInt et a < elemInt et b then b else a) else (if elemInt et b < elemInt et a then b else a) }
/-- The B operand of an element: a vector's, the low bits of a broadcast scalar, or the immediate. -/
def bElem (w : Nat) (v : Thread) (b : VSrc) (x : Word) (e : Nat) : Nat :=
  match b with
  | .vec r => elemOf w (readV v r) e
  | .bs _ => x.toNat % 2 ^ w
  | .imm n => n.toNat
def bRegs : VSrc → List Reg
  | .bs r => [r]
  | _ => []
/-- Element-wise instructions of one type. -/
def elems (p : Pred) (rs : List Reg) (et : ET) (m : Fin 8) (z : Bool) (d : Reg) (el : Thread → Thread → Word → Nat → Option VOut) :
    Option VInst := some ⟨p, rs, d, m, z, et.width, et.count, id, el⟩
def two (p : Pred) (et : ET) (vm : VMod) (d a : Reg) (b : VSrc) (f : Thread → Nat → Nat → VOut) : Option VInst :=
  elems p (bRegs b) et vm.m vm.z d fun t v x e => some (f t (elemOf et.width (readV v a) e) (bElem et.width v b x e))
def one (p : Pred) (et : ET) (vm : VMod) (d a : Reg) (f : Thread → Nat → VOut) : Option VInst :=
  elems p [] et vm.m vm.z d fun t v _ e => some (f t (elemOf et.width (readV v a) e))
/-- The element of A that VCVT converts into element e of D, of widths sw and dw, with part h (R167). -/
def cvtFrom (dw sw h e : Nat) : Option Nat :=
  if dw = sw then some e
  else if sw < dw then some (e * (dw / sw) + h)
  else if e % (sw / dw) = h then some (e / (sw / dw)) else none
/-- Sow(K, T, S, X(e), P, D) of a thread and a descriptor (R174). -/
def sowOf (t : Thread) (k : SowDesc) (e : Nat) (p d : BitVec 8) : BitVec 32 :=
  sow t.scr.seed k.t (t.scr.step.setWidth 32) (BitVec.ofNat 48 (k.x0.toNat + e * k.step.toNat)) p d

/-- The vector instructions that write elements of a vector register (R165-R170, R174-R177, R180). -/
def vRow : Instr → Option VInst
  | .vadd p et sat vm d a b => two p et vm d a b (arithElem et sat vm.rm fpAdd (· + ·))
  | .vsub p et sat vm d a b => two p et vm d a b (arithElem et sat vm.rm fpSub (· - ·))
  | .vmul p et sat vm d a b => two p et vm d a b (arithElem et sat vm.rm fpMul (· * ·))
  | .vfma p et vm d a b c => elems p (bRegs b) et vm.m vm.z d fun t v x e =>
      let l := elemOf et.width (readV v a) e
      let r := bElem et.width v b x e
      let z := elemOf et.width (readV v c) e
      some (fpElem (fmtOfET et) [l, r, z] (fpFma (fmtOfET et) (modeOf vm.rm t.scr.fctl) l r z))
  | .vmin p et vm d a b => two p et vm d a b fun _ => minMaxElem et false
  | .vmax p et vm d a b => two p et vm d a b fun _ => minMaxElem et true
  | .vabs p et sat vm d a => one p et vm d a fun _ x =>
      { code := if et.isFp then fpAbs (fmtOfET et) x else intCode et sat (elemInt et x).natAbs }
  | .vneg p et sat vm d a => one p et vm d a fun _ x =>
      { code := if et.isFp then fpNeg (fmtOfET et) x else intCode et sat (-elemInt et x) }
  | .vand p et vm d a b => two p et vm d a b fun _ x y => { code := Nat.land x y }
  | .vor p et vm d a b => two p et vm d a b fun _ x y => { code := Nat.lor x y }
  | .vxor p et vm d a b => two p et vm d a b fun _ x y => { code := Nat.xor x y }
  | .vshl p et vm d a b => two p et vm d a b fun _ x y => { code := x * 2 ^ (y % et.width) % 2 ^ et.width }
  | .vshr p et vm d a b => two p et vm d a b fun _ x y => { code := x / 2 ^ (y % et.width) }
  | .vsra p et vm d a b => two p et vm d a b fun _ x y =>
      let sg : Int := if 2 ^ (et.width - 1) ≤ x then x - 2 ^ et.width else x
      { code := (sg / 2 ^ (y % et.width) % 2 ^ et.width).toNat }
  | .vsel p et vm d a b c => elems p [] et vm.m vm.z d fun _ v _ e =>
      let sel := match c with
        | .m n => maskOf v n
        | _ => 0
      some { code := elemOf et.width (readV v (if sel.getLsbD e then a else b)) e }
  | .vcvt p dst src vm d a h => elems p [] dst vm.m vm.z d fun t v _ e => (cvtFrom dst.width src.width h.toNat e).map fun j =>
      let x := elemOf src.width (readV v a) j
      let r := fpConvert (fmtOfET dst) (fmtOfET src) (modeOf vm.rm t.scr.fctl) x 0
      ⟨r.1, r.2, isSubnormal (fmtOfET src) x || isSubnormal (fmtOfET dst) r.1⟩
  | .vshuf p mode et vm d a => elems p [] et vm.m vm.z d fun _ v _ e =>
      let j := match mode with
        | .idx b => elemOf et.width (readV v b) e % et.count
        | .rot r => (e + r.toNat) % et.count
        | .xor x => Nat.xor e x.toNat
      some { code := elemOf et.width (readV v a) j }
  | .vbcast p et vm d a => elems p [a] et vm.m vm.z d fun _ _ x _ => some { code := x.toNat % 2 ^ et.width }
  | .vrcp p et vm d a => one p et vm d a fun t x => fpElem (fmtOfET et) [x] (fpFun (fmtOfET et) .rcp (modeOf vm.rm t.scr.fctl) x)
  | .vrsq p et vm d a => one p et vm d a fun t x => fpElem (fmtOfET et) [x] (fpFun (fmtOfET et) .rsq (modeOf vm.rm t.scr.fctl) x)
  | .vexp2 p et vm d a => one p et vm d a fun t x => fpElem (fmtOfET et) [x] (fpFun (fmtOfET et) .exp2 (modeOf vm.rm t.scr.fctl) x)
  | .vlog2 p et vm d a => one p et vm d a fun t x => fpElem (fmtOfET et) [x] (fpFun (fmtOfET et) .log2 (modeOf vm.rm t.scr.fctl) x)
  | .vrng p vm d a => elems p [] .u32 vm.m vm.z d fun t v _ e => (sowDesc (readV v a) true).map fun k =>
      { code := (sowOf t k e k.purp k.draw).toNat }
  | .vsr p et vm d a b h => some ⟨p, [], d, vm.m, vm.z, 16, 32, (· / 2), fun t v _ e =>
      if e % 2 = (if h then 1 else 0) then (sowDesc (readV v b) false).map fun k =>
        let x := elemOf 32 (readV v a) (e / 2)
        let r := roundTo (fmtOfET et) .sr (valueOf fmtF32 x) ((sowOf t k (e / 2) 3 0).extractLsb' 16 16).toNat
        ⟨r.1, r.2, isSubnormal fmtF32 x || isSubnormal (fmtOfET et) r.1⟩
      else none⟩
  | .vdrop p et vm d a b c q => elems p [c] et vm.m vm.z d fun t v s e => (sowDesc (readV v b) false).map fun k =>
      if ((sowOf t k e 2 0).extractLsb' 16 16).toNat < q.toNat then { code := 0 }
      else
        let x := elemOf et.width (readV v a) e
        let sc := s.toNat % 2 ^ 32
        let r := finish (fmtOfET et) (modeOf vm.rm t.scr.fctl) (mulVal (valueOf (fmtOfET et) x) (valueOf fmtF32 sc))
        ⟨r.1, r.2, isSubnormal (fmtOfET et) x || isSubnormal fmtF32 sc || isSubnormal (fmtOfET et) r.1⟩
  | .vdeq p n vm d a h => elems p [] .f32 vm.m vm.z d fun t v _ l =>
      let f := fmtOfReg v.fmt[n]
      let e := (if h then 16 else 0) + l
      let sc := if f.scale = 0 then 127 else if f.scale = 1 then elemOf 8 (readV v a) 63 else elemOf 8 (readV v a) (62 + e / 16)
      let x := valueOf f (elemOf (containerOf f) (readV v a) e % 2 ^ fmtWidth f)
      let r := roundTo fmtF32 (modeOf vm.rm t.scr.fctl) (scaleVal x ((sc : Int) - 127)) 0
      some (if sc = 255 || isNan x then { code := nanCode fmtF32 } else ⟨r.1, r.2, false⟩)
  | _ => none
/-- The reason for which a well-formed vector instruction is illegal on its operands: a sow descriptor that breaks R174, or a
format narrower than 2 bits (R178). -/
def vIllegal (v : Thread) : Instr → Option Nat
  | .vrng _ _ _ a => if (sowDesc (readV v a) true).isNone then some 1 else none
  | .vsr _ _ _ _ _ b _ => if (sowDesc (readV v b) false).isNone then some 1 else none
  | .vdrop _ _ _ _ _ b _ _ => if (sowDesc (readV v b) false).isNone then some 1 else none
  | .vdeq _ n _ _ _ _ => if fmtWidth (fmtOfReg v.fmt[n]) < 2 then some 2 else none
  | .vquant _ n vm _ _ _ c => if fmtWidth (fmtOfReg v.fmt[n]) < 2 then some 2
      else if vm.rm = .sr ∧ (sowDesc (readV v c) false).isNone then some 1 else none
  | _ => none
/-- The element results that count: those of active elements that are written. -/
def outs (s : State) (th : Thread) (a : VInst) (x : Word) : List (Nat × VOut) :=
  (List.range a.n).filterMap fun e => if (maskOf (viewOf s s.cur th) a.m).getLsbD (a.bit e) then
    (a.el th (viewOf s s.cur th) x e).map (fun o => (a.bit e, o)) else none
/-- The flags of all of them, and whether one forfeits. -/
def outFlags (l : List (Nat × VOut)) : BitVec 5 := l.foldl (fun f x => f ||| x.2.flags) 0
def outSub (l : List (Nat × VOut)) : Bool := l.any (fun x => x.2.sub)

end Sys2Proof.Says

/-- R162-R170, R174-R177, R180: the vector instructions that write elements. Active elements become their results, the others keep
their value or become 0 under .Z; all flags are ORed into scr.fflags. An enabled exception writes nothing and traps 0x30 with
the lowest element that raised one; an illegal operand traps 0x01. In part the model's choice: logs 41, 42 and 46. -/
def Obligations.VectorElements : Prop :=
  ∀ (i : Instr) (a : VInst), vRow i = some a → i.wf = true → ∀ (s : State) (th : Thread), AtTurn s th a.p →
    CanUse s th i a.rs none →
    let v := viewOf s s.cur th
    let x := val s th a.rs 0
    let l := outs s th a x
    match vIllegal v i with
    | some r => CanTrap th → exec i s = .next (trapped s th ⟨0x01, 0, BitVec.ofNat 64 (opOf i + r * 2 ^ 10)⟩)
    | none =>
      (enabled th (outFlags l) = 0 → ∃ r : Line,
        exec i s = .next (passed (popped s th a.rs) (writeV (flagged th ⟨0, outFlags l, outSub l⟩) a.d r)) ∧
        ∀ e < a.n, elemOf a.w r e = match a.el th v x e with
          | none => elemOf a.w (readV v a.d) e
          | some o => if (maskOf v a.m).getLsbD (a.bit e) then o.code % 2 ^ a.w else if a.z then 0 else elemOf a.w (readV v a.d) e) ∧
      (CanTrap th → ∀ k o, (k, o) ∈ l → enabled th o.flags ≠ 0 → (∀ k' o', (k', o') ∈ l → enabled th o'.flags ≠ 0 → k ≤ k') →
        exec i s = .next (trapped s (flagged th ⟨0, outFlags l, outSub l⟩)
          ⟨0x30, 0, BitVec.ofNat 64 ((enabled th (outFlags l)).toNat + k * 2 ^ 8)⟩))

namespace Sys2Proof.Says

/-- What a subtree of VRED gives: its value, the flags of its nodes, its lowest active element, the lowest active element under a
node that raised an enabled exception, and whether a subnormal was met (R171). -/
structure RedOut where
  code : Nat
  flags : BitVec 5
  low : Option Nat
  bad : Option Nat
  sub : Bool
/-- The lower of two element numbers, where there are any. -/
def lowest : Option Nat → Option Nat → Option Nat
  | some x, some y => some (if y < x then y else x)
  | some x, none => some x
  | none, y => y
/-- The subtree of level k at position i: elements i·2^k to (i+1)·2^k − 1, neighbours combined, left operand first (R171). -/
def redNode (f : Nat → Nat → FRes) (en : BitVec 5 → Bool) (isSub : Nat → Bool) (leaf : Nat → Nat × Bool) : Nat → Nat → RedOut
  | 0, i => ⟨(leaf i).1, 0, if (leaf i).2 then some i else none, none, (leaf i).2 && isSub (leaf i).1⟩
  | k + 1, i =>
    let a := redNode f en isSub leaf k (2 * i)
    let b := redNode f en isSub leaf k (2 * i + 1)
    let r := f a.code b.code
    let l := lowest a.low b.low
    ⟨r.1, a.flags ||| b.flags ||| r.2, l, lowest (lowest a.bad b.bad) (if en r.2 then l else none), a.sub || b.sub || (l.isSome && isSub r.1)⟩
/-- One node's operation and the value of an inactive element (R171). -/
def redStep (op : VRedOp) (et : ET) (sat : Bool) (mode : Rnd) (a b : Nat) : FRes :=
  match op with
  | .add => if et.isFp then fpAdd (fmtOfET et) mode a b else (intCode et sat (elemInt et a + elemInt et b), 0)
  | .min => if et.isFp then fpMinMax (fmtOfET et) false a b else (if elemInt et b < elemInt et a then b else a, 0)
  | .max => if et.isFp then fpMinMax (fmtOfET et) true a b else (if elemInt et a < elemInt et b then b else a, 0)
  | .and => (Nat.land a b, 0)
  | .or => (Nat.lor a b, 0)
  | .xor => (Nat.xor a b, 0)
def redUnit (op : VRedOp) (et : ET) : Nat :=
  let sg := et = .i32 ∨ et = .i16 ∨ et = .i8
  match op with
  | .add => if et.isFp then 2 ^ (et.width - 1) else 0
  | .min => if et.isFp then (match et with | .f32 => 0x7F800000 | .bf16 => 0x7F80 | _ => 0x7C00)
      else if sg then 2 ^ (et.width - 1) - 1 else 2 ^ et.width - 1
  | .max => if et.isFp then (match et with | .f32 => 0xFF800000 | .bf16 => 0xFF80 | _ => 0xFC00)
      else if sg then 2 ^ (et.width - 1) else 0
  | .and => 2 ^ et.width - 1
  | .or | .xor => 0
/-- The levels of VRED's tree: 4 for 16 elements, 5 for 32, 6 for 64. -/
def redLevels (et : ET) : Nat := if et.count = 16 then 4 else if et.count = 32 then 5 else 6
/-- VCMP's outcome and flags for two elements (R166). -/
def cmpElem (et : ET) (cc : VCond) (a b : Nat) : Bool × BitVec 5 :=
  if et.isFp then
    match cc with
    | .eq => fpCmp (fmtOfET et) .eq a b
    | .ne => fpCmp (fmtOfET et) .ne a b
    | .lt => fpCmp (fmtOfET et) .lt a b
    | .le => fpCmp (fmtOfET et) .le a b
    | .gt => fpCmp (fmtOfET et) .lt b a
    | .ge => fpCmp (fmtOfET et) .le b a
    | .un => fpCmp (fmtOfET et) .un a b
  else
    let x := elemInt et a
    let y := elemInt et b
    (match cc with
      | .eq => decide (x = y) | .ne => decide (x ≠ y) | .lt => decide (x < y) | .le => decide (x ≤ y)
      | .gt => decide (x > y) | .ge => decide (x ≥ y) | .un => false, 0)
/-- A quantised block: the group of each element, its scale exponent (none for NaN), and each element's code and flags (R178). -/
def quantGroup (f : Fmt) (e : Nat) : Nat := if f.scale = 2 then e / 16 else 0
def quantVal (v : Thread) (a b : Reg) (e : Nat) : Val := valueOf fmtF32 (elemOf 32 (readV v (if e < 16 then a else b)) (e % 16))
def quantScale (v : Thread) (f : Fmt) (m : Fin 8) (a b : Reg) (g : Nat) : Option Int :=
  groupScale f (((List.range 32).filter (fun e => quantGroup f e = g && (maskOf v m).getLsbD e)).map (quantVal v a b))
def quantOut (t v : Thread) (f : Fmt) (vm : VMod) (a b : Reg) (k : SowDesc) (e : Nat) : FRes :=
  match quantScale v f vm.m a b (quantGroup f e) with
  | some x => if (maskOf v vm.m).getLsbD e then
      roundTo f (modeOf vm.rm t.scr.fctl) (scaleVal (quantVal v a b e) (-x)) ((sowOf t k e 3 0).extractLsb' 16 16).toNat
    else (0, 0)
  | none => (0, 0)
/-- A scale's byte (R179). -/
def scaleByte : Option Int → Byte
  | some x => BitVec.ofInt 8 (x + 127)
  | none => 0xFF

end Sys2Proof.Says

/-- R166, R168, R171, R178, R179: VCMP writes its mask, VINS and VEXT one element, VRED the root of its fixed tree, VQUANT its block;
flags and enabled exceptions as for the other vector instructions. -/
def Obligations.VectorOthers : Prop :=
  (∀ (s : State) (th : Thread) (p : Pred) (cc : VCond) (et : ET) (vm : VMod) (d a : Reg) (b : VSrc),
    (Instr.vcmp p cc et vm d a b).wf = true → AtTurn s th p → CanUse s th (.vcmp p cc et vm d a b) (bRegs b) none →
    let v := viewOf s s.cur th
    let out (e : Nat) : Bool × BitVec 5 := cmpElem et cc (elemOf et.width (readV v a) e) (bElem et.width v b (val s th (bRegs b) 0) e)
    let act (e : Nat) : Bool := (maskOf v vm.m).getLsbD e
    let fl := ((List.range et.count).filter act).foldl (fun f e => f ||| (out e).2) 0
    (enabled th fl = 0 → ∃ r : Word, exec (.vcmp p cc et vm d a b) s =
        .next (passed (popped s th (bRegs b)) (writeOwn (flagged th ⟨0, fl, false⟩) d r)) ∧
      ∀ e < 64, r.getLsbD e = (decide (e < et.count) && act e && (out e).1)) ∧
    (enabled th fl ≠ 0 → CanTrap th → ∃ k < et.count, act k = true ∧ enabled th (out k).2 ≠ 0 ∧
      (∀ j < k, act j = true → enabled th (out j).2 = 0) ∧ exec (.vcmp p cc et vm d a b) s =
        .next (trapped s (flagged th ⟨0, fl, false⟩) ⟨0x30, 0, BitVec.ofNat 64 ((enabled th fl).toNat + k * 2 ^ 8)⟩))) ∧
  (∀ (s : State) (th : Thread) (p : Pred) (et : ET) (d a : Reg) (n : BitVec 16), (Instr.vins p et d a n).wf = true → AtTurn s th p →
    CanUse s th (.vins p et d a n) [a] none →
    let v := viewOf s s.cur th
    ∃ r : Line, exec (.vins p et d a n) s = .next (passed (popped s th [a]) (writeV th d r)) ∧
      ∀ e < et.count, elemOf et.width r e =
        if e = n.toNat then (val s th [a] 0).toNat % 2 ^ et.width else elemOf et.width (readV v d) e) ∧
  (∀ (s : State) (th : Thread) (p : Pred) (et : ET) (d a : Reg) (n : BitVec 16), (Instr.vext p et d a n).wf = true → AtTurn s th p →
    CanUse s th (.vext p et d a n) [] (some d) →
    let x := elemOf et.width (readV (viewOf s s.cur th) a) n.toNat
    exec (.vext p et d a n) s = .next (wrote s th d (BitVec.ofInt 64 (elemInt et x)))) ∧
  (∀ (s : State) (th : Thread) (p : Pred) (op : VRedOp) (et : ET) (sat : Bool) (vm : VMod) (d a : Reg),
    (Instr.vred p op et sat vm d a).wf = true → AtTurn s th p →
    let v := viewOf s s.cur th
    let norm := et.isFp && op = .add
    let o := redNode (redStep op et sat (modeOf vm.rm th.scr.fctl)) (fun f => enabled th f != 0)
      (fun c => norm && isSubnormal (fmtOfET et) c)
      (fun e => if (maskOf v vm.m).getLsbD e then (elemOf et.width (readV v a) e, true) else (redUnit op et, false)) (redLevels et) 0
    if enabled th o.flags = 0 then
      exec (.vred p op et sat vm d a) s =
        .next (passed s (writeV (flagged th ⟨0, o.flags, o.sub⟩) d (BitVec.ofNat 512 (o.code % 2 ^ et.width))))
    else CanTrap th → exec (.vred p op et sat vm d a) s =
        .next (trapped s (flagged th ⟨0, o.flags, o.sub⟩)
          ⟨0x30, 0, BitVec.ofNat 64 ((enabled th o.flags).toNat + o.bad.getD 0 * 2 ^ 8)⟩)) ∧
  (∀ (s : State) (th : Thread) (p : Pred) (n : Fin 8) (vm : VMod) (d a b c : Reg), (Instr.vquant p n vm d a b c).wf = true →
    AtTurn s th p →
    let v := viewOf s s.cur th
    let f := fmtOfReg v.fmt[n]
    (∀ r, vIllegal v (.vquant p n vm d a b c) = some r → CanTrap th →
      exec (.vquant p n vm d a b c) s = .next (trapped s th ⟨0x01, 0, BitVec.ofNat 64 (0x2A0 + r * 2 ^ 10)⟩)) ∧
    (vIllegal v (.vquant p n vm d a b c) = none → ∀ k : SowDesc, (vm.rm = .sr → sowDesc (readV v c) false = some k) →
      let code := quantOut th v f vm a b k
      let fl := (List.range 32).foldl (fun x e => x ||| (code e).2) 0
      let cw := containerOf f
      (enabled th fl = 0 → ∃ r : Line,
        exec (.vquant p n vm d a b c) s = .next (passed s (writeV (flagged th ⟨0, fl, false⟩) d r)) ∧
        (∀ e < 32, elemOf cw r e = (code e).1 % 2 ^ cw) ∧ (∀ j, 32 * cw ≤ j → j < 496 → r.getLsbD j = false) ∧
        r.extractLsb' 496 8 = (if f.scale = 2 then scaleByte (quantScale v f vm.m a b 0) else 0) ∧
        r.extractLsb' 504 8 = (if f.scale = 1 then scaleByte (quantScale v f vm.m a b 0)
          else if f.scale = 2 then scaleByte (quantScale v f vm.m a b 1) else 0)) ∧
      (enabled th fl ≠ 0 → CanTrap th → ∃ e < 32, enabled th (code e).2 ≠ 0 ∧ (∀ j < e, enabled th (code j).2 = 0) ∧
        exec (.vquant p n vm d a b c) s = .next (trapped s (flagged th ⟨0, fl, false⟩)
          ⟨0x30, 0, BitVec.ofNat 64 ((enabled th fl).toNat + e * 2 ^ 8)⟩))))

/-! ### The matrix engine: issue (class 6) -/

namespace Sys2Proof.Says

def tileNo : Reg → Nat
  | .acc n => n
  | _ => 0
/-- The mask of an optional mask operand, which is operand `n`; without it every bit is set (R110). -/
def maskVal (s : State) (th : Thread) (rs : List Reg) (mask : Option Reg) (n : Nat) : Word :=
  if mask = none then BitVec.allOnes 64 else val s th rs n
/-- The reserved bits of an operand descriptor are zero (R111): the scale fields belong to MX, and a B side has no scale stride. -/
def operandDesc (ty : MmaType) (b : Bool) (d : Line) : Prop :=
  ∀ n < 16, (laneOf d n).toNat < if n < 2 ∨ ty = .mx ∧ (n = 2 ∨ n = 3 ∧ b = false) then 2 ^ 22 else 1
/-- The reserved bits of a store descriptor are zero (R125): the sowing fields belong to ACCST.SR. -/
def storeDesc (sr : Bool) (d : Line) : Prop :=
  ∀ n < 16, (laneOf d n).toNat < if n < 2 then 2 ^ 22 else if sr ∧ (n = 2 ∨ n = 3 ∨ n = 5) then 2 ^ 32
    else if sr ∧ n = 4 then 2 ^ 16 else 1

/-- A use of the engine: predicate, scalar operands, the operation that its entry captures, whether its descriptors are legal and
its format values usable, and the operand values that it holds while it waits. -/
structure EngUse where
  p : Pred
  rs : List Reg
  op : EngOp
  descOk : Prop
  fmtOk : Prop
  held : Option (List Word)

/-- The format value that an MX instruction captures; another type captures none. -/
def fmtFor (s : State) (th : Thread) (ty : MmaType) (n : Fin 8) : BitVec 32 := if ty = .mx then (viewOf s s.cur th).fmt[n] else 0
def usable (ty : MmaType) (r : BitVec 32) : Prop := ty = .mx → 2 ≤ fmtWidth (fmtOfReg r)
def mmaUse (s : State) (th : Thread) (p : Pred) (o : MmaArg) (e : Option Reg) : EngUse :=
  let v := viewOf s s.cur th
  ⟨p, o.mask.toList, .mma (e.map (readV v)) o (tileNo o.d) (fmtFor s th o.ty o.fa) (fmtFor s th o.ty o.fb) (readV v o.a) (readV v o.b)
      (maskVal s th o.mask.toList o.mask 0),
    (o.keepA = false → operandDesc o.ty false (readV v o.a)) ∧ (o.keepB = false → operandDesc o.ty true (readV v o.b)),
    usable o.ty (fmtFor s th o.ty o.fa) ∧ usable o.ty (fmtFor s th o.ty o.fb), some (takeOps s th o.mask.toList).2⟩
/-- The instructions that park until their entry is done (R64, R118, R123, R124, R352). -/
def waitRow (s : State) (th : Thread) : Instr → Option EngUse
  | .mma p o => some (mmaUse s th p o none)
  | .mmag p o e => some (mmaUse s th p o (some e))
  | .latch p ty b l1 f a mask =>
    some ⟨p, mask.toList, .latch b l1 ty (fmtFor s th ty f) (readV (viewOf s s.cur th) a) (maskVal s th mask.toList mask 0),
      operandDesc ty b (readV (viewOf s s.cur th) a), usable ty (fmtFor s th ty f), some (takeOps s th mask.toList).2⟩
  | .accz p d floor => some ⟨p, [], .accz (tileNo d) floor, True, True, none⟩
  | .accmv p d a => some ⟨p, [], .accmv (tileNo d) (tileNo a), True, True, none⟩
  | .accadd p d a => some ⟨p, [], .accadd (tileNo d) (tileNo a), True, True, none⟩
  | .digestT p d b => some ⟨p, [], .digest d (tileNo b), True, True, none⟩
  | _ => none
/-- DIGEST.T issues again once its entry is done. -/
def digests : Instr → Bool
  | .digestT .. => true
  | _ => false
/-- ACCST and ACCLD, with their type and descriptor. -/
def cellRow (s : State) (th : Thread) : Instr → Option (EngUse × AccType × Line × Word)
  | .accst p ty rm fr a b mask =>
    let v := viewOf s s.cur th
    let m := maskVal s th mask.toList mask 0
    some (⟨p, mask.toList, .accst ty rm v.fmt[fr] (readV v a) (tileNo b) m th.scr.seed th.scr.step, storeDesc (rm = .sr) (readV v a),
      ty = .fmt → 2 ≤ fmtWidth (fmtOfReg v.fmt[fr]) ∧ (fmtOfReg v.fmt[fr]).scale = 0, some (takeOps s th mask.toList).2⟩, ty, readV v a, m)
  | .accld p ty d a mask =>
    let v := viewOf s s.cur th
    let m := maskVal s th mask.toList mask 0
    some (⟨p, mask.toList, .accld ty (tileNo d) (readV v a) m, storeDesc false (readV v a), True, some (takeOps s th mask.toList).2⟩,
      ty, readV v a, m)
  | _ => none

/-- The size of a stored cell, its near offset, and the selected cells (R110, R125). -/
def cellBytes : AccType → Nat
  | .raw => 32 | .f32 => 4 | .f16 => 2 | .bf16 => 2 | .fmt => 1
def cellOffset (ty : AccType) (d : Line) (c : Nat) : Nat :=
  (laneOf d 0).toNat + c / 16 * (laneOf d 1).toNat + c % 16 * cellBytes ty
def Selected (m : Word) (c : Nat) : Prop := c < 256 ∧ m.getLsbD (c / 16) = true ∧ m.getLsbD (16 + c % 16) = true
/-- A byte of a selected cell. -/
def CellByte (ty : AccType) (d : Line) (m : Word) (a : Nat) : Prop :=
  ∃ c, Selected m c ∧ cellOffset ty d c ≤ a ∧ a < cellOffset ty d c + cellBytes ty
/-- The trap of a near byte that R250 refuses to the engine. -/
def engineTrap (s : State) (op a : Nat) : Option TrapInfo :=
  (nearFault (clusterAt s (myCluster s)) a .engine).map (fun x => info14 a x.2 (a / 2 ^ 17 % 32) x.1 op)

/-- The entry of an operation, as it stands in the queue (R64). -/
def entryFor (s : State) (th : Thread) (op : EngOp) : EngEntry :=
  { id := s.nextId, t := s.cur, uid := th.uid, op := op, issued := s.now, fov := th.scr.fctl.getLsbD 8, launch := th.launch
    fillA := none, fillB := none, fault := none, beats := [], flags := 0, msgs := [], nextInj := 0, value := 0, started := none
    undoTiles := [], undoLatches := [] }
/-- The state with an entry behind the others of the current core's queue. -/
def queued (s : State) (e : EngEntry) : State :=
  let c := coreAt s s.cur.core
  setCore { s with nextId := s.nextId + 1 } s.cur.core { c with engine := { c.engine with queue := c.engine.queue ++ [e] } }
/-- Requests of the entry `id` alone have joined the bank ports of the current core's cluster: each stands at the core's own port, by
its issue, and is not presented yet (R117). -/
def Placed (s t : State) (id : Nat) : Prop :=
  t = s ∨ ∃ ps, t = setCluster s (myCluster s) { clusterAt s (myCluster s) with ports := ps } ∧
    ps.filter (fun r => actEntry r.act != some id) = (clusterAt s (myCluster s)).ports.filter (fun r => actEntry r.act != some id) ∧
    ∀ r ∈ ps, actEntry r.act = some id → r ∈ (clusterAt s (myCluster s)).ports ∨ (r.at_ = none ∧ r.port = posOf s.cur.core ∧ r.issued = s.now)
/-- An operation that reaches near memory; it joins the queue behind the near accesses that its thread must see first (R117, R268). -/
def reachesNear : EngOp → Prop
  | .mma _ o _ _ _ _ _ _ => o.keepA = false ∨ o.keepB = false
  | .latch .. => True
  | .accst _ _ _ _ _ m _ _ => ∃ c, c < 256 ∧ m.getLsbD (c / 16) = true ∧ m.getLsbD (16 + c % 16) = true
  | .accld _ _ _ m => ∃ c, c < 256 ∧ m.getLsbD (c / 16) = true ∧ m.getLsbD (16 + c % 16) = true
  | _ => False
/-- It waits for these first; the operation waits for none. -/
def Awaits (s : State) (th : Thread) (op : EngOp) : Prop := reachesNear op ∧ engineBlockers s th.uid ≠ []
/-- The current thread parked until the accesses that the operation awaits are done. -/
def accessWait (s : State) (th th1 : Thread) (u : EngUse) (i : Instr) : State :=
  setThread s s.cur { th1 with latch := u.held, park := some ⟨.opsDone (engineBlockers s th.uid), some i, s.now⟩, waited := 0 }
/-- The current core's engine queue holds eight entries. -/
def QueueFull (s : State) : Prop := 8 ≤ (coreAt s s.cur.core).engine.queue.length
/-- The current thread parked while the queue is full. -/
def queueWait (s : State) (th1 : Thread) (u : EngUse) (i : Instr) : State :=
  setThread s s.cur { th1 with latch := u.held, park := some ⟨.engineQueue, some i, s.now⟩, waited := 0 }

end Sys2Proof.Says

/-- R55, R64, R111, R117, R118, R125, R131, R182, R352: a matrix instruction with an illegal descriptor or an unusable format value traps
0x01; one that reaches near memory parks behind accesses that its thread must see first, and any with eight
entries in its core's queue parks; else its operation, with the operands it captured, joins the queue. MMA, MMAG, LATCH,
ACCZ, ACCMV, ACCADD and DIGEST.T then park until their entry is done; ACCST and ACCLD end with tl raised, or trap at
issue on their address; FRSEND ends with st raised and sends once the thread's earlier accesses and the cluster's dirty lines are home.
In part the model's choice: logs 14 and 45. -/
def Obligations.MatrixIssue : Prop :=
  (∀ (s : State) (th : Thread) (i : Instr) (u : EngUse), waitRow s th i = some u → AtTurn s th u.p → CanUse s th i u.rs none →
    ∃ th1, thread? (popped s th u.rs) s.cur = some th1 ∧
    (CanTrap th → ¬ u.descOk → exec i s = .next (trapped s th ⟨0x01, 0, BitVec.ofNat 64 (opOf i + 1024)⟩)) ∧
    (CanTrap th → u.descOk → ¬ u.fmtOk → exec i s = .next (trapped s th ⟨0x01, 0, BitVec.ofNat 64 (opOf i + 2048)⟩)) ∧
    (u.descOk → u.fmtOk → Awaits s th u.op → exec i s = .next (accessWait (popped s th u.rs) th th1 u i)) ∧
    (u.descOk → u.fmtOk → ¬ Awaits s th u.op → QueueFull s → exec i s = .next (queueWait (popped s th u.rs) th1 u i)) ∧
    (u.descOk → u.fmtOk → ¬ Awaits s th u.op → ¬ QueueFull s →
      ∃ t, Placed (queued (popped s th u.rs) (entryFor s th u.op)) t s.nextId ∧ exec i s = .next (setThread t s.cur
        { th1 with latch := u.held, waited := 0
                   park := some ⟨.engine s.nextId, if digests i then some i else none, s.now⟩ }))) ∧
  (∀ (s : State) (th : Thread) (i : Instr) (u : EngUse) (ty : AccType) (d : Line) (m : Word), cellRow s th i = some (u, ty, d, m) →
    AtTurn s th u.p → CanUse s th i u.rs none →
    ∃ th1, thread? (popped s th u.rs) s.cur = some th1 ∧
    let z := min (cellBytes ty) 8
    let base := (laneOf d 0).toNat
    let step := (laneOf d 1).toNat
    (CanTrap th → ¬ u.descOk → exec i s = .next (trapped s th ⟨0x01, 0, BitVec.ofNat 64 (opOf i + 1024)⟩)) ∧
    (CanTrap th → u.descOk → ¬ u.fmtOk → exec i s = .next (trapped s th ⟨0x01, 0, BitVec.ofNat 64 (opOf i + 2048)⟩)) ∧
    (u.descOk → u.fmtOk →
      (CanTrap th → base % z ≠ 0 → exec i s = .next (trapped s th ⟨0x13, BitVec.ofNat 64 base, BitVec.ofNat 64 z⟩)) ∧
      (CanTrap th → base % z = 0 → step % z ≠ 0 →
        exec i s = .next (trapped s th ⟨0x13, BitVec.ofNat 64 (base + step), BitVec.ofNat 64 z⟩)) ∧
      (CanTrap th → base % z = 0 → step % z = 0 → ∀ a ti, CellByte ty d m a → engineTrap s (opOf i) a = some ti →
        (∀ a' < a, CellByte ty d m a' → engineTrap s (opOf i) a' = none) → exec i s = .next (trapped s th ti)) ∧
      (base % z = 0 → step % z = 0 → (∀ a, CellByte ty d m a → engineTrap s (opOf i) a = none) →
        (Awaits s th u.op → exec i s = .next (accessWait (popped s th u.rs) th th1 u i)) ∧
        (¬ Awaits s th u.op → QueueFull s → exec i s = .next (queueWait (popped s th u.rs) th1 u i)) ∧
        (¬ Awaits s th u.op → ¬ QueueFull s → ∃ t, exec i s = .next t ∧
          thread? t s.cur = some (ended { th1 with tl := th1.tl + 1 } (succPc th.pc) false) ∧
          (coreAt t s.cur.core).engine = (coreAt (queued (popped s th u.rs) (entryFor s th u.op)) s.cur.core).engine ∧
          (∃ o, t.ops = s.ops ++ [o] ∧ o.id = s.nextId ∧ o.uid = th.uid ∧ o.kind = .tl) ∧
          SameMemory s t ∧ SameOthers s t s.cur ∧ t.agenda = (popped s th u.rs).agenda)))) ∧
  (∀ (s : State) (th : Thread) (p : Pred) (a b : Reg) (tag : BitVec 8) (mask : Option Reg), AtTurn s th p →
    CanUse s th (.frsend p a b tag mask) (a :: mask.toList) none →
    let rs := a :: mask.toList
    let dest := val s th rs 0
    let op := EngOp.frsend dest (tileNo b) tag (maskVal s th rs mask 1) 0
    (CanTrap th → 2048 ≤ dest.toNat → exec (.frsend p a b tag mask) s = .next (trapped s th ⟨0x11, dest, 0x30A <<< 18⟩)) ∧
    (dest.toNat < 2048 → ¬ QueueFull s → ∃ t h th1, exec (.frsend p a b tag mask) s = .next t ∧
      thread? (popped s th rs) s.cur = some th1 ∧
      thread? t s.cur = some (ended { th1 with st := th1.st + 1 } (succPc th.pc) false) ∧
      (coreAt t s.cur.core).engine = (coreAt (queued (popped s th rs) (entryFor s th op)) s.cur.core).engine ∧
      (∃ o, t.ops = s.ops ++ [o] ∧ o.id = s.nextId ∧ o.uid = th.uid ∧ o.kind = .msg) ∧
      t.held = s.held ++ [h] ∧ h.uid = th.uid ∧ h.before = earlier s th.uid ∧ h.wide = true ∧
      h.act = .frsendInject s.cur.core s.nextId ∧ SameMemory s t ∧ SameOthers s t s.cur ∧ t.agenda = (popped s th rs).agenda))

/-! ### The matrix engine: work -/

namespace Sys2Proof.Says

def tileOf (s : State) (core n : Nat) : Tile := tileAt (coreAt s core) n
/-- The value of N lies in [−2^191, 2^191) (R201). -/
def Fits (n : Int) : Prop := -2 ^ 191 ≤ n ∧ n < 2 ^ 191
/-- A finite cell out of range, and what FOV = 1 makes of it (R184). -/
def CellOut (c : Cell) : Prop := c.st = .fin ∧ ¬ Fits c.n.toInt
def InfOf (n : Int) (c : Cell) : Prop := c = ⟨0, if n < 0 then .ninf else .pinf⟩
def Clipped (c c' : Cell) : Prop := (CellOut c → InfOf c.n.toInt c') ∧ (¬ CellOut c → c' = c)
/-- With FOV = 0, `c` is the lowest cell that a judgement of these cells refuses. -/
def Lowest (bad : Nat → Prop) (c : Nat) : Prop := bad c ∧ ∀ c' < c, ¬ bad c'
def JudgeBad (fov : Bool) (t : Tile) (sel : Nat → Prop) (c : Nat) : Prop := fov = false ∧ sel c ∧ CellOut (cellAt t c)
/-- Reading and judging these cells meets this cause at this cell: 0x70 at the lowest whose parity fails, or else 0x31 (R131, R424). -/
def Meets (fov : Bool) (t : Tile) (sel : Nat → Prop) (cause c : Nat) : Prop :=
  (cause = 0x70 ∧ Lowest (fun c => sel c ∧ c ∈ t.bad) c) ∨
    (cause = 0x31 ∧ (∀ c', sel c' → c' ∉ t.bad) ∧ Lowest (JudgeBad fov t sel) c)
def Sound (fov : Bool) (t : Tile) (sel : Nat → Prop) : Prop := ∀ cause c, ¬ Meets fov t sel cause c
/-- Of what two tiles meet, the first is reported: 0x70 before 0x31, then the lower cell (R424). -/
def Before (cause c cause' c' : Nat) : Prop := if cause = cause' then c ≤ c' else cause = 0x70
/-- Only the cells of the tile differ. -/
def CellsOnly (t t' : Tile) : Prop := t' = { t with cells := t'.cells }
/-- The tile after its selected cells have been judged. -/
def Judged (t t' : Tile) (sel : Nat → Prop) : Prop :=
  CellsOnly t t' ∧ ∀ c, (sel c → Clipped (cellAt t c) (cellAt t' c)) ∧ (¬ sel c → cellAt t' c = cellAt t c)
def anyCell (c : Nat) : Prop := c < 256
/-- The sum of a cell and a contribution is out of range, and the cell that holds the sum (R121, R203, R204). -/
def AddBad (x : Cell) (y : Contrib) : Prop := (furrowAdd x.n.toInt x.st y).2 = .fin ∧ ¬ Fits (furrowAdd x.n.toInt x.st y).1
def Added (x : Cell) (y : Contrib) (z : Cell) : Prop :=
  let r := furrowAdd x.n.toInt x.st y
  (AddBad x y → InfOf r.1 z) ∧ (¬ AddBad x y → z = ⟨if r.2 = .fin then BitVec.ofInt 200 r.1 else 0, r.2⟩)

/-- The fills of an operation: side, latch and time (R64, R65). -/
def fillCycles (ty : MmaType) (fr : BitVec 32) : Nat :=
  if ty = .mx ∧ fmtWidth (fmtOfReg fr) < 5 then 3 else if ty = .mx ∧ fmtWidth (fmtOfReg fr) < 7 then 5 else 6
def latchNo (b l1 : Bool) : Nat := (if b then 2 else 0) + if l1 then 1 else 0
def fillsOf : EngOp → List (Bool × Nat × Nat)
  | .mma _ o _ fa fb _ _ _ => (if o.keepA then [] else [(false, latchNo false o.la, fillCycles o.ty fa)])
      ++ (if o.keepB then [] else [(true, latchNo true o.lb, fillCycles o.ty fb)])
  | .latch b l1 ty fr _ _ => [(b, latchNo b l1, fillCycles ty fr)]
  | _ => []
/-- The fill of a side. -/
def sideFillOf (e : EngEntry) (b : Bool) : Option Fill := if b then e.fillB else e.fillA
/-- A side has nothing to fill, or its reads are served and its F cycles have passed (R64). -/
def SideDone (s : State) (e : EngEntry) (b : Bool) : Prop :=
  ∀ x ∈ fillsOf e.op, x.1 = b → ∃ f, sideFillOf e b = some f ∧ f.left = 0 ∧ f.ends ≤ s.now
/-- The fill of a side can begin: the side's earlier fills have ended, the latch is free, and no earlier entry still reads it (R64). -/
def FillCan (s : State) (core : Nat) (b : Bool) (e : EngEntry) : Prop :=
  let k := coreAt s core
  ∃ l r, k.engine.queue = l ++ e :: r ∧ (∀ x ∈ l, SideDone s x b) ∧ sideFillOf e b = none ∧
    ∃ x ∈ fillsOf e.op, x.1 = b ∧ k.engine.latchFree.toList.getD x.2.1 0 ≤ s.now ∧ ∀ y ∈ l, x.2.1 ∉ latchReads y.op
/-- Occupancy and latency (R65, R122). -/
def entryTimes : EngOp → Nat × Nat
  | .mma g o _ fa fb _ _ _ =>
    let x := if g = none then 0 else 12
    match o.ty with
    | .f16 | .bf16 => (4, 44 + x)
    | .i8 => (2, 40 + x)
    | .mx => if fmtWidth (fmtOfReg fa) < 5 ∧ fmtWidth (fmtOfReg fb) < 5 then (1, 38 + x) else (2, 40 + x)
  | .latch .. => (0, 4)
  | .accz .. => (1, 10)
  | .accmv .. | .accadd .. => (2, 14)
  | .accst .. | .accld .. => (2, 32)
  | _ => (2, 2)
/-- The head of a core's queue may start (R64, R128, R399, R434, R437). -/
def MayStart (s : State) (core : Nat) (e : EngEntry) : Prop :=
  let k := coreAt s core
  k.engine.freeAt ≤ s.now ∧ SideDone s e false ∧ SideDone s e true ∧ s.now % 8 + s.power.mduty < 8 ∧
    (∀ x ∈ k.engine.active, ∀ ty t d m, x.op = .accld ty t d m → t ∉ tilesOf e.op) ∧
    testing s .engine core = false ∧ sealReady s e.op = true
/-- An entry has started: it has left the queue, the engine is busy for its occupancy, no thread and no byte of memory differs. -/
def Started (s t : State) (core : Nat) (e : EngEntry) (rest : List EngEntry) (e' : EngEntry) : Prop :=
  let k := coreAt s core
  let k' := coreAt t core
  k'.engine.queue = rest ∧ k'.engine.active = k.engine.active ++ [e'] ∧ k'.engine.freeAt = s.now + (entryTimes e.op).1 ∧
    e' = { e with fault := e'.fault, beats := e'.beats, flags := e'.flags, msgs := e'.msgs, nextInj := e'.nextInj, value := e'.value
                  started := some s.now, undoTiles := e'.undoTiles, undoLatches := e'.undoLatches } ∧
    SameMemory s t ∧ SameThreads s t ∧ ∀ c, c ≠ core → coreAt t c = coreAt s c
/-- The end of an entry is laid down. -/
def EndsIn (s t : State) (core : Nat) (e : EngEntry) (d : Nat) : Prop := (s.now + d, .engineEntryDone core e.id) ∈ t.agenda
def SameTiles (s t : State) (core : Nat) (except : List Nat) : Prop := ∀ n, n ∉ except → tileOf t core n = tileOf s core n

/-- Row r of a side is read; the row of memory that it is read from (R114, R122). -/
def rowRead (b : Bool) (m : Word) (r : Nat) : Bool := m.getLsbD (if b then 32 + r else r)
def rowFrom (gather : Option Line) (r : Nat) : Nat := match gather with | some x => (laneOf x r).toNat | none => r
def sideLen (ty : MmaType) (b : Bool) : Nat := if b && (ty = .i8 || ty = .mx) then 32 else 16
/-- The near ranges of a side, as its fill reads them, are all in what it has read. -/
def AllRead (img : List (Nat × List Byte)) (ty : MmaType) (fr : BitVec 32) (b : Bool) (d : Line) (m : Word) (gather : Option Line) : Prop :=
  ∀ r ∈ fillRanges ty fr b d m gather, (imgBytes img r).length = r.2
/-- The image that a fill leaves in a latch: the selected rows as the fill read them, zero elements elsewhere, and the scale bytes, which
are 127 where none was read (R114). -/
def IsImage (img : List (Nat × List Byte)) (slot : Nat) (ty : MmaType) (fr : BitVec 32) (b : Bool) (d : Line) (m : Word)
    (gather : Option Line) (l : Latch) : Prop :=
  let n := if ty = .mx then (fmtOfReg fr).scale else 0
  l.slot = slot ∧ l.ty = ty ∧ l.fmt = fr ∧ l.rows.length = sideLen ty b ∧ (∀ r < sideLen ty b, l.rows.getD r 0 =
    if rowRead b m r then BitVec.ofNat 256 (ofBytesLE (imgBytes img
      ((laneOf d 0).toNat + rowFrom gather r * (laneOf d 1).toNat, rowLen ty fr b))) else 0) ∧
  (b = true → ∀ j < 16 * n, l.scales.getD j 127 = if m = 0 then 127 else (imgBytes img ((laneOf d 2).toNat, 16 * n)).getD j 127) ∧
  (b = false → ∀ r < 16, ∀ j < n, l.scales.getD (r * n + j) 127 = if rowRead b m r then
    (imgBytes img ((laneOf d 2).toNat + rowFrom gather r * (laneOf d 3).toNat, n)).getD j 127 else 127)
/-- A side's fill met no fault, and read this. -/
def Filled (e : EngEntry) (b : Bool) (img : List (Nat × List Byte)) : Prop :=
  ∃ f, sideFillOf e b = some f ∧ f.fault = none ∧ f.image = img
/-- The faults of an entry (R132). -/
def entryFault (op cause reason part cell : Nat) (addr : Word) : TrapInfo :=
  ⟨BitVec.ofNat 8 cause, addr, BitVec.ofNat 64 (op * 2 ^ 18 + part * 2 ^ 16 + reason * 2 ^ 12 + cell)⟩

/-- What the start of ACCZ, ACCMV, ACCADD does (R124, R131, R184). -/
def AccStart (s t : State) (core : Nat) (e e' : EngEntry) : Prop :=
  match e.op with
  | .accz n f => tileOf t core n = { tileReset with floor := f } ∧ SameTiles s t core [n] ∧ e'.fault = none ∧ EndsIn s t core e 10
  | .accmv d a =>
    (d = a → SameTiles s t core [] ∧ e'.fault = none) ∧ EndsIn s t core e 14 ∧
    (d ≠ a → (∀ x c, Meets e.fov (tileOf s core a) anyCell x c →
        SameTiles s t core [] ∧ e'.fault = some (entryFault 0x305 x 0 1 c 0)) ∧
      (Sound e.fov (tileOf s core a) anyCell → e'.fault = none ∧ SameTiles s t core [d, a] ∧
        Judged (tileOf s core a) (tileOf t core a) anyCell ∧ tileOf t core d =
          { tileOf s core d with cells := (tileOf t core a).cells, floor := (tileOf s core a).floor, bad := [] }))
  | .accadd d a =>
    let meets (n : Nat) : Nat → Nat → Prop := Meets e.fov (tileOf s core n) anyCell
    EndsIn s t core e 14 ∧
    (∀ x c, meets d x c → (∀ x' c', meets a x' c' → Before x c x' c') →
      SameTiles s t core [] ∧ e'.fault = some (entryFault 0x306 x 0 0 c 0)) ∧
    (∀ x c, meets a x c → (∀ x' c', meets d x' c' → ¬ Before x' c' x c) →
      SameTiles s t core [] ∧ e'.fault = some (entryFault 0x306 x 0 1 c 0)) ∧
    (Sound e.fov (tileOf s core d) anyCell → Sound e.fov (tileOf s core a) anyCell →
      ((tileOf s core d).floor ≠ (tileOf s core a).floor →
        SameTiles s t core [] ∧ e'.fault = some (entryFault 0x306 0x32 0 0 0 0)) ∧
      ((tileOf s core d).floor = (tileOf s core a).floor →
        ∃ td ta : Tile, Judged (tileOf s core d) td anyCell ∧ Judged (tileOf s core a) ta anyCell ∧
        let y (c : Nat) : Contrib := if (cellAt ta c).st = .fin then .int (cellAt ta c).n.toInt else .sp (cellAt ta c).st
        (∀ c, Lowest (fun c => e.fov = false ∧ anyCell c ∧ AddBad (cellAt td c) (y c)) c →
          SameTiles s t core [] ∧ e'.fault = some (entryFault 0x306 0x31 0 0 c 0)) ∧
        ((∀ c, anyCell c → ¬ (e.fov = false ∧ AddBad (cellAt td c) (y c))) → e'.fault = none ∧ SameTiles s t core [d, a] ∧
          CellsOnly (tileOf s core d) (tileOf t core d) ∧ (a ≠ d → Judged (tileOf s core a) (tileOf t core a) anyCell) ∧
          ∀ c, anyCell c → Added (cellAt td c) (y c) (cellAt (tileOf t core d) c))))
  | _ => True

/-- What the start of LATCH and of MMA and MMAG does (R114, R116, R119, R121, R122, R131): a filled side's latch holds the image that its
fill read, or nothing where the fill met a fault. -/
def MmaStart (s t : State) (core : Nat) (e e' : EngEntry) : Prop :=
  match e.op with
  | .latch b l1 ty fr d m =>
    SameTiles s t core [] ∧ EndsIn s t core e 4 ∧
    (∀ img, Filled e b img → e'.fault = none ∧ ∃ l, latchAt (coreAt t core) (latchNo b l1) = some l ∧
      (AllRead img ty fr b d m none → IsImage img e.t.slot ty fr b d m none l)) ∧
    (∀ f ti, sideFillOf e b = some f → f.fault = some ti → e'.fault = some ti ∧ latchAt (coreAt t core) (latchNo b l1) = none)
  | .mma gather o n fa fb da db m =>
    let op := if gather = none then 0x300 else 0x301
    let kept (b l1 : Bool) (fr : BitVec 32) (l : Latch) : Prop :=
      latchAt (coreAt s core) (latchNo b l1) = some l ∧ l.slot = e.t.slot ∧ l.ty = o.ty ∧ (o.ty = .mx → l.fmt = fr)
    let filled (b l1 : Bool) (fr : BitVec 32) (d : Line) (gather : Option Line) (l : Latch) : Prop :=
      latchAt (coreAt t core) (latchNo b l1) = some l ∧
        ∃ img, Filled e b img ∧ (AllRead img o.ty fr b d m gather → IsImage img e.t.slot o.ty fr b d m gather l)
    SameTiles s t core [n] ∧ EndsIn s t core e (entryTimes e.op).2 ∧
    (∀ img, o.keepA = false → o.keepB = true → (∃ l, kept true o.lb fb l) → Filled e false img → ∃ l, filled false o.la fa da gather l) ∧
    (∀ img, o.keepB = false → o.keepA = true → (∃ l, kept false o.la fa l) → Filled e true img → ∃ l, filled true o.lb fb db none l) ∧
    (∀ img img', o.keepA = false → o.keepB = false → Filled e false img → Filled e true img' →
      (∃ l, filled false o.la fa da gather l) ∧ ∃ l, filled true o.lb fb db none l) ∧
    (o.keepA = true → latchAt (coreAt s core) (latchNo false o.la) = none → tileOf t core n = tileOf s core n ∧
      (∀ i, latchAt (coreAt t core) i = latchAt (coreAt s core) i) ∧
      e'.fault = some (entryFault op 0x25 0 1 (if o.la then 1 else 0) 0)) ∧
    (∀ f ti, o.keepA = false → sideFillOf e false = some f → f.fault = some ti →
      (∀ f' ti', sideFillOf e true = some f' → o.keepB = false → f'.fault = some ti' → ti'.cause = ti.cause) →
      (o.keepB = true → ∃ l, kept true o.lb fb l) → tileOf t core n = tileOf s core n ∧ e'.fault = some ti ∧
      latchAt (coreAt t core) (latchNo false o.la) = none) ∧
    (∀ la lb : Latch, (if o.keepA then kept false o.la fa la else filled false o.la fa da gather la) →
      (if o.keepB then kept true o.lb fb lb else filled true o.lb fb db none lb) →
      let xs := mmaContribs la lb m (tileOf s core n).floor.toInt
      (∀ x c, Meets e.fov (tileOf s core n) (Selected m) x c → tileOf t core n = tileOf s core n ∧
        e'.fault = some (entryFault op x 0 0 c 0)) ∧
      (Sound e.fov (tileOf s core n) (Selected m) → ∃ tj, Judged (tileOf s core n) tj (Selected m) ∧
        (∀ c, Lowest (fun c => e.fov = false ∧ ∃ y, (c, y) ∈ xs ∧ AddBad (cellAt tj c) y) c → tileOf t core n = tileOf s core n ∧
          e'.fault = some (entryFault op 0x31 0 0 c 0)) ∧
        ((∀ x ∈ xs, ¬ (e.fov = false ∧ AddBad (cellAt tj x.1) x.2)) → e'.fault = none ∧ CellsOnly (tileOf s core n) (tileOf t core n) ∧
          ∀ c, (∀ y, (c, y) ∈ xs → Added (cellAt tj c) y (cellAt (tileOf t core n) c)) ∧
            ((∀ y, (c, y) ∉ xs) → cellAt (tileOf t core n) c = cellAt tj c))))
  | _ => True

/-- The cells of an ACCST or ACCLD are presented at their banks from the next cycle on, eight positions a cycle (R126). -/
def CellsAsked (s t : State) (core : Nat) (e : EngEntry) (ty : AccType) (d : Line) (m : Word) : Prop :=
  (selCells m = [] → EndsIn s t core e 32) ∧ ∀ c ∈ selCells m, ∃ r ∈ (clusterAt t (core / 16)).ports, ∃ cs,
    r.at_ = some (s.now + 1 + c / 8) ∧ r.port = core % 16 ∧ r.act = .beat e.id cs ∧ c ∈ cs ∧
    liveBank (clusterAt s (core / 16)) (cellOffset ty d c / 2 ^ 17) = some r.bank

/-- What the start of ACCST, ACCLD, FRSEND and DIGEST.T does (R126, R127, R131, R183, R184, R352). -/
def MoveStart (s t : State) (core : Nat) (e e' : EngEntry) : Prop :=
  let g := core / 16
  match e.op with
  | .accst ty rm fr d n m seed step =>
    SameTiles s t core [n] ∧
    ((∀ a, CellByte ty d m a → nearFault (clusterAt s g) a .engine = none) →
      (∀ x c, Meets e.fov (tileOf s core n) (Selected m) x c → tileOf t core n = tileOf s core n ∧ EndsIn s t core e 32 ∧
        e'.fault = some (entryFault 0x303 x 0 0 c (BitVec.ofNat 64 (cellOffset ty d c)))) ∧
      (Sound e.fov (tileOf s core n) (Selected m) → e'.fault = e.fault ∧ CellsAsked s t core e ty d m ∧
        Judged (tileOf s core n) (tileOf t core n) (Selected m) ∧ (e'.beats.map Beat.cell) = selCells m ∧
        ∀ b ∈ e'.beats, b.off = cellOffset ty d b.cell ∧ b.done = false ∧
          let c := cellAt (tileOf t core n) b.cell
          let f := (tileOf s core n).floor
          if ty = .raw then b.bytes = cellImage c.n.toInt c.st f
          else ∃ fmt, (ty = .f32 → fmt = fmtF32) ∧ (ty = .f16 → fmt = fmtF16) ∧ (ty = .bf16 → fmt = fmtBF16) ∧
            (ty = .fmt → fmt = fmtOfReg fr) ∧ b.bytes = bytesLE (roundTo fmt (accMode rm) (furrowVal c.n.toInt c.st f.toInt)
              (sowDraw seed (laneOf d 2) (step.setWidth 32) (BitVec.ofNat 48 ((laneOf d 3).toNat + (laneOf d 4).toNat % 2 ^ 16 * 2 ^ 32
                + b.cell / 16 * (laneOf d 5).toNat + b.cell % 16)) 1 0)).1 (cellBytes ty)))
  | .accld ty _ d m =>
    SameTiles s t core [] ∧
    ((∀ a, CellByte ty d m a → nearFault (clusterAt s g) a .engine = none) → e'.fault = e.fault ∧ CellsAsked s t core e ty d m ∧
      e'.beats = (selCells m).map (fun c => ⟨c, cellOffset ty d c, [], false⟩))
  | .frsend dest n tag m _ =>
    SameTiles s t core [n] ∧
    (∀ x c, Meets e.fov (tileOf s core n) (Selected m) x c → tileOf t core n = tileOf s core n ∧
      (∃ info, e'.fault = some ⟨BitVec.ofNat 8 x, 0, info⟩) ∧ (s.now + 2, .frsendComplete core e.id) ∈ t.agenda) ∧
    (Sound e.fov (tileOf s core n) (Selected m) → Judged (tileOf s core n) (tileOf t core n) (Selected m) ∧
      e'.nextInj = s.now + 2 ∧ (s.now + 2, .frsendInject core e.id) ∈ t.agenda ∧
      e'.msgs = furrowMsgs dest.toNat e.launch core e.id (tileOf s core n).floor false tag
        ((selCells m).map (fun c => (c, (cellAt (tileOf t core n) c).n.toInt, (cellAt (tileOf t core n) c).st))))
  | .digest _ n =>
    SameTiles s t core [n] ∧
    (∀ x c, Meets e.fov (tileOf s core n) anyCell x c → tileOf t core n = tileOf s core n ∧ EndsIn s t core e 2 ∧
      ∃ info, e'.fault = some ⟨BitVec.ofNat 8 x, 0, info⟩ ∧ (x = 0x31 → info = (entryFault 0x397 0x31 0 0 c 0).info)) ∧
    (Sound e.fov (tileOf s core n) anyCell → Judged (tileOf s core n) (tileOf t core n) anyCell ∧ e'.fault = e.fault ∧
      t.shaQ = s.shaQ ++ [⟨core / 256, core / 16, s.now, 129, .entry core e.id⟩] ∧
      e'.value = BitVec.ofNat 64 (ofBytesLE ((sha256 ((List.range 256).flatMap (fun c => cellImage (cellAt (tileOf t core n) c).n.toInt
        (cellAt (tileOf t core n) c).st (tileOf s core n).floor))).take 8)))
  | _ => True

/-- What a side's fill reads, and its cycles: groups of one bank each, at most one a bank a cycle, over its F cycles (R64, R68). -/
def FillReads (s : State) (g : Nat) (x : SideFill) (b : Bool) : Prop :=
  (∀ r ∈ sideRanges x b, (bankOfOff s g r.1).isSome) → ((fillGroups s g x b).flatMap (fun y => y.2.2)).Perm (sideRanges x b) ∧
    (∀ y ∈ fillGroups s g x b, y.2.1 < fillCycles x.ty x.fmt ∧ ∀ r ∈ y.2.2, bankOfOff s g r.1 = some y.1) ∧
    (fillGroups s g x b).Pairwise (fun y z => y.1 ≠ z.1 ∨ y.2.1 ≠ z.2.1)
/-- A fill begins: a fault of its checks ends it after F; otherwise its reads stand at their banks' ports. -/
def FillBegins (s : State) (core : Nat) (e : EngEntry) (b : Bool) (x : SideFill) : Prop :=
  let g := core / 16
  let t := beginFill s core e b
  let now (f : Fill) : Prop := ∀ y, y ∈ (coreAt t core).engine.queue ↔ ∃ z ∈ (coreAt s core).engine.queue,
    y = if z.id = e.id then setFill z b (some f) else z
  SameMemory s t ∧ SameThreads s t ∧
  (∀ ti, fillFault s g x.op x.desc (sideRanges x b) = some ti → now ⟨0, s.now + fillCycles x.ty x.fmt, [], some ti⟩) ∧
  (fillFault s g x.op x.desc (sideRanges x b) = none → now ⟨(fillGroups s g x b).length, s.now + fillCycles x.ty x.fmt, [], none⟩ ∧
    ∀ y ∈ fillGroups s g x b, ∃ r ∈ (clusterAt t g).ports, r.bank = y.1 ∧ r.port = core % 16 ∧ r.at_ = some (s.now + y.2.1) ∧
      r.act = .fill e.id b y.2.2)
/-- A bank serves one group of a fill: its bytes as they stand are the fill's, and the fill ends no sooner than the next cycle. -/
def FillServed (s : State) (core : Nat) (e : EngEntry) (b : Bool) (rs : List (Nat × Nat)) (f : Fill) : Prop :=
  let t := serveFill s core e.id b rs
  sideFillOf e b = some f → (coreAt s core).engine.queue.find? (fun y => y.id = e.id) = some e → (sideOf e.op b).isSome = true →
  (∀ r ∈ rs, ∀ a, r.1 ≤ a → a < r.1 + r.2 → nearFault (clusterAt s (core / 16)) a .engine = none ∧ nearArea (clusterAt s (core / 16)) a = none) →
  (∀ r ∈ rs, placeErr s (.near (core / 16) r.1) r.2 = false) →
  SameMemory s t ∧ SameThreads s t ∧ ∃ y, (coreAt t core).engine.queue.find? (fun y => y.id = e.id) = some y ∧
    y = setFill e b (some ⟨f.left - 1, max f.ends (s.now + 1), f.image ++ rs.map (fun r => (r.1, placeRead s (.near (core / 16) r.1) r.2)),
      f.fault⟩)

/-- The exact product sum of one cell of an INT8 MMA (R112, R119). -/
def i8Elem (row : BitVec 256) (n : Nat) : Int := (row.extractLsb' (8 * n) 8).toInt
def i8Sum (la lb : Latch) (m : Word) (c : Nat) : Int :=
  ((List.range 32).map (fun k => if m.getLsbD (32 + k) then i8Elem (la.rows.getD (c / 16) 0) k * i8Elem (lb.rows.getD k 0) (c % 16) else 0)).sum

end Sys2Proof.Says

/-- R64, R65, R68, R114, R116, R119, R121, R122, R124, R126, R127, R131, R183, R184, R352: a fill begins when its side and latch are free, and
its banks serve its reads in turn; the head of a core's engine queue starts when the engine, its fills and the duty allow it, and not
before; what each operation does at its start, and when its end falls due. While a fault of its issuer waits, an operation that parks
it has no effect. An INT8 product sum is exact, and the messages of a cell sum to its value. In part the model's choice: logs 22, 43 to 45
and 48. -/
def Obligations.EngineStarts : Prop :=
  (∀ (s : State) (core : Nat), (coreAt s core).engine.queue = [] → exec (.engineEntryStart core) s = .next s) ∧
  (∀ (s : State) (core : Nat) (b : Bool) (e : EngEntry), ((coreAt s core).engine.queue.map EngEntry.id).Nodup →
    (fillNext s core b = some e ↔ FillCan s core b e)) ∧
  (∀ (s : State) (core : Nat) (e : EngEntry) (b : Bool) (x : SideFill), sideOf e.op b = some x →
    FillReads s (core / 16) x b ∧ FillBegins s core e b x) ∧
  (∀ (s : State) (core : Nat) (e : EngEntry) (b : Bool) (rs : List (Nat × Nat)) (f : Fill), FillServed s core e b rs f) ∧
  (∀ (s : State) (g : Nat) (rs : List (Nat × Nat)) (r : Nat × Nat), (∀ y ∈ cutRange r, y ∈ rs) →
    imgBytes (rs.map (fun y => (y.1, placeRead s (.near g y.1) y.2))) r = placeRead s (.near g r.1) r.2) ∧
  (∀ (s : State) (core : Nat) (e : EngEntry) (rest : List EngEntry), (coreAt s core).engine.queue = e :: rest →
    (¬ MayStart s core e → exec (.engineEntryStart core) s = .next s) ∧
    (MayStart s core e → ∃ t e', exec (.engineEntryStart core) s = .next t ∧ Started s t core e rest e' ∧
      if parksIssuer e.op && faultWaits s e.uid then
        EndsIn s t core e (entryTimes e.op).2 ∧ SameTiles s t core [] ∧ ∀ i, latchAt (coreAt t core) i = latchAt (coreAt s core) i
      else AccStart s t core e e' ∧ MmaStart s t core e e' ∧ MoveStart s t core e e')) ∧
  (∀ (la lb : Latch) (m : Word) (f : Int), la.ty = .i8 → lb.ty = .i8 → f ≤ 0 → (∃ k < 32, m.getLsbD (32 + k) = true) →
    ∀ c y, (c, y) ∈ mmaContribs la lb m f ↔ Selected m c ∧ y = .int (i8Sum la lb m c * 2 ^ (-f).toNat)) ∧
  (∀ n : Int, -2 ^ 191 ≤ n → n < 2 ^ 191 → ((cellChunks n .fin).map (fun x => x.2.1.toInt * 2 ^ (64 * x.1))).sum = n)

namespace Sys2Proof.Says

/-- The thread in slot `t0` is the one thread of the package with this identity. -/
def Only (s : State) (uid : Nat) (t0 : TId) (th : Thread) : Prop :=
  th.uid = uid ∧ (t0, th) ∈ allThreads s ∧ ∀ x ∈ allThreads s, x.2.uid = uid → x = (t0, th)
/-- A started entry of a core's engine. -/
def InService (s : State) (core id : Nat) (e : EngEntry) : Prop := (coreAt s core).engine.active.find? (fun x => x.id = id) = some e
/-- The entry has left the engine; no byte of memory and no other thread than that in `t0` differs. -/
def EntryEnds (s t : State) (core id : Nat) (t0 : TId) : Prop :=
  (coreAt t core).engine.active = (coreAt s core).engine.active.filter (fun x => x.id != id) ∧ SameMemory s t ∧ SameOthers s t t0
/-- The thread is told of its entry's end: its wait is over. -/
def told (th : Thread) (id : Nat) (fault : Option TrapInfo) : Thread :=
  match th.park with
  | some pk => if pk.why = .engine id then { th with park := some { pk with why := .engineDone fault } } else th
  | none => th
/-- The operation of the thread that an entry holds raised. -/
def HoldsOp (s : State) (id uid : Nat) (kind : OpKind) : Prop :=
  ∃ o, s.ops.find? (fun x => x.id = id) = some o ∧ o.uid = uid ∧ o.kind = kind
/-- The thread with a fault deferred, if there is one (R131). -/
def withDeferred (th : Thread) (f : Option TrapInfo) : Thread :=
  match f with
  | some ti => { th with deferred := th.deferred ++ [deferredInfo ti] }
  | none => th
/-- The cell that ACCLD makes of the bytes it read, at the tile's floor (R127, R204). -/
def IsLoaded (ty : AccType) (floor : BitVec 16) (bs : List Byte) (c : Cell) : Prop :=
  if ty = .raw then ∃ n st, parseCell bs = some (n, st, floor) ∧ c = ⟨BitVec.ofInt 200 n, st⟩
  else match contribOf (valueOf fmtF32 (ofBytesLE bs)) floor.toInt with
    | .int n => (Fits n → c = ⟨BitVec.ofInt 200 n, .fin⟩) ∧ (¬ Fits n → InfOf n c)
    | .sp st => c = ⟨0, st⟩
/-- A .RAW image that ACCLD refuses: it is no cell image, or its floor is another. -/
def RawBad (floor : BitVec 16) (bs : List Byte) : Prop := ∀ n st, parseCell bs ≠ some (n, st, floor)
/-- The order of the mismatched messages that R184 records: by CELL, TAG and F. -/
def mismKey (x : BitVec 8 × BitVec 8 × BitVec 16) : Nat := (x.1 ++ x.2.1 ++ x.2.2).toNat
/-- What a tile's cell becomes when a message adds to it (R184). -/
def Received (c : Cell) (m : FurrowMsg) (c' : Cell) : Prop :=
  if m.state ≠ .fin ∨ c.st ≠ .fin then c'.st = stAdd c.st m.state
  else c' = ⟨c.n + BitVec.ofInt 200 (m.chunk.toInt * 2 ^ (64 * ((m.exp - m.f).toNat / 64))), .fin⟩

end Sys2Proof.Says

/-- R64, R126, R127, R131, R183, R184: what the end of each engine entry does to its issuer and its tile: where a fault deferred to the
issuer waits, an operation that parked it has no effect, and its tiles and latches go back unless another entry has changed them; a bank
serves the cells of an ACCST or ACCLD; one message of an FRSEND is
injected a cycle, and the last one's completion lowers st; a message reaches its tile, or where its launch has no thread is
discarded and faults its FRSEND. In part the model's choice: logs 22 and 47. -/
def Obligations.EngineEnds : Prop :=
  (∀ (s : State) (core id : Nat), (coreAt s core).engine.active.find? (fun x => x.id = id) = none →
    exec (.engineEntryDone core id) s = .next s ∧ exec (.frsendInject core id) s = .next s ∧
    exec (.frsendComplete core id) s = .next s) ∧
  (∀ (s : State) (core id : Nat) (e : EngEntry) (t0 : TId) (th : Thread), InService s core id e → Only s e.uid t0 th → th.deferred ≠ [] →
    parksIssuer e.op = true → (e.undoTiles.map Prod.fst).Nodup → (e.undoLatches.map Prod.fst).Nodup →
    ∃ t, exec (.engineEntryDone core id) s = .next t ∧ EntryEnds s t core e.id t0 ∧ thread? t t0 = some (told th e.id e.fault) ∧
      (∀ n a b, (n, a, b) ∈ e.undoTiles → tileOf t core n = if tileOf s core n = b then a else tileOf s core n) ∧
      (∀ n, n ∉ e.undoTiles.map Prod.fst → tileOf t core n = tileOf s core n) ∧
      (∀ n a b, n < 4 → (n, a, b) ∈ e.undoLatches →
        latchAt (coreAt t core) n = if latchAt (coreAt s core) n = b then a else latchAt (coreAt s core) n)) ∧
  (∀ (s : State) (core id : Nat) (e : EngEntry) (t0 : TId) (th : Thread), InService s core id e → Only s e.uid t0 th →
    (parksIssuer e.op = true → th.deferred = []) →
    ((occupancy e.op ≠ 2 ∨ (∃ d a, e.op = .accmv d a ∨ e.op = .accadd d a) ∨ (∃ g o n fa fb da db m, e.op = .mma g o n fa fb da db m)) →
      ∃ t, exec (.engineEntryDone core id) s = .next t ∧ EntryEnds s t core id t0 ∧ (∀ n, tileOf t core n = tileOf s core n) ∧
        thread? t t0 = some (told th e.id e.fault)) ∧
    (∀ d n, e.op = .digest d n → ∃ t, exec (.engineEntryDone core id) s = .next t ∧ EntryEnds s t core id t0 ∧
      thread? t t0 = some (told (if e.fault = none then { th with latch := some [e.value], cont := 2 } else th) e.id e.fault)) ∧
    ((∃ ty rm fr d n m sd st, e.op = .accst ty rm fr d n m sd st) → e.id = id → HoldsOp s id e.uid .tl →
      ∃ t, exec (.engineEntryDone core id) s = .next t ∧ EntryEnds s t core id t0 ∧ t.ops = s.ops.filter (fun o => o.id != id) ∧
        thread? t t0 = some { withDeferred th e.fault with
          tl := th.tl - 1
          scr := { th.scr with fflags := if e.fault = none then th.scr.fflags ||| e.flags.setWidth 64 else th.scr.fflags } }) ∧
    (∀ ty n d m, e.op = .accld ty n d m → e.id = id → HoldsOp s id e.uid .tl → (e.beats.map Beat.cell).Nodup →
      ∃ t, exec (.engineEntryDone core id) s = .next t ∧ EntryEnds s t core id t0 ∧ t.ops = s.ops.filter (fun o => o.id != id) ∧
        (∀ k, k ≠ n → tileOf t core k = tileOf s core k) ∧
        let fl := (tileOf s core n).floor
        (∀ ti, e.fault = some ti → tileOf t core n = tileOf s core n ∧
          thread? t t0 = some { withDeferred th (some ti) with tl := th.tl - 1 }) ∧
        (∀ l b r, e.fault = none → e.beats = l ++ b :: r → ty = .raw → RawBad fl b.bytes → (∀ x ∈ l, ¬ RawBad fl x.bytes) →
          tileOf t core n = tileOf s core n ∧ thread? t t0 = some
            { withDeferred th (some (entryFault 0x304 0x32 1 0 b.cell (BitVec.ofNat 64 b.off))) with tl := th.tl - 1 }) ∧
        (e.fault = none → (∀ b ∈ e.beats, ty = .raw → ¬ RawBad fl b.bytes) → thread? t t0 = some { th with tl := th.tl - 1 } ∧
          tileOf t core n = { tileOf s core n with
            cells := (tileOf t core n).cells, bad := (tileOf s core n).bad.filter (fun c => c ∉ e.beats.map Beat.cell) } ∧
          (∀ b ∈ e.beats, IsLoaded ty fl b.bytes (cellAt (tileOf t core n) b.cell)) ∧
          ∀ c, (∀ b ∈ e.beats, b.cell ≠ c) → cellAt (tileOf t core n) c = cellAt (tileOf s core n) c)) ∧
    (e.id = id → HoldsOp s id e.uid .msg → ∃ t, exec (.frsendComplete core id) s = .next t ∧ EntryEnds s t core id t0 ∧
      t.ops = s.ops.filter (fun o => o.id != id) ∧ thread? t t0 = some { withDeferred th e.fault with st := th.st - 1 })) ∧
  (∀ (s : State) (core id : Nat) (e : EngEntry) (cs : List Nat) (r : PortReq), InService s core id e →
    bankNext s (core / 16) r.bank = some r → r.act = .beat id cs → r.port = core % 16 →
    (∀ c ∈ entryCells e.op, ∀ a, c.2.1 ≤ a → a < c.2.1 + c.2.2 →
      nearFault (clusterAt s (core / 16)) a .engine = none ∧ nearArea (clusterAt s (core / 16)) a = none) →
    (storesTile e.op = false → ∀ c ∈ entryCells e.op, placeErr s (.near (core / 16) c.2.1) c.2.2 = false) →
    let t := bankServe s (core / 16) r
    ∃ e', InService t core id e' ∧ SameThreads s t ∧ e'.fault = e.fault ∧
      e'.beats.map (fun b => (b.cell, b.off, b.done)) = e.beats.map (fun b => (b.cell, b.off, b.done || b.cell ∈ cs)) ∧
      (storesTile e.op = false → SameMemory s t ∧ ∀ b ∈ e'.beats, b.cell ∈ cs → ∀ c ∈ entryCells e.op, c.1 = b.cell →
        b.bytes = placeRead s (.near (core / 16) c.2.1) c.2.2) ∧
      (storesTile e.op = true → (∀ b ∈ e.beats, b.cell ∉ cs) → SameMemory s t) ∧
      (storesTile e.op = true → ∀ b, e.beats.filter (fun b => b.cell ∈ cs) = [b] →
        (∀ a, b.off ≤ a → a < b.off + b.bytes.length → nearFault (clusterAt s (core / 16)) a .engine = none) → ∀ g off,
        placeGet t (.near g off) = if g = core / 16 ∧ b.off ≤ off ∧ off < b.off + b.bytes.length then b.bytes.getD (off - b.off) 0
          else placeGet s (.near g off)) ∧
      (e'.beats.all Beat.done = true → (max s.now (e.started.getD 0 + 32), .engineEntryDone core id) ∈ t.agenda)) ∧
  (∀ (s : State) (core id : Nat) (e : EngEntry), InService s core id e →
    ((s.now < e.nextInj ∨ ∃ h ∈ s.held, h.act = .frsendInject core e.id) → exec (.frsendInject core id) s = .next s) ∧
    (∀ m r, e.nextInj ≤ s.now → (∀ h ∈ s.held, h.act ≠ .frsendInject core e.id) → e.msgs = m :: r →
      ∃ t, exec (.frsendInject core id) s = .next t ∧ SameMemory s t ∧ SameThreads s t ∧
        (coreAt t core).engine.active = (coreAt s core).engine.active.map (fun x =>
          if x.id = e.id then { x with msgs := r, nextInj := s.now + 1 } else x) ∧
        (if m.core = core then (s.now + 8, .furrowMessage m) ∈ t.agenda
         else ∃ f ∈ t.flits, f.deliver = .furrowMessage m ∧ f.reply = false ∧ f.hdr.drouter = routerOf (m.core / 16)) ∧
        if r = [] then (s.now + (if m.core = core then 8 else 48 + 4 * hops (core / 16) (m.core / 16)), .frsendComplete core e.id) ∈ t.agenda
        else (s.now + 1, .frsendInject core e.id) ∈ t.agenda)) ∧
  (∀ (s : State) (m : FurrowMsg),
    ((∃ x ∈ coreThreads m.core (coreAt s m.core), x.2.launch = m.launch) → ∃ t, exec (.furrowMessage m) s = .next t ∧
      SameMemory s t ∧ SameThreads s t ∧ (∀ n, n ≠ m.tag.toNat % 8 → tileOf t m.core n = tileOf s m.core n) ∧
      let a := tileOf s m.core (m.tag.toNat % 8)
      let b := tileOf t m.core (m.tag.toNat % 8)
      b.floor = a.floor ∧ b.bad = a.bad ∧ b.arr = a.arr + 1 ∧ b.sends = (if m.last then min (a.sends + 1) 256 else a.sends) ∧
      b.ann = (if m.last then a.ann + m.total.toNat else a.ann) ∧
      (m.f ≠ a.floor ∨ m.fd = true → b.cells = a.cells ∧ ∃ x, b.mism = some x ∧ (x = (m.cell, m.tag, m.f) ∨ a.mism = some x) ∧
        mismKey x ≤ mismKey (m.cell, m.tag, m.f) ∧ ∀ o, a.mism = some o → mismKey x ≤ mismKey o) ∧
      (m.f = a.floor → m.fd = false → b.mism = a.mism ∧ Received (cellAt a m.cell.toNat) m (cellAt b m.cell.toNat) ∧
        ∀ c, c ≠ m.cell.toNat → cellAt b c = cellAt a c)) ∧
    ((∀ x ∈ coreThreads m.core (coreAt s m.core), x.2.launch ≠ m.launch) →
      (m.entry = 0 → exec (.furrowMessage m) s = .next s) ∧
      (∀ e, m.entry ≠ 0 → InService s m.src m.entry e → ∃ t e', exec (.furrowMessage m) s = .next t ∧ InService t m.src m.entry e' ∧
        (∃ info, e' = { e with fault := some ⟨0x11, BitVec.ofNat 64 m.core, info⟩ }) ∧ SameMemory s t ∧ SameThreads s t)))

/-! ### Control, status and format registers -/

namespace Sys2Proof.Says

/-- What SRD reads (R100, R101, R105). -/
def scrValue (s : State) (th : Thread) : ScrName → Word
  | .epc => th.scr.epc | .ecause => th.scr.ecause | .eaddr => th.scr.eaddr | .einfo => th.scr.einfo | .tvec => th.scr.tvec
  | .save => th.scr.save | .fflags => th.scr.fflags | .fctl => th.scr.fctl | .waitlim => th.scr.waitlim | .wsp => th.scr.wsp
  | .dqspill => (coreAt s s.cur.core).dqspill | .seed => th.scr.seed | .step => th.scr.step | .watch => th.scr.watch
  | .ckpt => th.scr.ckpt
  | .cnt => (0 : BitVec 40) ++ BitVec.ofNat 6 th.tl ++ BitVec.ofNat 6 th.cp ++ BitVec.ofNat 6 th.st ++ BitVec.ofNat 6 th.ld
  | .cycle => BitVec.ofNat 64 s.now | .turns => BitVec.ofNat 64 th.turns
/-- The values that SWR accepts: the reserved fields zero, no reserved value (R100, R102-R105). -/
def ScrLegal (r : ScrName) (v : Word) : Prop :=
  match r with
  | .ecause => v.extractLsb' 9 55 = 0
  | .fflags => v.extractLsb' 5 59 = 0
  | .fctl => v.extractLsb' 10 54 = 0 ∧ v.toNat % 8 < 5
  | .waitlim | .step => v.extractLsb' 32 32 = 0
  | _ => True
/-- The registers after SWR (R100): scr.ecause.IN keeps its value, every other register but the named one stays. -/
def scrWritten (f : ScrFile) (r : ScrName) (v : Word) : ScrFile :=
  match r with
  | .epc => { f with epc := v } | .eaddr => { f with eaddr := v } | .einfo => { f with einfo := v } | .tvec => { f with tvec := v }
  | .save => { f with save := v } | .fflags => { f with fflags := v } | .fctl => { f with fctl := v }
  | .waitlim => { f with waitlim := v } | .wsp => { f with wsp := v } | .seed => { f with seed := v } | .step => { f with step := v }
  | .ecause => { f with ecause := (f.ecause.extractLsb' 8 56) ++ (v.extractLsb' 0 8) }
  | _ => f
/-- The registers that SWR may name. -/
def scrWritable (r : ScrName) : Bool := r ∉ [.dqspill, .watch, .ckpt, .cnt, .cycle, .turns]

/-- A value that FMTSET's register form accepts (R181): bits 63-21 zero, Specials and Scale not 11, a width of at most 8, and
with E = 0 no Bias and no Specials. -/
def FmtLegal (v : Word) : Prop :=
  let e := v.toNat / 2 % 8
  v.toNat < 2 ^ 21 ∧ v.toNat / 2 ^ 16 % 4 ≠ 3 ∧ v.toNat / 2 ^ 19 % 4 ≠ 3 ∧ v.toNat % 2 + e + v.toNat / 16 % 8 ≤ 8 ∧
    (e = 0 → v.toNat / 2 ^ 8 % 256 = 0 ∧ v.toNat / 2 ^ 16 % 4 = 0)
/-- The fields of a preset (R197): the register without Scale and Saturate. -/
def presetBase : Preset → Nat
  | .e4m3 => 0x20739 | .e5m2 => 0x10F2B | .e3m2 => 0x327 | .e2m3 => 0x135 | .e2m1 => 0x115 | .int8 => 0x71
def scaleCode : ScaleF → Nat
  | .none => 0 | .per32 => 1 | .per16 => 2

/-- The state with another tile in the current core. -/
def withTile (s : State) (n : Nat) (t : Tile) : State := setCore s s.cur.core (setTile (coreAt s s.cur.core) n t)
/-- scr.einfo of R187 for FRWAIT. -/
def frwaitInfo (reason f tag cell : Nat) : Word := BitVec.ofNat 64 (f * 2 ^ 48 + tag * 2 ^ 40 + 0x30B * 2 ^ 18 + reason * 2 ^ 12 + cell)

end Sys2Proof.Says

/-- R100-R105, R181, R185, R187: SRD and SWR, FMTSET and FMTGET, and FRWAIT, which waits for its messages, consumes its sends, reports a
parity failure, a mismatch or an overflow and is an acquire at PACKAGE scope. -/
def Obligations.Registers : Prop :=
  (∀ (s : State) (th : Thread) (p : Pred) (d : Reg), AtTurn s th p →
    (∀ r, CanUse s th (.srd p d r) [] (some d) → exec (.srd p d r) s = .next (wrote s th d (scrValue s th r))) ∧
    (∀ n : Fin 8, CanUse s th (.fmtget p d (.fmt n)) [] (some d) →
      exec (.fmtget p d (.fmt n)) s = .next (wrote s th d ((viewOf s s.cur th).fmt[n].setWidth 64)))) ∧
  (∀ (s : State) (th : Thread) (p : Pred) (r : ScrName) (a : Reg), AtTurn s th p → CanUse s th (.swr p r a) [a] none →
    (ScrLegal r (val s th [a] 0) → exec (.swr p r a) s =
      .next (passed (popped s th [a]) { th with scr := scrWritten th.scr r (val s th [a] 0) })) ∧
    (CanTrap th → ¬ ScrLegal r (val s th [a] 0) →
      exec (.swr p r a) s = .next (trapped s th ⟨0x01, 0, BitVec.ofNat 64 (0x392 + 1024)⟩))) ∧
  (∀ f : Fields, f.op = 0x392 → f.imm = 0 → f.rsv = false → f.mod.toNat ∈ [0x22, 0x32, 0x33, 0x40, 0x41, 0x42] →
    decodeFields f = .error ⟨2, 0, f.op⟩) ∧
  (∀ (s : State) (th : Thread) (p : Pred) (n : Fin 8), AtTurn s th p →
    (∀ a, CanUse s th (.fmtsetReg p (.fmt n) a) [a] none →
      (FmtLegal (val s th [a] 0) → exec (.fmtsetReg p (.fmt n) a) s =
        .next (passed (popped s th [a]) { th with fmt := th.fmt.set n ((val s th [a] 0).setWidth 32) })) ∧
      (CanTrap th → ¬ FmtLegal (val s th [a] 0) →
        exec (.fmtsetReg p (.fmt n) a) s = .next (trapped s th ⟨0x01, 0, BitVec.ofNat 64 (0x308 + 1024)⟩))) ∧
    (∀ pre sc sat, exec (.fmtsetPreset p (.fmt n) pre sc sat) s = .next (passed s { th with
      fmt := th.fmt.set n (BitVec.ofNat 32 (presetBase pre + scaleCode sc * 2 ^ 19 + if sat then 2 ^ 18 else 0)) }))) ∧
  (∀ (s : State) (th : Thread) (p : Pred) (k : Fin 8) (a : Reg), AtTurn s th p → CanUse s th (.frwait p (.acc k) a) [a] none →
    NoChannel [a] →
    let i := Instr.frwait p (.acc k) a
    let n := (val s th [a] 0).toNat % 256
    let t := tileOf s s.cur.core k
    let t' := { t with sends := t.sends - n, arr := 0, ann := 0, mism := none }
    (CanTrap th → t.sends = 256 → exec i s = .next (trapped s th ⟨0x32, 0, frwaitInfo 3 0 0 0⟩)) ∧
    (t.sends ≠ 256 → ¬ (n ≤ t.sends ∧ t.arr = t.ann) → exec i s = .next (setThread s s.cur
      { th with latch := some [val s th [a] 0], park := some ⟨.frwait k n, some i, s.now⟩, waited := 0 })) ∧
    (t.sends ≠ 256 → n ≤ t.sends → t.arr = t.ann → CanTrap th → ∀ c, Lowest (fun c => c < 256 ∧ c ∈ t.bad) c →
      exec i s = .next (trapped s th ⟨0x70, 0, frwaitInfo 0 0 0 c⟩)) ∧
    (t.sends ≠ 256 → n ≤ t.sends → t.arr = t.ann → (∀ c < 256, c ∉ t.bad) →
      (∀ c tag f, t.mism = some (c, tag, f) → CanTrap th →
        exec i s = .next (trapped (withTile s k t') th ⟨0x32, 0, frwaitInfo 2 f.toNat tag.toNat c.toNat⟩)) ∧
      (t.mism = none → th.scr.fctl.getLsbD 8 = true ∨ (∀ c < 256, ¬ CellOut (cellAt t c)) →
        ∃ u, exec i s = .next u ∧ thread? u s.cur = some (ended th (succPc th.pc) false) ∧ SameMemory s u ∧ SameOthers s u s.cur ∧
          Judged t' (tileOf u s.cur.core k) anyCell ∧ (∀ j, j ≠ k.val → tileOf u s.cur.core j = tileOf s s.cur.core j) ∧
          ∀ g, (clusterAt u g).cache = if g = myCluster s then (clusterAt s g).cache.filter (fun l => l.dirty ≠ 0) else (clusterAt s g).cache) ∧
      (t.mism = none → th.scr.fctl.getLsbD 8 = false → CanTrap th → ∀ c, Lowest (fun c => c < 256 ∧ CellOut (cellAt t c)) c →
        ∃ t2, exec i s = .next (trapped (withTile s k t2) th ⟨0x31, 0, frwaitInfo 0 0 0 c⟩) ∧ CellsOnly t' t2 ∧
          ∀ c, (c < 256 ∧ CellOut (cellAt t c) → cellAt t2 c = ⟨0, .nan⟩) ∧ (¬ (c < 256 ∧ CellOut (cellAt t c)) → cellAt t2 c = cellAt t c))))

namespace Sys2Proof.Says

/-- The current thread waits `d` cycles for part `n` of its instruction. -/
def waiting (s : State) (th : Thread) (i : Instr) (d n : Nat) : Thread :=
  inPart s th i (.until (s.now + d)) n
/-- The words of a frame image can be accessed near (R91, R250). -/
def FrameOk (s : State) (th : Thread) (base : Word) : Prop :=
  ∀ j < 32, let a := (base + BitVec.ofNat 64 (8 * j)).toNat
    nearFault (clusterAt s (myCluster s)) a .sync = none ∧ nearArea (clusterAt s (myCluster s)) a = none ∧
      blockers s th.uid (.near (myCluster s) a) = []
/-- The words of a frame image can be accessed far, at these places, through no cache. -/
def FarFrame (s : State) (th : Thread) (i : Instr) (base : Word) (write : Bool) (pl : Nat → Place × Word × Nat) : Prop :=
  ∀ j < 32, blockers s th.uid (pl j).1 = [] ∧ cached s (myCluster s) (pl j).1 ((pl j).2.1.getLsbD 4) = false ∧
    Leaves s (myCluster s) (pl j).1 ∧
    xlate s s.cur.core ⟨rootOf s th, base + BitVec.ofNat 64 (8 * j), !write, write, false, false, false, true, opOf i⟩ =
      .ok (pl j).1 (pl j).2.1 (pl j).2.2
/-- The thread parks for the far request of a frame image, and continues when it is answered. -/
def FrameAsked (s t : State) (i : Instr) (op : HomeOp) (base : Word) (pl : Nat → Place × Word × Nat) : Prop :=
  ∃ q, OnWay t q ∧ q.op = op ∧ q.src = s.cur ∧ q.lanes.Perm ((List.range 32).map (fun j =>
      ⟨j, (pl j).1, base + BitVec.ofNat 64 (8 * j), (pl j).2.1.getLsbD 5, (pl j).2.1.toNat % 65536, (pl j).2.2⟩)) ∧
    (thread? t s.cur).bind Thread.park = some ⟨.far q, some i, s.now⟩ ∧ SameMemory s t ∧ SameOthers s t s.cur
/-- The thread parks for the near requests of a frame image: word j is at its bank's port at now + 4 + j, and the whole has 17 cycles to
land after its last one, in all 52 (R91). -/
def WordsSent (s t : State) (i : Instr) (op : HomeOp) (base : Word) : Prop :=
  ∃ q x, x ∈ t.gathers ∧ x.id = q.opId ∧ q.opId = s.nextId ∧ x.q.op = op ∧ x.q.src = s.cur ∧ x.q.total = 17 ∧ x.parts.length = 32 ∧
    (∀ j < 32, ∃ y ∈ x.parts, y.op = op ∧ y.tag = j ∧ (s.now + 4 + j, reqEvent y) ∈ t.agenda ∧
      let a := base + BitVec.ofNat 64 (8 * j)
      y.lanes = [⟨j, .near (myCluster s) a.toNat, a, false, 0, 0⟩]) ∧
    (thread? t s.cur).bind Thread.park = some ⟨.homeWait q, some i, s.now⟩ ∧ SameMemory s t ∧ SameOthers s t s.cur
/-- A bank serves word `y` of a frame image: it is written or read, and when it is the last the thread that still waits is answered. -/
def WordServed : Prop :=
  ∀ (s : State) (g : Nat) (q : MemReq) (y : Lane) (x : Gather) (o : Host.Outcome State Fault Refusal), q.near = true → q.lanes = [y] →
    BankServes s g (.piece q) o → gatherOf s q.opId = some x → x.q.op = q.op → placeFault s q y = none →
    (q.data = false ∨ q.src.slot = 0 ∨ placeArea s q y = none) →
    let left := x.parts.filter (fun z => z.tag ≠ q.tag)
    let goes (t : State) (r : ReplyData) : Prop :=
      (left ≠ [] → ∃ z ∈ t.gathers, z.id = x.id ∧ z.parts = left ∧ z.q = x.q ∧ z.r = r) ∧
      (left = [] → awaits s x.q = true → (s.now + x.q.total, .reply x.q.src 2 r) ∈ t.agenda)
    (∀ ws, q.op = .writeFrame ws → ∃ t, o = .next t ∧ goes t x.r ∧
      ∀ p, placeGet t p = placeGet (placeWrite s y.place (leBytes 8 (ws.getD y.n 0))) p) ∧
    (q.op = .readFrame → placeErr s y.place 8 = false → ∃ t, o = .next t ∧ SameMemory s t ∧
      goes t { x.r with frame := x.r.frame ++ [(y.n, wordLE (placeRead s y.place 8))] })

end Sys2Proof.Says

/-- R91, R92: WSPILL writes the oldest resident frame's w0-w31 at scr.wsp and WFILL reads the newest spilled frame from below it,
near one word a cycle in 52 cycles, far through a request; then the frame leaves or joins the window and scr.wsp moves by 256. With nothing
to spill or fill they only end; a misaligned scr.wsp traps; WSPILL waits for the frame's outstanding loads. -/
def Obligations.WindowFrames : Prop :=
  (∀ (s : State) (th : Thread) (p : Pred) (near : Bool), AtTurn s th p →
    let wsp := th.scr.wsp
    (th.lower = [] → exec (.wspill p near) s = .next (passed s th)) ∧
    (th.lower.length = 5 ∨ th.depth = th.lower.length → exec (.wfill p near) s = .next (passed s th)) ∧
    (CanTrap th → wsp.toNat % 8 ≠ 0 → (th.lower ≠ [] → exec (.wspill p near) s = .next (trapped s th ⟨0x13, wsp, 8⟩)) ∧
      (th.lower.length ≠ 5 → th.depth ≠ th.lower.length → exec (.wfill p near) s = .next (trapped s th ⟨0x13, wsp, 8⟩))) ∧
    (∀ f, th.lower.getLast? = some f → wsp.toNat % 8 = 0 →
      let lo := (th.depth - th.lower.length) * 32
      let away : Prop := ∃ a, .w a ∈ th.absent ∧ lo ≤ a ∧ a < lo + 32
      (away → exec (.wspill p near) s = .next (setThread s s.cur
        { th with park := some ⟨.framePresent lo, some (.wspill p near), s.now⟩, waited := 0 })) ∧
      (¬ away → near = true → FrameOk s th wsp → ∃ t, exec (.wspill p near) s = .next t ∧
        WordsSent s t (.wspill p near) (.writeFrame f.toList) wsp) ∧
      (¬ away → near = false → ∀ pl, FarFrame s th (.wspill p near) wsp true pl →
        ∃ t, exec (.wspill p near) s = .next t ∧ FrameAsked s t (.wspill p near) (.writeFrame f.toList) wsp pl)) ∧
    (th.lower.length ≠ 5 → th.depth ≠ th.lower.length → wsp.toNat % 8 = 0 →
      let base := wsp - 256
      (near = true → FrameOk s th base → ∃ t, exec (.wfill p near) s = .next t ∧ WordsSent s t (.wfill p near) .readFrame base) ∧
      (near = false → ∀ pl, FarFrame s th (.wfill p near) base false pl →
        ∃ t, exec (.wfill p near) s = .next t ∧ FrameAsked s t (.wfill p near) .readFrame base pl))) ∧
  (∀ (s : State) (th : Thread) (p : Pred) (i : Instr), i = .wspill p false ∧ th.lower ≠ [] ∨
      i = .wfill p false ∧ th.lower.length ≠ 5 ∧ th.depth ≠ th.lower.length →
    InPart s th p 2 → exec i s = .next (setThread s s.cur (waiting s th i 3 3))) ∧
  (∀ (s : State) (th : Thread) (p : Pred) (near : Bool), InPart s th p 3 ∨ near = true ∧ InPart s th p 2 →
    (th.lower ≠ [] → exec (.wspill p near) s = .next
      (passed s { th with lower := th.lower.dropLast, scr := { th.scr with wsp := th.scr.wsp + 256 } })) ∧
    (th.lower.length ≠ 5 → th.depth ≠ th.lower.length → ∀ ws, th.latch = some ws →
      ∃ f : Vector Word 32, (∀ j : Fin 32, f[j] = ws.getD j 0) ∧ exec (.wfill p near) s = .next
        (passed s { th with lower := th.lower ++ [f], scr := { th.scr with wsp := th.scr.wsp - 256 } }))) ∧
  (∀ (s : State) (q : MemReq) (o : Host.Outcome State Fault Refusal), q.lanes ≠ [] → (∀ x ∈ q.lanes, placeFault s q x = none ∧
      (q.data = false ∨ q.src.slot = 0 ∨ placeArea s q x = none)) → TakenUp s q o → Fresh s q → q.parked = true →
    (∀ ws, q.op = .writeFrame ws → ∃ t, o = .next t ∧ ∀ p, placeGet t p =
      placeGet (q.lanes.foldl (fun s x => placeWrite s x.place (leBytes 8 (ws.getD x.n 0))) s) p) ∧
    (q.op = .readFrame → (∀ x ∈ q.lanes, placeErr s x.place 8 = false) → ∃ t, o = .next t ∧ SameMemory s t ∧
      AnswerOnWay t (.reply q.src q.tag ⟨0, 0, none, false, q.lanes.map (fun x => (x.n, wordLE (placeRead s x.place 8)))⟩))) ∧
  WordServed

/-! ### Reductions and digests -/

namespace Sys2Proof.Says

/-- A core's next round number of a group has been taken (R349), and its round is in flight. -/
def RoundTaken (s t : State) (core g : Nat) (digest : Bool) (k : Nat) (th : Thread) (tag : BitVec 8) : Prop :=
  let counts (c : Core) : List (Nat × Nat) := if digest then c.dgchkK else c.nredK
  k = (look g (counts (coreAt s core))).getD 0 ∧ (look g (counts (coreAt t core))).getD 0 = (k + 1) % 2 ^ 32 ∧
    (∀ h, h ≠ g → look h (counts (coreAt t core)) = look h (counts (coreAt s core))) ∧
    t.trust.inflight = s.trust.inflight ++ [⟨g, k, digest, s.cur, th.uid, th.launch, tag⟩]
/-- A cell's sum over the contributions to a round (R350): the states together, and N modulo 2^200. -/
def cellTerms (arr : List NredMsg) (c : Nat) : List (Special × Int) :=
  arr.filterMap (fun m => (m.cells.find? (fun y => y.1 = c)).map (fun y => (y.2.1, y.2.2)))
def sumState (arr : List NredMsg) (c : Nat) : Special := (cellTerms arr c).foldl (fun a x => stAdd a x.1) .fin
def sumValue (arr : List NredMsg) (c : Nat) : Int :=
  if sumState arr c = .fin then (BitVec.ofInt 200 ((cellTerms arr c).map Prod.snd).sum).toInt else 0
/-- The floor that a round delivers, and whether its contributions' floors differ (R351, R403). -/
def FloorOf (arr : List NredMsg) (f : BitVec 16) (fd : Bool) : Prop :=
  (∀ f0, (∀ a ∈ arr, a.f = f0) → f = f0 ∧ fd = false) ∧
  (∀ z ∈ arr, ∀ d ∈ arr, (∀ a ∈ arr, z.minm < a.minm ∨ a = z) → d.f ≠ z.f → (∀ a ∈ arr, a.f ≠ z.f → d.minm < a.minm ∨ a = d) →
    f = d.f ∧ fd = true)
/-- Trap 0x61 (R353). -/
def verdictTrap (g member : Nat) (dig : Word) (tag : BitVec 8) : TrapInfo :=
  ⟨0x61, 0, BitVec.ofNat 32 dig.toNat ++ BitVec.ofNat 12 g ++ BitVec.ofNat 12 member ++ tag⟩
/-- SHA-256's first eight bytes, byte 0 lowest (R352). -/
def digestOf (m : List Byte) : Word := BitVec.ofNat 64 (ofBytesLE ((sha256 m).take 8))
/-- The words that a DIGEST.N holds once block n is read: its operands, then the buffer's words. -/
def BlockIn (ws ws' : List Word) (n : Nat) (bs : List Byte) : Prop :=
  ws'.length = ws.length ∧ ∀ j, j < ws.length → ws'.getD j 0 =
    if 2 + 8 * n ≤ j ∧ j < 10 + 8 * n then wordLE ((bs.drop (8 * (j - 2 - 8 * n))).take 8) else ws.getD j 0
/-- A request has joined the queue of the die's SHA-256 engine (R352). -/
def JoinsSha (s t : State) (len : Nat) (who : ShaWho) : Prop :=
  t.shaQ = s.shaQ ++ [⟨s.cur.core / 256, myCluster s, s.now, (len + 72) / 64, who⟩]
/-- R352: a die's engine takes the request that joined first, of one cycle the lower cluster's; it is busy for 8 cycles a block, and the
digest is there 40 cycles later still. -/
def ShaRule : Prop :=
  (∀ (s : State) (die : Nat) (r : ShaReq), (∀ x ∈ s.shaQ, x.cluster < 128) → shaNext s die = some r →
    r ∈ s.shaQ ∧ r.die = die ∧ (look die s.shaFree).getD 0 ≤ s.now ∧
    ∀ x ∈ s.shaQ, x.die = die → r.joined < x.joined ∨ r.joined = x.joined ∧ r.cluster ≤ x.cluster) ∧
  (∀ (s : State) (r : ShaReq), (look r.die (shaTake s r).shaFree) = some (s.now + 8 * r.blocks) ∧ (shaTake s r).shaQ = s.shaQ.erase r ∧
    SameMemory s (shaTake s r) ∧
    (∀ uid t0 th pk, r.who = .thread uid → Only s uid t0 th → th.park = some pk → SameOthers s (shaTake s r) t0 ∧
      thread? (shaTake s r) t0 = some { th with park := some { pk with why := .until (s.now + 40 + 8 * r.blocks) } }) ∧
    (∀ core id, r.who = .entry core id → (s.now + (40 + 8 * r.blocks), .engineEntryDone core id) ∈ (shaTake s r).agenda) ∧
    ∀ g tok c, r.who = .copy g tok → copyOf s g tok = some c →
      (max (s.now + (40 + 8 * r.blocks)) c.endAt, .copyComplete g tok.toNat) ∈ (shaTake s r).agenda)

end Sys2Proof.Says

/-- R348-R353, R399, R402-R404: NRED joins the engine's queue with its core's next round, and its contribution sets out at its entry's
start; a round is delivered to its members once the contributions' counts total NMEMB. DGCHK parks until its verdict, which
the root sends when the last digest arrives. DIGEST.N reads its buffer block by block, and both DIGESTs write their digest.
In part the model's choice: logs 49, 81 and 82. -/
def Obligations.Reductions : Prop :=
  (∀ (s : State) (th : Thread) (p : Pred) (a b : Reg) (tag : BitVec 8), AtTurn s th p →
    (∀ mask, CanUse s th (.nred p a b tag mask) (a :: mask.toList) none →
      let rs := a :: mask.toList
      let i := Instr.nred p a b tag mask
      let g := (val s th rs 0).toNat
      (CanTrap th → 4096 ≤ g → exec i s = .next (trapped s th ⟨0x01, 0, BitVec.ofNat 64 (0x396 + 1024)⟩)) ∧
      (CanTrap th → g < 4096 → memberIndex s g s.cur.core = none →
        exec i s = .next (trapped s th ⟨0x11, val s th rs 0, 0x396 <<< 18⟩)) ∧
      (∀ m, g < 4096 → memberIndex s g s.cur.core = some m → ∃ th1, thread? (popped s th rs) s.cur = some th1 ∧
        (QueueFull s → exec i s = .next (setThread (popped s th rs) s.cur
          { th1 with latch := some (takeOps s th rs).2, park := some ⟨.engineQueue, some i, s.now⟩, waited := 0 })) ∧
        (¬ QueueFull s → ∃ t k, exec i s = .next t ∧ RoundTaken s t s.cur.core g false k th tag ∧
          thread? t s.cur = some (ended { th1 with st := th1.st + 1 } (succPc th.pc) false) ∧
          (coreAt t s.cur.core).engine = (coreAt (queued (popped s th rs)
            (entryFor s th (.nred g k (tileNo b) tag (maskVal s th rs mask 1) 0))) s.cur.core).engine ∧
          (∃ o, t.ops = s.ops ++ [o] ∧ o.id = s.nextId ∧ o.uid = th.uid ∧ o.kind = .msg) ∧
          SameMemory s t ∧ SameOthers s t s.cur ∧ t.agenda = (popped s th rs).agenda))) ∧
    (CanUse s th (.dgchk p a b tag) [a, b] none →
      let i := Instr.dgchk p a b tag
      let g := (val s th [a, b] 0).toNat
      (CanTrap th → 4096 ≤ g → exec i s = .next (trapped s th ⟨0x01, 0, BitVec.ofNat 64 (opOf i + 1024)⟩)) ∧
      (CanTrap th → g < 4096 → memberIndex s g s.cur.core = none →
        exec i s = .next (trapped s th ⟨0x11, val s th [a, b] 0, BitVec.ofNat 64 (opOf i) <<< 18⟩)) ∧
      (∀ m, g < 4096 → memberIndex s g s.cur.core = some m → ∃ t k, exec i s = .next t ∧ RoundTaken s t s.cur.core g true k th tag ∧
        (thread? t s.cur).bind Thread.park = some ⟨.event, none, s.now⟩ ∧ SameMemory s t ∧ SameOthers s t s.cur ∧
        (gRootPkg (groupLine s g) = s.pkg → AnswerOnWay t (.digestMessage g (BitVec.ofNat 20 k) m (val s th [a, b] 1) 1))))) ∧
  (∀ (s : State) (core : Nat) (e : EngEntry) (rest : List EngEntry) (g k n x : Nat) (tag : BitVec 8) (mask : Word) (m : Nat),
    (coreAt s core).engine.queue = e :: rest → MayStart s core e → e.op = .nred g k n tag mask x → memberIndex s g core = some m →
    Sound e.fov (tileOf s core n) (Selected mask) →
    ∃ t e', exec (.engineEntryStart core) s = .next t ∧ Started s t core e rest e' ∧
      Judged (tileOf s core n) (tileOf t core n) (Selected mask) ∧ ∃ msg : NredMsg, msg.group = g ∧ msg.round = BitVec.ofNat 20 k ∧
        msg.countM1 = 0 ∧ msg.minm = m ∧ msg.f = (tileOf s core n).floor ∧ msg.tag = tag ∧
        msg.cells = ((selCells mask).map (fun c => (c, (cellAt (tileOf t core n) c).st, (cellAt (tileOf t core n) c).n.toInt))).filter
          (fun y => y.2.1 != .fin || y.2.2 != 0) ∧
        (gRootPkg (groupLine s g) = s.pkg → AnswerOnWay t (.nredMessage msg))) ∧
  (∀ (s : State) (m : NredMsg),
    let arr := (roundOf s m.group m.round false).arrivals ++ [m]
    let total := (arr.map (fun a => a.countM1 + 1)).sum
    (total ≠ gNmemb (groupLine s m.group) → ∃ t, exec (.nredMessage m) s = .next t ∧ SameMemory s t ∧ SameThreads s t ∧
      (roundOf t m.group m.round false).arrivals = arr ∧ t.trust.inflight = s.trust.inflight) ∧
    (total = gNmemb (groupLine s m.group) → ∃ t f fd, exec (.nredMessage m) s = .next t ∧ SameMemory s t ∧ SameThreads s t ∧
      FloorOf arr f fd ∧ (roundOf t m.group m.round false).arrivals = [] ∧ flights t m.group m.round false = [] ∧
      ∀ fl ∈ flights s m.group m.round false, ∀ msg ∈ furrowMsgs fl.t.core fl.launch (gRootCore (groupLine s m.group)) 0 f fd fl.tag
        ((List.range 256).map (fun c => (c, sumValue arr c, sumState arr c))), AnswerOnWay t (.furrowMessage msg))) ∧
  (∀ (s : State) (g : Nat) (r : BitVec 20) (member : Nat) (dig : Word) (count : Nat), count ≠ 0 →
    let ds := (roundOf s g r true).digests ++ [(member, dig, count)]
    let total := (ds.map (fun a => a.2.2)).sum
    (total ≠ gNmemb (groupLine s g) → ∃ t, exec (.digestMessage g r member dig count) s = .next t ∧ SameMemory s t ∧ SameThreads s t ∧
      (roundOf t g r true).digests = ds ∧ t.agenda = s.agenda) ∧
    (total = gNmemb (groupLine s g) → ∃ t low d, exec (.digestMessage g r member dig count) s = .next t ∧ SameMemory s t ∧ SameThreads s t ∧
      (roundOf t g r true).digests = [] ∧ (s.now + 24, .digestMessage g r low d 0) ∈ t.agenda ∧
      ((∀ a ∈ ds, ∀ b ∈ ds, a.2.1 = b.2.1) → low = 4096) ∧
      ∀ z ∈ ds, (∀ a ∈ ds, z.1 < a.1 ∨ a = z) → ∀ b ∈ ds, b.2.1 ≠ z.2.1 → (∀ a ∈ ds, a.2.1 ≠ z.2.1 → b.1 < a.1 ∨ a = b) →
        low = b.1 ∧ d = b.2.1)) ∧
  (∀ (s : State) (g : Nat) (r : BitVec 20) (member : Nat) (dig : Word), ((flights s g r true).map InFlight.uid).Nodup → g < 4096 →
    member ≤ 4096 →
    ∃ t, exec (.digestMessage g r member dig 0) s = .next t ∧ SameMemory s t ∧ flights t g r true = [] ∧
      (∀ f ∈ flights s g r true, ∀ t0 th pk, Only s f.uid t0 th → th.park = some pk → thread? t t0 = some { th with
        park := some { pk with why := .engineDone (if member = 4096 then none else some (verdictTrap g member dig f.tag)) } }) ∧
      ∀ u, (∀ f ∈ flights s g r true, ∀ th, (u, th) ∈ allThreads s → th.uid ≠ f.uid) → thread? t u = thread? s u) ∧
  (∀ (s : State) (th : Thread) (p : Pred) (d a b : Reg), AtTurn s th p → CanUse s th (.digestN p d a b) [a, b] none →
    let i := Instr.digestN p d a b
    let off := val s th [a, b] 0
    let len := val s th [a, b] 1
    (CanTrap th → ∀ c ti, off.toNat ≤ c → c < off.toNat + len.toNat → engineTrap s (opOf i) c = some ti →
      (∀ c', off.toNat ≤ c' → c' < c → engineTrap s (opOf i) c' = none) → exec i s = .next (trapped s th ti)) ∧
    ((∀ c, off.toNat ≤ c → c < off.toNat + len.toNat → engineTrap s (opOf i) c = none) →
      ∃ th1, thread? (popped s th [a, b]) s.cur = some th1 ∧
      (engineBlockers s th.uid ≠ [] → exec i s = .next (setThread (popped s th [a, b]) s.cur
        { th1 with latch := some [off, len], park := some ⟨.opsDone (engineBlockers s th.uid), some i, s.now⟩, waited := 0 })) ∧
      (engineBlockers s th.uid = [] → ∃ t, exec i s = .next t ∧ SameMemory s t ∧ SameOthers s t s.cur ∧
        (len = 0 → JoinsSha s t 0 (.thread th.uid) ∧
          thread? t s.cur = some { inPart s th1 i .event 2 with latch := some [digestOf []] }) ∧
        (len ≠ 0 → t.shaQ = s.shaQ ∧
          thread? t s.cur = some { inPart s th1 i .event 1 with latch := some ([off, len] ++ List.replicate (8 * ((len.toNat + 63) / 64)) 0) } ∧
          ∀ n < (len.toNat + 63) / 64, ∀ c, off.toNat + 64 * n ≤ c → c < off.toNat + min (64 * n + 64) len.toNat →
            ∃ r ∈ (clusterAt t (myCluster s)).ports, r.act = .block s.cur th.uid n ∧ r.port = s.cur.core % 16 ∧
              r.at_ = some (s.now + 4 + n) ∧ liveBank (clusterAt s (myCluster s)) (c / 2 ^ 17) = some r.bank)))) ∧
  (∀ (s : State) (g n : Nat) (t0 : TId) (th : Thread) (off len : Word) (ws : List Word) (o : Host.Outcome State Fault Refusal),
    BankServes s g (.block t0 th.uid n) o → Only s th.uid t0 th → t0.core / 16 = g → th.latch = some ([off, len] ++ ws) →
    64 * n < len.toNat →
    (∀ a, off.toNat + 64 * n ≤ a → a < off.toNat + min (64 * n + 64) len.toNat →
      nearFault (clusterAt s g) a .engine = none ∧ nearArea (clusterAt s g) a = none ∧ placeErr s (.near g a) 1 = false) →
    let got := placeRead s (.near g (off.toNat + 64 * n)) (min 64 (len.toNat - 64 * n))
    ∃ t vs, o = .next t ∧ SameMemory s t ∧ SameOthers s t t0 ∧ BlockIn ([off, len] ++ ws) vs n got ∧
      ((∃ r ∈ (clusterAt t g).ports, ∃ u m, r.act = .block u th.uid m) → thread? t t0 = some { th with latch := some vs }) ∧
      ((∀ r ∈ (clusterAt t g).ports, ∀ u m, r.act ≠ .block u th.uid m) → thread? t t0 = some { th with
        latch := some vs, park := th.park.map (fun pk => { pk with why := .until (s.now + 17) }) })) ∧
  (∀ (s : State) (th : Thread) (p : Pred) (d a b : Reg) (off len : Word) (ws : List Word), InPart s th p 1 →
    th.latch = some ([off, len] ++ ws) → ∃ t, exec (.digestN p d a b) s = .next t ∧ SameMemory s t ∧ SameOthers s t s.cur ∧
      JoinsSha s t len.toNat (.thread th.uid) ∧ thread? t s.cur = some { inPart s th (.digestN p d a b) .event 2 with
        latch := some [digestOf ((ws.flatMap (leBytes 8)).take len.toNat)] }) ∧
  (∀ (s : State) (th : Thread) (p : Pred) (d a b : Reg) (v : Word) (i : Instr), i = .digestN p d a b ∨ i = .digestT p d b →
    InPart s th p 2 → th.latch = some [v] → CanUse s th i [] (some d) → exec i s = .next (woken s th d v)) ∧
  ShaRule

/-! ### Copies and tokens -/

namespace Sys2Proof.Says

/-- A token's entry and its state code in a cluster (R336); 4 is an unknown token. -/
def tokOf (s : State) (g : Nat) (tok : BitVec 16) : Option TokenEnt :=
  if tok = 0 then none else (look (tok.toNat % 1024) (clusterAt s g).tokens).filter (fun e => e.token = tok)
def tokState (s : State) (g : Nat) (tok : BitVec 16) : Nat := ((tokOf s g tok).map TokenEnt.state).getD 4
/-- The fault word of trap 0x50 and CTEST.FI (R343). -/
def faultWord (tok : BitVec 16) (cause : BitVec 8) (op kind : Nat) : Word :=
  tok ++ (0 : BitVec 8) ++ cause ++ (0 : BitVec 4) ++ BitVec.ofNat 10 op ++ (0 : BitVec 2) ++ BitVec.ofNat 4 kind ++ (0 : BitVec 12)
/-- What CTEST reads (R340). -/
def ctestWord (s : State) (g : Nat) (sel : CSel) (tok : BitVec 16) : Word :=
  match sel, tokOf s g tok with
  | .state, _ => BitVec.ofNat 64 (tokState s g tok)
  | .dg, some e => if e.state = 1 then e.digest else 0
  | .fi, some e => if e.state = 2 then (e.fault.map (fun f => faultWord tok f.2.1 0x381 f.1)).getD 0 else 0
  | .fa, some e => if e.state = 2 then (e.fault.map (fun f => f.2.2)).getD 0 else 0
  | _, none => 0
/-- Every kind of a faulted token fits its field. -/
def KindsOk (s : State) (g : Nat) : Prop := ∀ x ∈ (clusterAt s g).tokens, ∀ f, x.2.fault = some f → f.1 < 16
/-- The three instructions that take a token. -/
def tokenRow : Instr → Option (Pred × Reg × Reg × Bool)
  | .ctest p _ d a => some (p, d, a, false)
  | .cwait p d a => some (p, d, a, true)
  | .ccancel p d a => some (p, d, a, true)
  | _ => none
/-- A copy of a cluster, the only one with its token. -/
def CopyIs (s : State) (g : Nat) (tok : BitVec 16) (c : CopyEnt) : Prop :=
  c.token = tok ∧ c ∈ (clusterAt s g).copies ∧ ∀ x ∈ (clusterAt s g).copies, x.token = tok → x = c
/-- The copy has become `c'`; no other copy of the cluster has changed. -/
def CopyNow (s t : State) (g : Nat) (c c' : CopyEnt) : Prop :=
  (clusterAt t g).copies = (clusterAt s g).copies.map (fun x => if x.token = c.token then c' else x)
/-- The token has left pending: its entry has the state, its copy is gone once its reads have returned, and cp of its thread has
fallen (R336, R339, R342). -/
def Settled (s t : State) (g : Nat) (c : CopyEnt) (st : Nat) (fault : Option (Nat × BitVec 8 × Word)) : Prop :=
  (c.token ≠ 0 → tokOf t g c.token = some ⟨c.token, st, fault, if st = 1 then c.digest else 0⟩) ∧
    (c.reads = [] → (clusterAt t g).copies = (clusterAt s g).copies.filter (fun x => x.token ≠ c.token)) ∧
    ∀ uid t0 th, HoldsOp s c.op uid .cp → Only s uid t0 th →
      t.ops = s.ops.filter (fun o => o.id != c.op) ∧ SameOthers s t t0 ∧ ∃ th', thread? t t0 = some th' ∧ th'.cp = th.cp - 1
/-- The bytes of one side of a beat may be touched: R250 at a near bank, R254 and R258 through the aperture. -/
def ByteOk (s : State) (p : Place) : Prop :=
  match p with
  | .near g off => ∃ b, liveBank (clusterAt s g) (off / 2 ^ 17) = some b ∧ ((bankAt (clusterAt s g) b).mode = .scratch ∨
      (bankAt (clusterAt s g) b).mode = .watch ∧ off % 2 ^ 17 < 0x18000)
  | _ => True
def SideOk (s : State) (g : Nat) (near : Bool) (va : List Word) (ps : List Place) : Prop :=
  if near then ps = va.map (fun a => .near g a.toNat) ∧ ∀ a ∈ va, nearFault (clusterAt s g) a.toNat .copy = none else ∀ p ∈ ps, ByteOk s p
/-- The bytes of a beat as its read finds them, converted element by element (R362, R363). -/
def beatData (s : State) (r : Line) (b : CopyBeat) : List Byte :=
  let bs := (eachByte b.src).map (placeGet s)
  (List.range b.count).flatMap (fun i => convertElem r ((bs.drop (i * srcSize r)).take (srcSize r)))
/-- The bytes of a beat stand at its destination, the last where several fall on one place, and no other byte differs. -/
def BeatWritten (s t : State) (b : CopyBeat) : Prop :=
  ∀ q, placeGet t q = (((((eachByte b.dst).zip b.data).reverse.find? (fun x => x.1 = q)).map Prod.snd).getD (placeGet s q))
/-- The last payload write of a running copy has been issued (R342): none is left before its end or its fault. -/
def WritesOut (c : CopyEnt) : Prop :=
  match c.fault with
  | some f => ∀ b ∈ c.reads, f.beat ≤ b.n
  | none => ∃ r, c.shape = some r ∧ c.arrived = true ∧ shapeOk r = true ∧ c.reads = [] ∧ c.elem = shapeCount r ∧ c.beat ≠ 0

end Sys2Proof.Says

/-- R337, R338, R340-R343: CPY takes the cluster's next token and enqueues its copy, or parks while 64 copies wait; CTEST reads a token's
entry; CWAIT parks while it is pending, then writes its state or takes trap 0x50; CCANCEL takes effect 4 cycles after its
issue by the token's state, and answers in D. In part the model's choice: log 95. -/
def Obligations.CopyInstructions : Prop :=
  (∀ (s : State) (th : Thread) (p : Pred) (near sh : Bool) (d a : Reg) (b c : Option Reg), AtTurn s th p →
    let i := Instr.cpy p near sh d a b c
    let rs := a :: (b.toList ++ c.toList)
    let g := myCluster s
    CanUse s th i rs (some d) → ∃ th1, thread? (popped s th rs) s.cur = some th1 ∧
    let waiters := (clusterAt s g).copies.filter (fun x => x.engine = none)
    let n := (clusterAt s g).nextToken
    let tok := BitVec.ofNat 16 n
    (64 ≤ waiters.length → exec i s = .next (setThread (popped s th rs) s.cur
      { th1 with latch := some (takeOps s th rs).2, park := some ⟨.copyQueue, some i, s.now⟩, waited := 0 })) ∧
    (waiters.length < 64 → (∀ x ∈ (clusterAt s g).copies, x.token ≠ tok) → ∃ t e,
      exec i s = .next t ∧ (clusterAt t g).copies = (clusterAt (popped s th rs) g).copies ++ [e] ∧ e.token = tok ∧ e.engine = none ∧
      e.t = s.cur ∧ e.addr = val s th rs 0 ∧ e.near = near ∧ e.sh = sh ∧ e.before = earlier s th.uid ∧ e.root = rootOf s th ∧
      e.sb = (if b = none then none else some (val s th rs 1)) ∧
      e.db = (if c = none then none else some (val s th rs (if b = none then 1 else 2))) ∧
      (clusterAt t g).nextToken = (if n = 65535 then 1 else n + 1) ∧ (tok ≠ 0 → tokState t g tok = 0) ∧
      (∃ o, t.ops = s.ops ++ [o] ∧ o.id = e.op ∧ o.uid = th.uid ∧ o.kind = .cp) ∧
      thread? t s.cur = thread? (wrote (popped s th rs) { th with cp := th.cp + 1 } d (tok.setWidth 64)) s.cur ∧
      (coreAt t s.cur.core).k = (coreAt (wrote (popped s th rs) th d (tok.setWidth 64)) s.cur.core).k ∧ SameOthers s t s.cur ∧
      (near = true → e.addr.toNat % 64 = 0 → e.before = [] →
        (∀ j < 64, nearFault (clusterAt s g) (e.addr.toNat + j) .engine = none) → e.arrived = false ∧
        e.shape = some (BitVec.ofNat 512 (ofBytesLE (placeRead s (.near g e.addr.toNat) 64))) ∧
        ∃ q ∈ (clusterAt t g).ports, q.act = .copyRecord tok ∧ q.port = 16 ∧ q.at_ = some s.now) ∧
      ∀ q, (∀ l ∈ (clusterAt s g).cache, ∀ j < 64, l.dirty.getLsbD j = true → q ≠ placeAdd l.place j) → placeGet t q = placeGet s q)) ∧
  (∀ (i : Instr) (p : Pred) (d a : Reg) (parks : Bool), tokenRow i = some (p, d, a, parks) → ∀ (s : State) (th : Thread), AtTurn s th p →
    CanUse s th i [a] (some d) → KindsOk s (myCluster s) →
    let v := val s th [a] 0
    let tok : BitVec 16 := v.setWidth 16
    let g := myCluster s
    ∃ th1, thread? (popped s th [a]) s.cur = some th1 ∧
    (CanTrap th → 2 ^ 16 ≤ v.toNat → exec i s = .next (trapped s th ⟨0x01, 0, BitVec.ofNat 64 (opOf i + 1024)⟩)) ∧
    (v.toNat < 2 ^ 16 →
      (∀ sel, i = .ctest p sel d a → exec i s = .next (wrote (popped s th [a]) th d (ctestWord s g sel tok))) ∧
      (i = .cwait p d a → tokState s g tok = 0 → exec i s = .next (setThread (popped s th [a]) s.cur
        { th1 with latch := some [v], park := some ⟨.token tok, some i, s.now⟩, waited := 0 })) ∧
      (i = .cwait p d a → CanTrap th → ∀ e f, tokOf s g tok = some e → e.state = 2 → e.fault = some f →
        exec i s = .next (trapped s th ⟨0x50, f.2.2, faultWord tok f.2.1 0x382 f.1⟩)) ∧
      (i = .cwait p d a → tokState s g tok ≠ 0 → tokState s g tok ≠ 2 →
        exec i s = .next (wrote (popped s th [a]) th d (BitVec.ofNat 64 (tokState s g tok)))) ∧
      (i = .ccancel p d a → exec i s = .next (setThread (popped s th [a]) s.cur { waiting s th1 i 4 1 with latch := some [v] })))) ∧
  (∀ (s : State) (th : Thread) (p : Pred) (d a : Reg) (v : Word), th.latch = some [v] → v.toNat < 2 ^ 16 →
    let i := Instr.ccancel p d a
    let tok : BitVec 16 := v.setWidth 16
    let g := myCluster s
    let answered (th : Thread) (st : Nat) : Thread := { waiting s th i 4 2 with latch := some [v, BitVec.ofNat 64 st] }
    (InPart s th p 1 → (tokState s g tok ≠ 0 ∨ (∀ x ∈ (clusterAt s g).copies, x.token ≠ tok) →
        exec i s = .next (setThread s s.cur (answered th (tokState s g tok)))) ∧
      (∀ c, CopyIs s g tok c → tokState s g tok = 0 → c.engine = none → c.reads = [] → HoldsOp s c.op th.uid .cp → Only s th.uid s.cur th →
        ∃ t, exec i s = .next t ∧ Settled s t g c 3 none ∧ SameMemory s t ∧
          thread? t s.cur = some (answered { th with cp := th.cp - 1 } 3)) ∧
      (∀ c, CopyIs s g tok c → tokState s g tok = 0 → c.engine ≠ none → c.ending = false → c.cancelled = false → ¬ WritesOut c →
        let c' := { c with cancelled := true, reads := c.reads.filter (fun b => b.n ∉ c.waiting), waiting := [] }
        ∃ t, exec i s = .next t ∧ SameMemory s t ∧ SameOthers s t s.cur ∧ thread? t s.cur = some (inPart s th i (.token tok) 3) ∧
          (c.sent ≠ [] → CopyNow s t g c c') ∧
          (c.sent = [] → CopyNow s t g c { c' with ending := true, endAt := max s.now c.lastAck } ∧
            (max s.now c.lastAck, .copyComplete g tok.toNat) ∈ t.agenda)) ∧
      (∀ c, CopyIs s g tok c → tokState s g tok = 0 → c.engine ≠ none → c.ending = true ∨ c.cancelled = true ∨ WritesOut c →
        exec i s = .next (setThread s s.cur (inPart s th i (.token tok) 3)))) ∧
    (InPart s th p 3 → CanUse s th i [] (some d) → exec i s = .next (woken s th d (BitVec.ofNat 64 (tokState s g tok)))) ∧
    ∀ st, InPart s { th with latch := some [v, st] } p 2 → CanUse s { th with latch := some [v, st] } i [] (some d) →
      exec i s = .next (woken s { th with latch := some [v, st] } d st))

/-- R338, R339, R361-R363, R365, R367, R371: a free engine takes the head of the queue once the thread's earlier accesses and the write-back
are complete; a far record is read at its issue and arrives in its time; a beat's elements are read and converted as its source home
serves them, and written as its destination's does, and nothing else; a copy's end makes its token done, with its completion
word or tag written, a cancelled one's cancelled, and a fault's faulted. In part the model's choice: logs 48 and 95. -/
def Obligations.CopyEngines : Prop :=
  (∀ (s : State) (g e : Nat) (c : CopyEnt), (clusterAt s g).copies.find? (fun x => x.engine = none) = some c → CopyIs s g c.token c →
    let free := (∀ x ∈ (clusterAt s g).copies, x.engine ≠ some e) ∧ (look e (clusterAt s g).engFree).getD 0 ≤ s.now
    let ready := (∀ o ∈ s.ops, o.id ∉ c.before) ∧ (c.arrived = true → c.back = true ∧ c.ready ≤ s.now)
    (¬ (free ∧ ready) → exec (.copyEngineTake g e) s = .next s) ∧
    (free → ready →
      ∃ t, exec (.copyEngineTake g e) s = .next t ∧ CopyNow s t g c { c with engine := some e, cycle := s.now + 9 } ∧ SameMemory s t ∧
        SameThreads s t ∧ t.ops = s.ops ∧ t.agenda = s.agenda)) ∧
  (∀ (s : State) (g : Nat) (tok : BitVec 16) (c : CopyEnt), CopyIs s g tok c →
    (c.arrived = true → exec (.copyRecordArrival g tok.toNat) s = .next s) ∧
    (∀ r, c.arrived = false → c.shape = some r →
      ((∃ o ∈ s.ops, o.id ∈ c.before) → ∃ t, exec (.copyRecordArrival g tok.toNat) s = .next t ∧
        CopyNow s t g c { c with arrived := true } ∧ SameMemory s t ∧ SameThreads s t) ∧
      ((∀ o ∈ s.ops, o.id ∉ c.before) → c.back = false → (∀ l ∈ (clusterAt s g).cache, l.dirty = 0) →
        ∃ t, exec (.copyRecordArrival g tok.toNat) s = .next t ∧ SameMemory s t ∧ SameThreads s t ∧ CopyNow s t g c { c with
          arrived := true, back := true, ready := s.now, cycle := if c.engine = none then c.cycle else max c.cycle (s.now + 9) })) ∧
    (∀ s1 d pl e lvl w, c.arrived = false → c.shape = none → c.fault = none → c.addr.toNat % 64 = 0 → c.near = false → c.before = [] →
      clusterPlace s g { copyXl c.root c.addr false with opc := 0x380 } = (s1, d, .ok (pl, e, lvl, w)) →
      cached s g pl (e.getLsbD 4) = false → apertureFault s pl = none → placeErr s pl 64 = false →
      ∃ t, exec (.copyRecordArrival g tok.toNat) s = .next t ∧ SameMemory s t ∧ SameThreads s t ∧
        CopyNow s t g c { c with shape := some (BitVec.ofNat 512 (ofBytesLE (placeRead s pl 64))) } ∧
        (s.now + (d + farTime g pl false), .copyRecordArrival g tok.toNat) ∈ t.agenda)) ∧
  (∀ (s : State) (g g0 : Nat) (tok : BitVec 16) (c : CopyEnt) (r : Line) (b : CopyBeat) (o : Host.Outcome State Fault Refusal),
    CopyIs s g tok c → c.shape = some r →
    (BankServes s g0 (.copyRead g tok b.n) o → c.reads.find? (fun x => x.n = b.n) = some b →
      (1 < b.left → ∃ t, o = .next t ∧ SameMemory s t ∧ SameThreads s t ∧ t.agenda = s.agenda) ∧
      (b.left ≤ 1 → SideOk s g (shSnear r) (elemBytes c r b.first b.count false) (eachByte b.src) →
        (∀ p ∈ eachByte b.src, placeErr s p 1 = false) →
        ∃ t, o = .next t ∧ SameMemory s t ∧ SameThreads s t ∧
          (s.now + restTime g (shSnear r) b.src, .copyBeatWrite g tok.toNat b.n) ∈ t.agenda ∧
          CopyNow s t g c { c with
            reads := c.reads.map (fun x => if x.n = b.n then { x with data := beatData s r b, bad := none, left := 0 } else x) })) ∧
    (BankServes s g0 (.copyWrite g tok b.n) o → c.sent.find? (fun x => x.n = b.n) = some b →
      (1 < b.left → ∃ t, o = .next t ∧ SameMemory s t ∧ SameThreads s t) ∧
      (b.left ≤ 1 → (shDnear r && copyShadow c) = false → SideOk s g (shDnear r) (elemBytes c r b.first b.count true) (eachByte b.dst) →
        ∃ t, o = .next t ∧ SameThreads s t ∧ BeatWritten s t b))) ∧
  (∀ (s : State) (g : Nat) (tok : BitVec 16) (c : CopyEnt) (r : Line) (b : CopyBeat), CopyIs s g tok c → c.cancelled = false →
    c.fault = none → c.shape = some r → c.reads.find? (fun x => x.n = b.n) = some b → c.waiting = [] → b.dstAt ≤ s.now →
    (∀ k a, b.bad = some (k, a) → ∃ t c', exec (.copyBeatWrite g tok.toNat b.n) s = .next t ∧ CopyNow s t g c c' ∧
      c'.fault = some ⟨b.n, 2, k, a⟩ ∧ SameMemory s t ∧ SameThreads s t) ∧
    (b.bad = none → shDnear r = false → pageFault c true (elemBytes c r b.first b.count true) = none →
      ((∀ p ∈ eachByte b.dst, ∀ g' off, p ≠ .near g' off) →
        ∃ t, exec (.copyBeatWrite g tok.toNat b.n) s = .next t ∧ SameThreads s t ∧ BeatWritten s t b) ∧
      (∀ g' off k bank, b.dst = [(.near g' off, k)] → 0 < k → off % 2 ^ 15 + k ≤ 2 ^ 15 →
        liveBank (clusterAt s g') (off / 2 ^ 17) = some bank →
        ∃ t, exec (.copyBeatWrite g tok.toNat b.n) s = .next t ∧ SameMemory s t ∧ SameThreads s t ∧
          ∃ x ∈ (clusterAt t g').ports, x.act = .copyWrite g tok b.n ∧ x.bank = bank ∧ x.port = 18 ∧
            x.at_ = some (s.now + farTime g (.near g' 0) false / 2)))) ∧
  (∀ (s : State) (g : Nat) (tok : BitVec 16) (c : CopyEnt), CopyIs s g tok c →
    (c.cancelled = true → ∃ t, exec (.copyComplete g tok.toNat) s = .next t ∧ SameMemory s t ∧ Settled s t g c 3 none) ∧
    (∀ r, c.cancelled = false → c.shape = some r → c.wrote = [] → ctlBit r 2 = false → (ctlBit r 1 = false →
        ∃ t, exec (.copyComplete g tok.toNat) s = .next t ∧ SameMemory s t ∧ Settled s t g c 1 none) ∧
      (ctlBit r 1 = true → shAnear r = true →
        let va := r.extractLsb' 128 64
        (nearFault (clusterAt s g) va.toNat .copy = none → va.toNat % 8 = 0 →
          ∃ t, exec (.copyComplete g tok.toNat) s = .next t ∧ Settled s t g c 1 none ∧
            placeRead t (.near g va.toNat) 8 = bytesLE (ctl r 16 16) 8 ∧
            ∀ q, (∀ j < 8, q ≠ .near g (va.toNat + j)) → placeGet t q = placeGet s q) ∧
        (va.toNat % 8 ≠ 0 → ∃ t, exec (.copyComplete g tok.toNat) s = .next t ∧ SameMemory s t ∧ Settled s t g c 2 (some (4, 0x13, va))))) ∧
    (∀ r, c.cancelled = false → c.shape = some r → c.wrote = [] → ctlBit r 1 = false → ctlBit r 2 = true → shAnear r = true →
      let va := r.extractLsb' 128 64
      let p : Place := .near g va.toNat
      nearFault (clusterAt s g) va.toNat .copy = none →
      (placeGet s p = 1 → ∃ t, exec (.copyComplete g tok.toNat) s = .next t ∧ Settled s t g c 1 none ∧ placeGet t p = 2 ∧
        ∀ q, q ≠ p → placeGet t q = placeGet s q) ∧
      (placeGet s p ≠ 1 → ∃ t, exec (.copyComplete g tok.toNat) s = .next t ∧ SameMemory s t ∧ Settled s t g c 2 (some (5, 0x01, va)))) ∧
    (∀ f, c.fault = some f → ∃ t, exec (.copyFault g tok.toNat) s = .next t ∧ SameMemory s t ∧
      Settled s t g c 2 (some (f.kind, f.cause, f.addr))))

/-! ### Bank modes and publishing -/

namespace Sys2Proof.Says

/-- Bank `b` of a cluster's map. -/
def bankOf (s : State) (g b : Nat) : Bank := bankAt (clusterAt s g) b
/-- The modes with a logical slot that accesses reach, and those that a SHADOW bank may twin (R249, R255). -/
def serves (m : BankMode) : Prop := m = .scratch ∨ m = .watch ∨ m = .fifo
def twinned (m : BankMode) : Prop := m = .scratch ∨ m = .watch
/-- The mode of a bank's entry once bank `b` has the mode `m` at `slot`. -/
def newMap (s : State) (g b : Nat) (m : BankMode) (slot i : Nat) : BankMode × Nat :=
  if i = b then (m, slot) else ((bankOf s g i).mode, (bankOf s g i).slot)
/-- Why BANKCFG is refused: the REASON of R254, by R255. -/
def Clash (s : State) (g b : Nat) (m : BankMode) (slot : Nat) : Prop :=
  serves m ∧ ∃ i < 32, i ≠ b ∧ serves (bankOf s g i).mode ∧ (bankOf s g i).slot = slot
def Twinless (s : State) (g b : Nat) (m : BankMode) (slot : Nat) : Prop :=
  ∃ i < 32, (newMap s g b m slot i).1 = .shadow ∧ ∀ j < 32, ¬ (twinned (newMap s g b m slot j).1 ∧ (newMap s g b m slot j).2 = (newMap s g b m slot i).2)
def HasBankPerm (s : State) (th : Thread) : Prop := ∃ l, launchOf s th.launch = some l ∧ l.lrec.flags.getLsbD 3 = true
def Refused (s : State) (g : Nat) (th : Thread) (b : Nat) (m : Option BankMode) (slot reason : Nat) : Prop :=
  match m with
  | none => reason = 7
  | some m =>
    (Clash s g b m slot → reason = 6) ∧
    (¬ Clash s g b m slot →
      ((bankOf s g b).mode = .off ∨ Twinless s g b m slot → reason = 7) ∧
      (¬ ((bankOf s g b).mode = .off ∨ Twinless s g b m slot) → (¬ HasBankPerm s th → reason = 8) ∧
        (HasBankPerm s th → reason = 9 ∧ sharedCluster s g th.launch = true)))
/-- The new mode that BANKCFG's operand names (R148): none for OFF and the reserved codes. -/
def namedMode (v : Nat) : Option BankMode := [BankMode.cache, .scratch, .watch, .fifo, .shadow][v / 2 ^ 13 % 8]?
def codeOf : BankMode → Nat
  | .cache => 0 | .scratch => 1 | .watch => 2 | .fifo => 3 | .shadow => 4 | .off => 7
/-- The mode of the bank that serves a logical slot, 7 when none does (R254). -/
def servedAs (s : State) (g slot : Nat) : Nat :=
  match bankWhere (clusterAt s g) (fun x => x.slot = slot && (x.mode = .scratch || x.mode = .watch || x.mode = .fifo)) with
  | some b => codeOf (bankOf s g b).mode
  | none => 7
/-- BANKCFG's trap (R254). -/
def bankTrapInfo (s : State) (g slot r : Nat) : TrapInfo :=
  ⟨0x14, BitVec.ofNat 64 (slot * 2 ^ 17), BitVec.ofNat 64 (servedAs s g slot * 2 ^ 21 + slot * 2 ^ 16 + r * 2 ^ 12 + 0x385)⟩
/-- A bank is zeroed on a change of mode, or only its top 32 KiB (R256). -/
def Blanked (old m : BankMode) : Prop := m ≠ .cache ∧ (old = .cache ∨ old = .fifo ∨ m = .fifo)
def TopCleared (old m : BankMode) : Prop := ¬ Blanked old m ∧ (m = .watch ∨ m = .scratch ∧ old = .watch)
/-- Byte x of bank b of a cluster. -/
def bankByte (s : State) (g b x : Nat) : Byte := memGet s.sram ((g * 32 + b) * 2 ^ 17 + x)
/-- Only bank `b` of cluster `g` differs, and is now `x`. -/
def BankNow (s t : State) (g b : Nat) (x : Bank) : Prop :=
  bankOf t g b = x ∧ (∀ i, i ≠ b → bankOf t g i = bankOf s g i) ∧ ∀ h, h ≠ g → (clusterAt t h).banks = (clusterAt s h).banks
/-- scr.einfo of trap 0x51 (R347). -/
def swapWord (tok : BitVec 16) (reason slot : Nat) : Word := BitVec.ofNat 64 (tok.toNat * 2 ^ 48 + 0x384 * 2 ^ 18 + reason * 2 ^ 12 + slot)
/-- The live bank and the twin of a logical slot (R253). -/
def LiveAt (s : State) (g i b : Nat) : Prop := bankWhere (clusterAt s g) (fun x => x.slot = i && (x.mode = .scratch || x.mode = .watch)) = some b
def TwinAt (s : State) (g i b : Nat) : Prop := twinBank (clusterAt s g) i = some b
/-- The thread in slot `u` waits for a near publish with these operands. -/
def PublishWaits (s : State) (u : TId) (th : Thread) (pk : Park) (mask tok : Word) : Prop :=
  thread? s u = some th ∧ th.park = some pk ∧ th.latch = some [mask, tok] ∧ ∀ e ∈ s.agenda, ∀ v, e.2 ≠ .publishSwap v
/-- The addresses that a list of pages covers, lowest page first (R346: whole pages are held). -/
def spanOf (pages : List (Nat × Word × Nat)) : Nat × Nat :=
  match pages.head?, pages.getLast? with
  | some a, some b => (a.1, b.1 + 2 ^ (16 + 10 * b.2.2))
  | _, _ => (0, 0)
/-- The frame that the export entry of a window frame names. -/
def frameOfExport (s : State) (frame : Nat) : Nat := ((exportEntry s frame).extractLsb' 16 27).toNat
/-- PUBLISH.G's pages are translated: every page's leaf is in the core's and the cluster's TLB, and the release at SYS scope begins. -/
def PublishFound (s s' : State) (th : Thread) (i : Instr) (pages : List (Nat × Word × Nat)) : Prop :=
  let f := pages.foldl (fun y x => fillTlb y s.cur.core (rootOf s th) (canonVa x.1) x.2.1 x.2.2) s'
  ∃ r c, Released f r .sys c ∧ exec i s = .next (setThread r s.cur { inPart s th i .drain 2 with release := some c })
/-- The thread goes on in its last part, for the reason `w`. -/
def swapped (th : Thread) (pk : Park) (w : Why) (n : Nat) : Thread := { th with cont := n, park := some { pk with why := w } }

end Sys2Proof.Says

/-- R254-R256, R306: BANKCFG's refusals, its wait for a bank in transition, and its acceptance; the start of a transition refuses what
another BANKCFG has made refused by then, and else gives the bank its new entry, holds it and zeroes it as the change asks, and its completion releases it. In part the model's choice: log 51. -/
def Obligations.BankChanges : Prop :=
  (∀ (s : State) (th : Thread) (p : Pred) (a : Reg), AtTurn s th p → CanUse s th (.bankcfg p a) [a] none → NoChannel [a] →
    let v := (val s th [a] 0).toNat
    let b := v % 32
    let slot := v / 256 % 32
    let i := Instr.bankcfg p a
    let g := myCluster s
    (CanTrap th → v / 32 % 8 ≠ 0 ∨ 2 ^ 16 ≤ v → exec i s = .next (trapped s th ⟨0x01, 0, BitVec.ofNat 64 (0x385 + 1024)⟩)) ∧
    (v / 32 % 8 = 0 → v < 2 ^ 16 →
      (∀ r, CanTrap th → Refused s g th b (namedMode v) slot r → exec i s = .next (trapped s th (bankTrapInfo s g slot r))) ∧
      (∀ m, namedMode v = some m → (∀ r, ¬ Refused s g th b (some m) slot r) →
        ((bankOf s g b).waitStart ≠ none ∨ (bankOf s g b).held ≠ none → exec i s = .next (setThread s s.cur
          { th with latch := some [val s th [a] 0], park := some ⟨.until (s.now + 1), some i, s.now⟩, waited := 0 })) ∧
        ((bankOf s g b).waitStart = none → (bankOf s g b).held = none → ∃ t, exec i s = .next t ∧
          BankNow s t g b { bankOf s g b with waitStart := some (s.cur, m, slot) } ∧ SameMemory s t ∧ SameOthers s t s.cur ∧
          thread? t s.cur = some { inPart s th i .event 1 with latch := some [val s th [a] 0] })))) ∧
  (∀ (s : State) (th : Thread) (p : Pred) (a : Reg) (v : Word), InPart s th p 1 → th.latch = some [v] →
    exec (.bankcfg p a) s = .next (passed s th)) ∧
  (∀ (s : State) (g b : Nat), b < 32 →
    ((bankOf s g b).waitStart = none → exec (.bankcfgStart g b) s = .next s) ∧
    (∀ u m slot, (bankOf s g b).waitStart = some (u, m, slot) → bankQuiet s g b = false → exec (.bankcfgStart g b) s = .next s) ∧
    (∀ u m slot th pk r, (bankOf s g b).waitStart = some (u, m, slot) → bankQuiet s g b = true → thread? s u = some th → th.park = some pk →
      Refused s g th b (some m) slot r → ∃ t, exec (.bankcfgStart g b) s = .next t ∧ SameMemory s t ∧ SameOthers s t u ∧
        BankNow s t g b { bankOf s g b with waitStart := none } ∧
        thread? t u = some { th with park := some { pk with why := .trapNow (bankTrapInfo s g slot r) } }) ∧
    (∀ u m slot th pk, (bankOf s g b).waitStart = some (u, m, slot) → bankQuiet s g b = true → thread? s u = some th → th.park = some pk →
      (∀ r, ¬ Refused s g th b (some m) slot r) → bankWaiters s g b = [] → fifoParked s g b = [] → (∀ l ∈ (clusterAt s g).cache, l.way = b → l.dirty = 0) →
      let old := (bankOf s g b).mode
      ∃ t d, exec (.bankcfgStart g b) s = .next t ∧
        (old = m → d = 16 ∧ SameMemory s t) ∧
        (old ≠ m → (Blanked old m → m = .watch → d = 16 + 1024 + 256) ∧ (Blanked old m → m ≠ .watch → d = 16 + 1024) ∧
          (TopCleared old m → d = 16 + 256) ∧ (¬ Blanked old m → ¬ TopCleared old m → d = 16) ∧
          (∀ x < 2 ^ 17, bankByte t g b x ≠ bankByte s g b x → bankByte t g b x = 0 ∧ (Blanked old m ∨ TopCleared old m ∧ 0x18000 ≤ x)) ∧
          (∀ x < 2 ^ 17, Blanked old m ∨ TopCleared old m ∧ 0x18000 ≤ x → bankByte t g b x = 0) ∧
          (∀ h c x, x < 2 ^ 17 → (h ≠ g ∨ c ≠ b) → c < 32 → bankByte t h c x = bankByte s h c x) ∧
          t.hbm = s.hbm ∧ t.host = s.host ∧ t.peers = s.peers) ∧
        BankNow s t g b { bankOf s g b with mode := m, slot := slot, watch := if m = .watch then th.scr.watch else 0
                                            held := some (s.now + d), waitStart := none } ∧
        (s.now + d, .bankcfgComplete g b) ∈ t.agenda ∧ SameOthers s t u ∧
        thread? t u = some { th with park := some { pk with why := .until (s.now + d) } }) ∧
    (∃ t, exec (.bankcfgComplete g b) s = .next t ∧
      BankNow s t g b { bankOf s g b with held := none } ∧ SameMemory s t ∧ SameThreads s t))

/-- R344-R347: PUBLISH waits for its token and its thread's earlier accesses, and 8 cycles after its issue at the earliest exchanges the
entries of every masked slot's live bank and twin in one cycle, or none and traps; PUBLISH.G translates its pages, takes a refusal's trap
once that is known, releases, holds the pages, and at its publish point swaps each page's leaf to its twin frame; it ends once no peer
holds one of the frames. In part the model's choice: log 50. -/
def Obligations.Publishing : Prop :=
  (∀ (s : State) (th : Thread) (p : Pred) (a b : Reg), AtTurn s th p → CanUse s th (.publish p a b) [a, b] none → NoChannel [a, b] →
    let i := Instr.publish p a b
    let mask := val s th [a, b] 0
    let tok := val s th [a, b] 1
    let st := tokState s (myCluster s) (tok.setWidth 16)
    (CanTrap th → 2 ^ 32 ≤ mask.toNat ∨ 2 ^ 16 ≤ tok.toNat → exec i s = .next (trapped s th ⟨0x01, 0, BitVec.ofNat 64 (0x384 + 1024)⟩)) ∧
    (mask.toNat < 2 ^ 32 → tok.toNat < 2 ^ 16 →
      let held (w : Why) : Thread := { th with latch := some [mask, tok], release := some s.now, park := some ⟨w, some i, s.now⟩, waited := 0 }
      (tok ≠ 0 → st = 0 → exec i s = .next (setThread s s.cur (held (.token (tok.setWidth 16))))) ∧
      (∀ r, CanTrap th → tok ≠ 0 → (st, r) ∈ [(2, 0), (3, 1), (4, 2)] →
        exec i s = .next (trapped s th ⟨0x51, 0, swapWord (tok.setWidth 16) r 0⟩)) ∧
      (tok = 0 ∨ st = 1 → (earlier s th.uid ≠ [] → exec i s = .next (setThread s s.cur (held (.opsDone (earlier s th.uid))))) ∧
        (earlier s th.uid = [] → ∃ t, exec i s = .next t ∧ t = { setThread s s.cur (held .event) with agenda := t.agenda } ∧
          (s.now + 8, .publishSwap s.cur) ∈ t.agenda)))) ∧
  (∀ (s : State) (u : TId) (th : Thread) (pk : Park) (mask tok : Word), PublishWaits s u th pk mask tok →
    let g := u.core / 16
    ((∀ i < 32, mask.getLsbD i = true → ∃ b w, LiveAt s g i b ∧ TwinAt s g i w) →
      ∃ t, exec (.publishSwap u) s = .next t ∧ SameOthers s t u ∧ t.hbm = s.hbm ∧ t.host = s.host ∧ t.peers = s.peers ∧
        (∀ i < 32, ∀ b w, mask.getLsbD i = true → LiveAt s g i b → TwinAt s g i w →
          (bankOf t g b).mode = .shadow ∧ (bankOf t g b).slot = i ∧ (bankOf t g w).mode = (bankOf s g b).mode ∧ (bankOf t g w).slot = i ∧
          (bankOf t g w).watch = (bankOf s g b).watch ∧ (∀ x < 2 ^ 17, bankByte t g b x = bankByte s g b x) ∧
          ∀ x < 2 ^ 17, bankByte t g w x = if (bankOf s g b).mode = .watch ∧ 0x18000 ≤ x then 0 else bankByte s g w x) ∧
        (∀ c < 32, (∀ i < 32, mask.getLsbD i = true → ¬ LiveAt s g i c ∧ ¬ TwinAt s g i c) → bankOf t g c = bankOf s g c) ∧
        ((∀ i < 32, ∀ b, mask.getLsbD i = true → LiveAt s g i b → (bankOf s g b).mode = .scratch) →
          thread? t u = some (swapped th pk (.until (s.now + 4)) 2)) ∧
        ((∃ i < 32, ∃ b, mask.getLsbD i = true ∧ LiveAt s g i b ∧ (bankOf s g b).mode = .watch) →
          thread? t u = some (swapped th pk (.until (s.now + 256)) 2))) ∧
    (∀ i < 32, mask.getLsbD i = true → (∀ j < i, mask.getLsbD j = true → ∃ b w, LiveAt s g j b ∧ TwinAt s g j w) →
      (∀ r, (∀ b, ¬ LiveAt s g i b) ∧ r = 3 ∨ (∃ b, LiveAt s g i b) ∧ (∀ w, ¬ TwinAt s g i w) ∧ r = 4 →
        exec (.publishSwap u) s = .next (setThread s u
          (swapped th pk (.trapNow ⟨0x51, BitVec.ofNat 64 (i * 2 ^ 17), swapWord (tok.setWidth 16) r i⟩) 2))))) ∧
  (∀ (s : State) (th : Thread) (p : Pred) (a b : Reg) (mask tok : Word), InPart s th p 2 → th.latch = some [mask, tok] →
    mask.toNat < 2 ^ 32 → tok.toNat < 2 ^ 16 → exec (.publish p a b) s = .next (passed s th)) ∧
  (∀ (s : State) (th : Thread) (p : Pred) (a b c : Reg), AtTurn s th p → CanUse s th (.publishG p a b c) [a, b, c] none →
    NoChannel [a, b, c] →
    let i := Instr.publishG p a b c
    let vs := (takeOps s th [a, b, c]).2
    let tok := val s th [a, b, c] 2
    let st := tokState s (myCluster s) (tok.setWidth 16)
    (CanTrap th → 2 ^ 16 ≤ tok.toNat → exec i s = .next (trapped s th ⟨0x01, 0, BitVec.ofNat 64 (opOf i + 1024)⟩)) ∧
    (∀ r, CanTrap th → tok.toNat < 2 ^ 16 → tok ≠ 0 → (st, r) ∈ [(2, 0), (3, 1), (4, 2)] →
      exec i s = .next (trapped s th ⟨0x51, 0, swapWord (tok.setWidth 16) r 0⟩)) ∧
    (tok.toNat < 2 ^ 16 → tok ≠ 0 → st = 0 → exec i s = .next (setThread s s.cur
      { th with latch := some vs, park := some ⟨.token (tok.setWidth 16), some i, s.now⟩, waited := 0 })) ∧
    (tok.toNat < 2 ^ 16 → tok = 0 ∨ st = 1 → ∀ s', let lo := (val s th [a, b, c] 0).toNat % 2 ^ 57
      let r := publishPages (setThread s s.cur { th with latch := some vs }) s.cur.core (rootOf s th) (tok.setWidth 16)
        (min (2 ^ 57) (lo + (val s th [a, b, c] 1).toNat)) 1024 lo 0
      (∀ d ans, r = (s', d, ans) → SameMemory s s' ∧ SameOthers s s' s.cur) ∧
      (∀ d ans, r = (s', d, ans) → d ≠ 0 → exec i s = .next (setThread s' s.cur { waiting s th i d 1 with latch := some vs })) ∧
      (∀ pages, r = (s', 0, .ok pages) → PublishFound s s' { th with latch := some vs } i pages) ∧
      (∀ ti, r = (s', 0, .error ti) → CanTrap th → ∃ t, exec i s = .next t ∧ SameMemory s t ∧ SameOthers s t s.cur ∧
        thread? t s.cur = some (ended { th with scr := trapScr th ti } th.scr.tvec true)))) ∧
  (∀ (s : State) (th : Thread) (p : Pred) (a b c : Reg) (va len tok : Word), th.latch = some [va, len, tok] → tok.toNat < 2 ^ 16 →
    let i := Instr.publishG p a b c
    let lo := va.toNat % 2 ^ 57
    let hi := min (2 ^ 57) (lo + len.toNat)
    let s0 := setThread s s.cur th
    (InPart s th p 1 → ∀ ans, (publishPages s0 s.cur.core (rootOf s th) (tok.setWidth 16) hi 1024 lo 0).2.2 = ans →
      (∀ pages, ans = .ok pages → PublishFound s s0 th i pages) ∧
      (∀ ti, ans = .error ti → CanTrap th → th.pops = [] → exec i s = .next (trapped s0 th ti))) ∧
    (InPart s th p 2 → (th.st ≠ 0 ∨ s.now < th.release.getD 0 →
        exec i s = .next (setThread s s.cur { inPart s th i .drain 2 with release := some (th.release.getD 0) })) ∧
      (th.st = 0 → th.release.getD 0 ≤ s.now → ∃ r c, Released s0 r .sys c ∧
        (s.now < c → exec i s = .next (setThread r s.cur { inPart s th i .drain 2 with release := some c })) ∧
        (c = s.now → lo = hi → exec i s = .next (passed r th)) ∧
        (c = s.now → lo < hi → ∀ ans, (publishPages r s.cur.core (rootOf s th) (tok.setWidth 16) hi 1024 lo 0).2.2 = ans →
          (∀ ti, ans = .error ti → CanTrap th → th.pops = [] → exec i s = .next (trapped r th ti)) ∧
          (∀ pages, ans = .ok pages → ∃ t d, exec i s = .next t ∧ SameOthers s t s.cur ∧ 400 + 16 * pages.length ≤ d ∧
            ((∀ x ∈ r.clusters, ∀ l ∈ x.2.cache, l.dirty = 0) → SameMemory s t ∧ d = 400 + 16 * pages.length) ∧
            (∀ g, ∀ l ∈ (clusterAt t g).cache, ∀ x ∈ pages, inFrames x.2.1 x.2.2 l.place = false) ∧
            thread? t s.cur = some { th with park := some ⟨.event, some i, s.now⟩, waited := 0 } ∧
            t.pageHolds = s.pageHolds ++ [⟨th.uid, rootOf s th, (spanOf pages).1, (spanOf pages).2⟩] ∧
            (s.now + d, .publishPoint s.cur) ∈ t.agenda)))) ∧
    (InPart s th p 3 → exec i s = .next (passed s th))) ∧
  (∀ (s s' : State) (u : TId) (th : Thread) (pk : Park) (va len tok : Word) (d : Nat) (x : Nat × Word × Nat) (e : Word), thread? s u = some th →
    th.park = some pk → th.latch = some [va, len, tok] → th.cont ≠ 4 → (∀ x ∈ s.clusters, ∀ l ∈ x.2.cache, l.dirty = 0) →
    let lo := va.toNat % 2 ^ 57
    let root := rootOf s th
    publishPages s u.core root 0 (min (2 ^ 57) (lo + len.toNat)) 1024 lo 0 = (s', d, .ok [x]) → inFlightTo s [x] = false →
    twinLeaf x.2.1 x.2.2 = some e → s.holders = [] →
    ∃ t, exec (.publishPoint u) s = .next t ∧ SameOthers s t u ∧ thread? t u = some (swapped th pk (.until s.now) 3) ∧
      t.pageHolds = s.pageHolds.filter (fun h => h.uid ≠ th.uid) ∧
      t.hbm = memPutBytes s.hbm (leafEntryAddr s root (canonVa x.1) root 3) (leBytes 8 e) ∧ t.sram = s.sram ∧ t.host = s.host ∧
      t.peers = s.peers ∧ (∀ y ∈ t.cores, ∀ f ∈ y.2.tlb, ¬ (f.root = root ∧ f.vpn * 2 ^ f.bits = x.1)) ∧
      ∀ y ∈ t.clusters, ∀ f ∈ y.2.tlb, ¬ (f.root = root ∧ f.vpn * 2 ^ f.bits = x.1)) ∧
  (∀ (s : State) (u : TId) (th : Thread) (pk : Park) (va len tok : Word) (pages : List (Nat × Word × Nat)), thread? s u = some th →
    th.park = some pk → th.latch = some [va, len, tok] →
    (publishPages s u.core (rootOf s th) 0 (min (2 ^ 57) (va.toNat % 2 ^ 57 + len.toNat)) 1024 (va.toNat % 2 ^ 57) 0).2.2 = .ok pages →
    let again : State := { s with agenda := agendaPut s.agenda (s.now + 1) (.publishPoint u) }
    let held := ∃ h ∈ s.holders, ∃ x ∈ pages, inFrames x.2.1 x.2.2 (.hbm (frameOfExport s h.frame * 65536)) = true
    (th.cont ≠ 4 → inFlightTo s pages = true → exec (.publishPoint u) s = .next again) ∧
    (th.cont = 4 → held → exec (.publishPoint u) s = .next again) ∧
    (th.cont = 4 → ¬ held → ∃ t, exec (.publishPoint u) s = .next t ∧ SameMemory s t ∧ SameOthers s t u ∧
      thread? t u = some (swapped th pk (.until s.now) 3) ∧ t.pageHolds = s.pageHolds.filter (fun h => h.uid ≠ th.uid)))

/-! ### Translation -/

namespace Sys2Proof.Says

/-- Cores and clusters in the scope of a TLBINV, its time, and whether its release is a wide one (R106, R268). -/
def reaches (sc : TScope) (me c : Nat) : Prop :=
  match sc with
  | .core => c = me
  | .cluster => c / 16 = me / 16
  | .die => c / 256 = me / 256
  | .pkg => True
def reachesCluster (sc : TScope) (me g : Nat) : Prop :=
  match sc with
  | .core => False
  | .cluster => g = me / 16
  | .die => g / 16 = me / 256
  | .pkg => True
def tlbinvTime : TScope → Nat
  | .core => 16 | .cluster => 40 | .die => 120 | .pkg => 400
/-- The range of a TLBINV in the 57-bit space; .ALL has none. `n` bytes at `lo` lie in it in part. -/
def rangeOf (va len : Word) : Option (Nat × Nat) := some (va.toNat % 2 ^ 57, min (2 ^ 57) (va.toNat % 2 ^ 57 + len.toNat))
def Overlaps (r : Option (Nat × Nat)) (lo n : Nat) : Prop := ∀ a b, r = some (a, b) → lo < b ∧ a < lo + n
def tlbRow : Instr → Option (Pred × TScope × List Reg)
  | .tlbinv p sc a b => some (p, sc, [a, b])
  | .tlbinvAll p sc => some (p, sc, [])
  | _ => none
/-- The course of a TLBINV that is under way, with its range. -/
def Course (th : Thread) (i : Instr) (p : Pred) (sc : TScope) (r : Option (Nat × Nat)) : Prop :=
  (∃ a b va len, i = .tlbinv p sc a b ∧ th.latch = some [va, len] ∧ r = rangeOf va len) ∨ i = .tlbinvAll p sc ∧ r = none
/-- A walk of the scope, the root and the range is not finished: a thread waits for the translation, or a fetch or a copy for one of the
walks under way. -/
def WalkAsked (s : State) (me : Nat) (sc : TScope) (w : Walk) : Prop :=
  (∃ e ∈ s.agenda, ∃ t va, e.2 = .lineFetchArrival t va ∧ (∃ x ∈ s.cores, x.1 = t.core) ∧ reaches sc me t.core ∧ va.toNat / 65536 = w.page) ∨
    ∃ x ∈ s.clusters, reachesCluster sc me x.1 ∧ ∃ c ∈ x.2.copies, c.root = w.root ∧ ∃ y ∈ c.pages, s.now < y.at_ ∧
      y.vpn * 2 ^ y.bits / 65536 ≤ w.page % 2 ^ 41 ∧ w.page % 2 ^ 41 ≤ (y.vpn * 2 ^ y.bits + 2 ^ y.bits - 1) / 65536
def WalkOpen (s : State) (me : Nat) (sc : TScope) (root : Nat) (r : Option (Nat × Nat)) : Prop :=
  (∃ u th pk x leaf, (u, th) ∈ allThreads s ∧ reaches sc me u.core ∧ th.park = some pk ∧ pk.why = .translation x leaf ∧ x.root = root ∧
    Overlaps r (x.va.toNat % 2 ^ 57) 1) ∨
  ∃ w ∈ s.walks, s.now < w.done ∧ w.root = root ∧ Overlaps r (w.page * 65536 % 2 ^ 57) 65536 ∧ WalkAsked s me sc w
/-- An access of the scope, the root and the range that was issued by cycle c is not complete: one that parks its thread, a posted one,
also of a thread that has quit, or one of a copy. -/
def Touches (r : Option (Nat × Nat)) (q : MemReq) : Prop :=
  q.near = false ∧ ∃ x ∈ placesOf q, Overlaps r (x.va.toNat % 2 ^ 57) (opBytes q.op)
def CopyOpen (s : State) (me : Nat) (sc : TScope) (root : Nat) (r : Option (Nat × Nat)) (c : Nat) : Prop :=
  let on (va : Word) (n : Nat) : Prop := Overlaps r (va.toNat % 2 ^ 57) n
  ∃ x ∈ s.clusters, reachesCluster sc me x.1 ∧ ∃ y ∈ x.2.copies, y.root = root ∧
    (y.near = false ∧ y.arrived = false ∧ on y.addr 64 ∨
     ∃ l, y.shape = some l ∧ ((∃ b ∈ y.reads ++ y.sent, b.issued ≤ c ∧
         ((shSnear l = false ∧ ∃ a ∈ elemBytes y l b.first b.count false, on a 1) ∨
          (shDnear l = false ∧ ∃ a ∈ elemBytes y l b.first b.count true, on a 1))) ∨
       (y.ending = true ∧ hasAux l = true ∧ shAnear l = false ∧ on (auxAddr l) 1)))
def AccessOpen (s : State) (me : Nat) (sc : TScope) (root : Nat) (r : Option (Nat × Nat)) (c : Nat) : Prop :=
  (∃ u th pk q, (u, th) ∈ allThreads s ∧ reaches sc me u.core ∧ rootOf s th = root ∧ th.park = some pk ∧ pk.why = .far q ∧ q.tag ≠ 2 ∧
    pk.since ≤ c ∧ Touches r q) ∨
  (∃ o ∈ s.ops, ∃ q, reaches sc me o.t.core ∧ (queueAt s (queueOfLaunch o.launch)).root.toNat = root ∧ o.tag ≠ none ∧
    (o.lastSent ≤ c ∨ o.resends ≠ 0) ∧ o.q = some q ∧ Touches r q) ∨
  CopyOpen s me sc root r c
/-- The scope of TLBINV's release. -/
def releaseScope : TScope → Scope
  | .core => .core | .cluster => .cl | .die => .die | .pkg => .pkg
/-- A message to a peer's agent or cluster has left the package (R384, R385). -/
def PeerSent (t : State) (dst : Nat) (ev : Instr) : Prop := ∃ e ∈ t.outbox, e.pkg = dst ∧ e.ev = ev
/-- No external port has a key, so that none counts its frames. -/
def Unkeyed (s : State) : Prop := ∀ p, portOpen s p = true ∧ (linkAt s (2 * p + 1)).key = none

/-- The entry of a table that a level of the walk reads (R377, R378). -/
def tableWord (s : State) (tbl : Nat) (va : Word) (l : Nat) : Word :=
  wordLE (memBytes s.hbm (tbl + 8 * (va.toNat / 2 ^ (16 + 10 * l) % (if l = 3 then 2048 else 1024))) 8)
def apOf (e : Word) : Nat := (e.extractLsb' 8 2).toNat
def frameOf (e : Word) : Nat := (e.extractLsb' 16 27).toNat
def tableOf (e : Word) : Nat := (e.extractLsb' 13 30).toNat * 8192
def GoodTable (e : Word) (l : Nat) : Prop :=
  e.extractLsb' 1 9 = 0 ∧ e.getLsbD 12 = false ∧ e.extractLsb' 43 21 = 0 ∧ tableOf e < 2 ^ 40 ∧ (l = 3 → e.getLsbD 13 = false)
def GoodLeaf (e : Word) (l : Nat) : Prop :=
  e.extractLsb' 12 4 = 0 ∧ apOf e ≠ 3 ∧ (apOf e = 1 ∨ e.extractLsb' 43 21 = 0) ∧ frameOf e % 2 ^ (10 * l) = 0
/-- The walk from a table of a level finds the leaf `e` of level `l`. -/
def LeafIn (s : State) (va e : Word) (l : Nat) : Nat → Nat → Prop
  | tbl, 0 => let x := tableWord s tbl va 0
    x.getLsbD 0 = true ∧ x.extractLsb' 10 2 = 0 ∧ GoodLeaf x 0 ∧ l = 0 ∧ e = x
  | tbl, n + 1 => let x := tableWord s tbl va (n + 1)
    x.getLsbD 0 = true ∧ (x.extractLsb' 10 2 = 3 ∧ GoodTable x (n + 1) ∧ LeafIn s va e l (tableOf x) n ∨
      n + 1 < 3 ∧ (x.extractLsb' 10 2).toNat = n + 1 ∧ GoodLeaf x (n + 1) ∧ l = n + 1 ∧ e = x)
/-- What a leaf gives: an address, and the first refusal of R379. -/
def pageAddr (e : Word) (l : Nat) (va : Word) : Nat := frameOf e * 65536 + va.toNat % 2 ^ (16 + 10 * l)
def LocalAddr (a : Nat) : Bool := decide (a < 2 ^ 40) || decide (2 ^ 42 ≤ a) && decide (a < 2 ^ 42 + 2 ^ 29)
def refusalOf (x : Xl) (e : Word) (l : Nat) : Option (Nat × Nat) :=
  if apOf e = 0 ∧ LocalAddr (pageAddr e l x.va) = false then some (0x10, 3)
  else if x.noPerm = false ∧ (x.read = true ∧ e.getLsbD 1 = false ∨ x.write = true ∧ e.getLsbD 2 = false ∨
      x.fetch = true ∧ (e.getLsbD 3 = false ∨ apOf e = 1)) then some (0x11, 4)
  else if x.data = true ∧ e.getLsbD 5 = true ∧ e.getLsbD 4 = false then some (0x11, 5)
  else if x.home = true ∧ apOf e = 1 ∧ e.getLsbD 7 = false then some (0x12, 7)
  else none
/-- The refusal of an export entry (R384). -/
def exportRefusal (x : Xl) (n : Word) : Option (Nat × Nat) :=
  if x.noPerm = true then none
  else if n.getLsbD 0 = false then some (0x10, 6)
  else if x.read = true ∧ n.getLsbD 1 = false ∨ x.write = true ∧ n.getLsbD 2 = false ∨ x.home = true ∧ n.getLsbD 3 = false then some (0x11, 6)
  else none
/-- The trap of a refused page; a fetch reports 0x06 (R379, R407). -/
def pageTrap (x : Xl) (cause reason : Nat) (e : Word) (l : Nat) : TrapInfo :=
  ⟨if x.fetch then 0x06 else BitVec.ofNat 8 cause, x.va, BitVec.ofNat 64 ((e.toNat % 2 ^ 16) * 2 ^ 32 +
    ((if x.read then 1 else 0) + (if x.write then 2 else 0) + (if x.fetch then 4 else 0) + (if x.home then 8 else 0)) * 2 ^ 16 +
    reason * 2 ^ 12 + l * 2 ^ 10 + x.opc)⟩
/-- The leaf that a thread's translation ends with: the cluster TLB's, or the walk's. -/
def LeafFor (s : State) (t : TId) (x : Xl) (e : Word) (l : Nat) : Prop :=
  (∃ n, tlbHit (clusterAt s (t.core / 16)).tlb x.root x.va = some n ∧ n.leaf = e ∧ n.level = l) ∨
    tlbHit (clusterAt s (t.core / 16)).tlb x.root x.va = none ∧ walk s x.root x.va = .leaf e l
/-- A TLB holds the translation of an address. -/
def Translates (l : List TlbEnt) (x : Xl) (e : Word) : Prop :=
  ∃ n ∈ l, n.root = x.root ∧ x.va.toNat % 2 ^ 57 / 2 ^ n.bits = n.vpn ∧ n.leaf = e
/-- The thread is parked for a translation: for a walk, or for a peer's answer on the AP=01 leaf that the walk has found. -/
def Translating (s : State) (t : TId) (th : Thread) (pk : Park) (x : Xl) (leaf : Option (Word × Nat)) : Prop :=
  thread? s t = some th ∧ th.park = some pk ∧ pk.why = .translation x leaf
/-- The translation is granted: the core's TLB, and the cluster's, hold the leaf, and the thread goes on. -/
def Granted (s t' : State) (t : TId) (th : Thread) (pk : Park) (x : Xl) (e : Word) : Prop :=
  SameMemory s t' ∧ SameOthers s t' t ∧ thread? t' t = some { th with park := some { pk with why := .until s.now } } ∧
    (tlbHit (coreAt s t.core).tlb x.root x.va = none → Translates (coreAt t' t.core).tlb x e) ∧
    (tlbHit (clusterAt s (t.core / 16)).tlb x.root x.va = none → Translates (clusterAt t' (t.core / 16)).tlb x e)
/-- The thread's wait is over, or ends in a trap. -/
def settledAs (th : Thread) (pk : Park) (w : Why) : Thread := { th with park := some { pk with why := w } }
/-- An access of cluster g to a frame of a peer is not complete: a thread's, or a copy's. -/
def PeerAccess (s : State) (pkg g frame : Nat) : Prop :=
  let on (p : Place) : Prop := ∃ a, p = .peer pkg a ∧ a / 65536 = frame
  let hits (q : MemReq) : Prop := q.src.core / 16 = g ∧ ∃ y ∈ placesOf q, on y.place
  (∃ o ∈ s.ops, ∃ q, o.q = some q ∧ hits q) ∨ (∃ u th pk q, (u, th) ∈ allThreads s ∧ th.park = some pk ∧ pk.why = .far q ∧ hits q) ∨
    ∃ c ∈ (clusterAt s g).copies, (∃ b ∈ c.reads ++ c.sent, ∃ z ∈ b.src ++ b.dst, on z.1) ∨
      (c.ending = true ∧ ∃ n p k, c.aux = some (n, some p, k) ∧ on p)
/-- The mailbox takes a command (R412, R427). -/
def MailFree (s : State) : Prop := s.boot.ready = true ∧ s.boot.busy = false
/-- The mailbox answers. -/
def mailed (s : State) (n : Nat) : State := { s with boot := { s.boot with mailbox := n } }

end Sys2Proof.Says

/-- R106-R108, R376-R385, R412, R441: TLBINV releases at its scope, waits for the walks that overlap its range, drops the
translations of the range's pages in its scope and no others, waits its scope time and for the accesses of those translations. A
page walk finds the leaf of the tables; its end fills the TLBs, asks the peer's agent, which is asked again at the timeout of R393, or
refuses; only a granted leaf enters a TLB. Peer
translations are granted, invalidated and released. A line arrives from the cache or its home; a steward's, from the firmware. In part
the model's choice: logs 26, 32, 75, 91 and 97. -/
def Obligations.Translation : Prop :=
  (∀ (s : State) (th : Thread) (i : Instr) (p : Pred) (sc : TScope) (rs : List Reg), tlbRow i = some (p, sc, rs) → AtTurn s th p →
    CanUse s th i rs none → ∃ t c th1, exec i s = .next t ∧ thread? (popped s th rs) s.cur = some th1 ∧ SameOthers s t s.cur ∧
      s.now ≤ c ∧ thread? t s.cur = some { inPart s th1 i .drain 1 with
        release := some c, latch := if rs = [] then none else some (takeOps s th rs).2 } ∧
      (sc = .core ∨ sc = .cluster → SameMemory s t ∧ c = s.now) ∧
      (sc = .die ∨ sc = .pkg → (∀ l ∈ (clusterAt t (myCluster s)).cache, l.dirty = 0) ∧
        BytesHome s t (clusterAt s (myCluster s)).cache ∧
        ∀ l ∈ (clusterAt s (myCluster s)).cache, l.dirty ≠ 0 → s.now + farTime (myCluster s) l.place false ≤ c)) ∧
  (∀ (s : State) (th : Thread) (i : Instr) (p : Pred) (sc : TScope) (r : Option (Nat × Nat)) (c : Nat), Course th i p sc r →
    th.release = some c →
    let root := rootOf s th
    let me := s.cur.core
    (InPart s th p 1 →
      (¬ (th.st = 0 ∧ c ≤ s.now) → exec i s = .next (setThread s s.cur (inPart s th i .drain 1))) ∧
      (th.st = 0 ∧ c ≤ s.now → ∃ u c', Released s u (releaseScope sc) c' ∧
        (s.now < c' → exec i s = .next (setThread u s.cur { inPart s th i .drain 1 with release := some c' })) ∧
        (c' = s.now → (∀ a, r = some (a, a) → exec i s = .next (passed u th)) ∧
          ((∀ a, r ≠ some (a, a)) → exec i s = .next (setThread u s.cur
            { waiting s th i 0 2 with release := some (s.now + tlbinvTime sc) }))))) ∧
    (InPart s th p 2 → (WalkOpen s me sc root r → exec i s = .next (setThread s s.cur (waiting s th i 1 2))) ∧
      (¬ WalkOpen s me sc root r → let dead (g : Nat) (e : PeerTlbEnt) : Prop := (g = me / 16 ∨ reachesCluster sc me g) ∧ e.dead = false ∧
          e.root = root ∧ ∃ y ∈ e.pages, Overlaps r (y * 65536) 65536
        ∃ t, exec i s = .next t ∧ SameOthers s t s.cur ∧ (Unkeyed s → SameMemory s t ∧
          ∀ x ∈ s.clusters, clusterAt s x.1 = x.2 → ∀ e ∈ x.2.peerTlb, dead x.1 e →
            PeerSent t e.pkg (.invalidationAck s.pkg x.1 e.frame 1 true)) ∧
        thread? t s.cur = some { waiting s th i (c - s.now) 3 with release := some s.now } ∧
        (∀ k e, e ∈ (coreAt t k).tlb ↔ e ∈ (coreAt s k).tlb ∧
          ¬ (reaches sc me k ∧ e.root = root ∧ Overlaps r (e.vpn * 2 ^ e.bits) (2 ^ e.bits))) ∧
        (∀ g e, e ∈ (clusterAt t g).tlb ↔ e ∈ (clusterAt s g).tlb ∧
          ¬ (reachesCluster sc me g ∧ e.root = root ∧ Overlaps r (e.vpn * 2 ^ e.bits) (2 ^ e.bits))) ∧
        ∀ g e, e ∈ (clusterAt t g).peerTlb ↔ e ∈ (clusterAt s g).peerTlb ∧ ¬ dead g e)) ∧
    (InPart s th p 3 → (AccessOpen s me sc root r c → exec i s = .next (setThread s s.cur (waiting s th i 1 3))) ∧
      (¬ AccessOpen s me sc root r c → exec i s = .next (passed s th)))) ∧
  (∀ (s : State) (root : Nat) (va e : Word) (l : Nat),
    (walk s root va = .leaf e l ↔ root < 2 ^ 40 ∧ root % 16384 = 0 ∧ LeafIn s va e l root 3) ∧
    (∀ r, walk s root va = .bad r e l → r = 0 ∧ e.getLsbD 0 = false ∨ r = 1)) ∧
  (∀ (s : State) (t : TId), (∀ th pk x, ¬ Translating s t th pk x none) → exec (.walkComplete t) s = .next s) ∧
  (∀ (s : State) (t : TId), (∀ th pk x e l, ¬ Translating s t th pk x (some (e, l))) →
    ∀ g pkg fr n, exec (.translationReply g pkg fr n t) s = .next s) ∧
  (∀ (s : State) (t : TId) (th : Thread) (pk : Park) (x : Xl), Translating s t th pk x none →
    (∀ r e l, tlbHit (clusterAt s (t.core / 16)).tlb x.root x.va = none → walk s x.root x.va = .bad r e l →
      exec (.walkComplete t) s = .next (setThread s t (settledAs th pk (.trapNow (pageTrap x 0x10 r e l))))) ∧
    (∀ e l, LeafFor s t x e l →
      (∀ c r, refusalOf x e l = some (c, r) →
        exec (.walkComplete t) s = .next (setThread s t (settledAs th pk (.trapNow (pageTrap x c r e l))))) ∧
      (refusalOf x e l = none → apOf e ≠ 1 → ∃ t', exec (.walkComplete t) s = .next t' ∧ Granted s t' t th pk x e) ∧
      (refusalOf x e l = none → apOf e = 1 → let pkg := (e.extractLsb' 43 21).toNat
        let fr := pageAddr e l x.va / 65536
        let held := peerHit (clusterAt s (t.core / 16)) x.root pkg fr
        (held = none ∨ (∃ y, held = some y ∧ y.entry.getLsbD 0 = false ∧ x.noPerm = false) → Leaves s (t.core / 16) (.peer pkg 0) →
          ∃ t', exec (.walkComplete t) s = .next t' ∧ SameMemory s t' ∧ SameOthers s t' t ∧
            thread? t' t = some { th with park := some { pk with why := .translation x (some (e, l)), since := s.now } } ∧
            (s.now + 1400, .translationRequest false pkg (t.core / 16) fr t) ∈ t'.agenda ∧
            (s.now + 131072, .requestTimeout t 2) ∈ t'.agenda ∧ (coreAt t' t.core).tlb = (coreAt s t.core).tlb ∧
            (clusterAt t' (t.core / 16)).tlb = (clusterAt s (t.core / 16)).tlb) ∧
        (∀ y, held = some y → x.noPerm = true ∨ y.entry.getLsbD 0 = true →
          (∀ c r, exportRefusal x y.entry = some (c, r) →
            exec (.walkComplete t) s = .next (setThread s t (settledAs th pk (.trapNow (pageTrap x c r e l))))) ∧
          (exportRefusal x y.entry = none → ∃ t', exec (.walkComplete t) s = .next t' ∧ Granted s t' t th pk x e))))) ∧
  (∀ (s : State) (t : TId) (th : Thread) (pk : Park) (x : Xl) (e : Word) (l g pkg fr : Nat) (n : Word),
    Translating s t th pk x (some (e, l)) → let here := (e.extractLsb' 43 21).toNat = pkg ∧ pageAddr e l x.va / 65536 = fr
    (¬ here → exec (.translationReply g pkg fr n t) s = .next s) ∧
    (here → (∀ c r, exportRefusal x n = some (c, r) → exec (.translationReply g pkg fr n t) s =
          .next (setThread s t (settledAs th pk (.trapNow (pageTrap x c r e l))))) ∧
      (exportRefusal x n = none → ∃ t' z, exec (.translationReply g pkg fr n t) s = .next t' ∧ Granted s t' t th pk x e ∧
        z ∈ (clusterAt t' g).peerTlb ∧ z.root = x.root ∧ z.pkg = pkg ∧ z.frame = fr ∧ z.entry = n ∧ z.dead = false)) ∧
    (let k := (s.now - pk.since) / 131072
     let own := (e.extractLsb' 43 21).toNat
     (k = 0 → exec (.requestTimeout t 2) s = .next s) ∧
     (1 ≤ k → k ≤ 3 → Leaves s (t.core / 16) (.peer own 0) → ∃ t', exec (.requestTimeout t 2) s = .next t' ∧ SameMemory s t' ∧ SameThreads s t' ∧
       (s.now + 1400, .translationRequest false own (t.core / 16) (pageAddr e l x.va / 65536) t) ∈ t'.agenda ∧
       (s.now + 131072, .requestTimeout t 2) ∈ t'.agenda) ∧
     (k = 4 → CanTrap th → th.pops = [] → ∃ t', exec (.requestTimeout t 2) s = .next t' ∧ OnlyCores s t' ∧ SameOthers s t' t ∧
       thread? t' t = some (ended { th with
         scr := trapScr th ⟨0x70, x.va, BitVec.ofNat 64 (7 * 2 ^ 32 + x.opc * 2 ^ 18)⟩ } th.scr.tvec true)))) ∧
  (∀ (s : State) (pkg g fr : Nat) (t : TId), exec (.translationRequest false pkg g fr t) s =
      .next (later s 1400 (.translationReply g pkg fr ((look fr (peerAt s pkg).exports).getD 0) t)) ∧
    let same (h : Holder) : Prop := h.pkg = pkg ∧ h.cluster = g ∧ h.frame = fr
    ∃ t', exec (.translationRequest true pkg g fr t) s = .next t' ∧ SameThreads s t' ∧ ⟨pkg, g, fr, s.now⟩ ∈ t'.holders ∧
      (∀ h ∈ t'.holders, same h → h.granted = s.now) ∧
      (s.holders.length < 65536 → ∀ h ∈ s.holders, ¬ same h → h ∈ t'.holders) ∧
      (Unkeyed s → SameMemory s t' ∧
        PeerSent t' pkg (.translationReply g s.pkg fr (wordLE (placeRead s (physPlace s (s.exportTable + BitVec.ofNat 64 (8 * fr))) 8)) t) ∧
        ∀ v ∈ s.holders, v ∉ t'.holders → ¬ same v → PeerSent t' v.pkg (.invalidation s.pkg v.cluster v.frame 1))) ∧
  (∀ (s : State) (pkg g first n : Nat),
    (let hit (y : PeerTlbEnt) : Prop := y.pkg = pkg ∧ first ≤ y.frame ∧ y.frame < first + n
     let busy := ∃ y ∈ (clusterAt s g).peerTlb, hit y ∧ PeerAccess s pkg g (frameOf y.entry)
     ∃ t, exec (.invalidation pkg g first n) s = .next t ∧ SameThreads s t ∧
      (∀ k y, k ≠ g → (y ∈ (clusterAt t k).peerTlb ↔ y ∈ (clusterAt s k).peerTlb)) ∧
      (∀ y, ¬ hit y → (y ∈ (clusterAt t g).peerTlb ↔ y ∈ (clusterAt s g).peerTlb)) ∧
      (busy → SameMemory s t ∧ (∀ y ∈ (clusterAt t g).peerTlb, hit y → y.dead = true) ∧
        (s.now + 1, .invalidation pkg g first n) ∈ t.agenda) ∧
      (¬ busy → (∀ y ∈ (clusterAt t g).peerTlb, ¬ hit y) ∧
        (Unkeyed s → SameMemory s t ∧ PeerSent t pkg (.invalidationAck s.pkg g first n false)))) ∧
    (∀ release, ∃ t, exec (.invalidationAck pkg g first n release) s = .next t ∧ SameMemory s t ∧ SameThreads s t ∧
      (∀ h, h ∈ t.holders ↔ h ∈ s.holders ∧ ¬ (h.pkg = pkg ∧ h.cluster = g ∧ first ≤ h.frame ∧ h.frame < first + n)) ∧
      ∀ a b, s.inval = some (a, b) →
        ((∀ h ∈ t.holders, ¬ (a ≤ h.frame ∧ h.frame < a + b)) → t.inval = none ∧ t.boot.busy = false ∧ t.boot.mailbox = 0) ∧
        ((∃ h ∈ t.holders, a ≤ h.frame ∧ h.frame < a + b) → t.inval = s.inval ∧ t.boot = s.boot)) ∧
    (¬ MailFree s → exec (.agentInval first n) s = .next (mailed s 1) ∧ ∀ a, exec (.exportSet a) s = .next (mailed s 1)) ∧
    (MailFree s → (∀ a, exec (.exportSet a) s = .next (mailed { s with exportTable := a } 0)) ∧
      ((∃ h ∈ s.holders, first ≤ h.frame ∧ h.frame < first + n) → ∃ t, exec (.agentInval first n) s = .next t ∧ SameThreads s t ∧
        t.holders = s.holders ∧ t.inval = some (first, n) ∧ t.boot.busy = true ∧ t.boot.mailbox = 1 ∧
        (Unkeyed s → SameMemory s t ∧ ∀ h ∈ s.holders, first ≤ h.frame → h.frame < first + n →
          PeerSent t h.pkg (.invalidation s.pkg h.cluster h.frame 1))) ∧
      ((∀ h ∈ s.holders, ¬ (first ≤ h.frame ∧ h.frame < first + n)) →
        exec (.agentInval first n) s = .next { mailed s 0 with inval := none }))) ∧
  (∀ (s : State) (t : TId) (th : Thread) (va : Word), thread? s t = some th → va.toNat % 64 = 0 →
    let root := rootOf s th
    let x : Xl := ⟨root, va, false, false, false, true, false, false, 0⟩
    let woken (th : Thread) : Thread := { th with park := th.park.map (fun pk =>
      if pk.why = .line then { pk with why := .until s.now, since := s.now } else pk) }
    let off := (va - Config.stewardBase).toNat
    let firm := t.slot = 0 ∧ 4 ≤ s.boot.step ∧ off + 64 ≤ s.boot.imageLen.getD 0
    (firm → ∃ t' data, exec (.lineFetchArrival t va) s = .next t' ∧ SameMemory s t' ∧ SameOthers s t' t ∧
      (⟨root, va, data, s.now⟩ : LineEnt) ∈ (coreAt t' t.core).lines ∧ thread? t' t = some (woken { th with fetchFault := none }) ∧
      ∀ j < 64, lineByte data j = (look (off + j) s.boot.image).getD 0) ∧
    (∀ pl leaf l, ¬ firm → xlate s t.core x = .ok pl leaf l → findLn (coreAt s t.core) root va = none ∨ th.refetch = true →
      ∃ t' data, exec (.lineFetchArrival t va) s = .next t' ∧ SameMemory s t' ∧ SameOthers s t' t ∧
        (⟨root, va, data, s.now⟩ : LineEnt) ∈ (coreAt t' t.core).lines ∧ thread? t' t = some (woken { th with fetchFault := none }) ∧
        ∀ j < 64, lineByte data j = match findLine (clusterAt s (t.core / 16)) pl with
          | some c => lineByte c.data j
          | none => placeGet s (placeAdd pl j)) ∧
    (∀ ti, ¬ firm → xlate s t.core x = .refuse ti →
      (∀ pk, th.park = some pk → pk.why = .line → ∃ t', exec (.lineFetchArrival t va) s = .next t' ∧ SameMemory s t' ∧
        SameOthers s t' t ∧ thread? t' t = some (woken { th with fetchFault := some ti.info })) ∧
      (th.park = none → th.stopped = none → th.deferred = [] → th.pops = [] → CanTrap th → lineVa th.pc = va →
        ∃ t', exec (.lineFetchArrival t va) s = .next t' ∧ SameMemory s t' ∧ SameOthers s t' t ∧
          thread? t' t = some (ended { th with scr := trapScr th ⟨0x06, th.pc, ti.info⟩ } th.scr.tvec true))))

/-! ### The fabric -/

namespace Sys2Proof.Says

/-- The router that a port leads to (ports N, E, S, W), and the torus distance (R6, R386). -/
def routerBy (r p : Nat) : Nat :=
  let x := r % 16
  let y := r / 16
  if p = 0 then (y + 7) % 8 * 16 + x else if p = 1 then y * 16 + (x + 1) % 16
  else if p = 2 then (y + 1) % 8 * 16 + x else y * 16 + (x + 15) % 16
def ringAway (a b n : Nat) : Nat := min ((b + n - a) % n) ((a + n - b) % n)
def torusAway (a b : Nat) : Nat := ringAway (a % 16) (b % 16) 16 + ringAway (a / 16) (b / 16) 8
/-- The port that a flit of the highest rank takes (R388): it shortens the distance, x before y, + before −. -/
def BestPort (r d p : Nat) : Prop :=
  p < 4 ∧ torusAway (routerBy r p) d < torusAway r d ∧ (r % 16 ≠ d % 16 → p % 2 = 1) ∧
    (∀ q, q < 4 → q % 2 = p % 2 → torusAway (routerBy r q) d < torusAway r d → p = q ∨ p = 1 ∨ p = 2)
/-- A flit stands at a router's inputs of a plane, or waits there for its injection. -/
def AtInput (s : State) (reply : Bool) (r : Nat) (f : Flit) : Prop :=
  f ∈ s.flits ∧ f.reply = reply ∧ f.router = r ∧ f.inPort ≠ 4 ∧ f.readyAt ≤ s.now
def AtInjection (s : State) (reply : Bool) (r : Nat) (f : Flit) : Prop :=
  f ∈ s.flits ∧ f.reply = reply ∧ f.router = r ∧ f.inPort = 4 ∧ f.readyAt ≤ s.now
/-- The order of ranks: age, source router, input port (R388). -/
def flitRank (f : Flit) : Nat := ((4095 - f.hdr.age) * 128 + f.hdr.srouter) * 4 + f.inPort
def OneFlit (s : State) (f : Flit) : Prop := s.flits.filter (fun g => g.id = f.id) = [f]
/-- A unit accepts replies always, and requests while its input queue is not full (R389); its capacity is free (log 78). -/
def Accepts (s : State) (f : Flit) : Prop :=
  f.reply = true ∨ unitWaiting s f = 0 ∨ unitWaiting s f < Config.unitQueue f.hdr.dunit
/-- The flit after it has left by a port: at the next router 2 cycles later, one older. -/
def leftBy (s : State) (r : Nat) (f : Flit) (p : Nat) : Flit :=
  { f with hdr := { f.hdr with age := min 4095 (f.hdr.age + 1) }, router := routerBy r p, inPort := (p + 2) % 4, readyAt := s.now + 2, waiting := 0 }
/-- The flit has left its router by its best port: ejected where its unit accepts it, it is delivered after its time in the unit, and
where the unit does not it is deflected to N; else it goes on. -/
def Routed (s t : State) (r : Nat) (f : Flit) : Prop :=
  (f.hdr.drouter = r → Accepts s f → (s.now + f.delay, f.deliver) ∈ t.agenda ∧ ∀ g ∈ t.flits, g.id ≠ f.id) ∧
    (f.hdr.drouter = r → ¬ Accepts s f → leftBy s r f 0 ∈ t.flits) ∧
    (f.hdr.drouter ≠ r → r < 128 → f.hdr.drouter < 128 → ∃ p, BestPort r f.hdr.drouter p ∧ leftBy s r f p ∈ t.flits)
/-- Injection is stopped: the package's starvation line, or a router under test (R389, R436). -/
def Stopped (s : State) : Prop := s.starved ≠ none ∨ ∃ x ∈ s.tests, x.u = .router ∧ s.now < x.busyUntil
/-- A transfer that its source repeats when no answer comes (R393); any other message starts again from its router. -/
def Repeated (e : Instr) : Prop := (∃ t n d, e = .reply t n d) ∨ (∃ t n f, e = .acknowledgement t n f) ∨
  ∃ q, e = .loadRequest q ∨ e = .storeRequest q ∨ e = .atomicRequest q ∨ e = .fullEmptyRequest q ∨ e = .waitaRequest q
/-- Flits are lost; no other flit differs. -/
def Lost (s t : State) (ids : List Nat) : Prop :=
  (∀ f ∈ s.flits, f.id ∉ ids → f ∈ t.flits) ∧
  (∀ f ∈ s.flits, f.id ∈ ids → ¬ Repeated f.deliver →
    { f with hdr := { f.hdr with age := 0 }, router := f.hdr.srouter, inPort := 4, readyAt := s.now + 16384, waiting := 0 } ∈ t.flits) ∧
  ∀ g ∈ t.flits, g.id ∈ ids → ∃ f ∈ s.flits, f.id = g.id ∧ ¬ Repeated f.deliver
/-- Transfers that are due at a die boundary, and the order in which it carries them (R261). -/
def dueAt (s : State) (src dst : Nat) : List Transfer := s.bridges.filter (fun x => x.at_ = (src, dst) && decide (x.ready ≤ s.now))
def ahead (l : List Transfer) (b : Transfer) : List Transfer := l.filter (fun x => decide (x.ready * 4096 + x.src ≤ b.ready * 4096 + b.src))
/-- Transfers that are due at the host link. -/
def dueHost (s : State) : List Transfer := s.hostLink.filter (fun x => decide (x.ready ≤ s.now) && decide (x.at_.1 < 8))
/-- A link direction with its key, up. -/
def linkOf (s : State) (port : Nat) : LinkDir := (look (2 * port) s.trust.links).getD linkReset
/-- The package that a mesh direction leads to within a field (directions 0 N, 1 E, 2 S, 3 W: log 91), the distance there, and the direction
that a flit takes: x before y, the shorter way around, ties + (R7, R394). -/
def pkgBy (p d : Nat) : Nat :=
  let x := p % 32
  let y := p / 32 % 32
  p / 1024 * 1024 + if d = 0 then (y + 31) % 32 * 32 + x else if d = 1 then y * 32 + (x + 1) % 32
    else if d = 2 then (y + 1) % 32 * 32 + x else y * 32 + (x + 31) % 32
def pkgAway (a b : Nat) : Nat := ringAway (a % 32) (b % 32) 32 + ringAway (a / 32 % 32) (b / 32 % 32) 32
def BestMesh (p q d : Nat) : Prop :=
  d < 4 ∧ pkgAway (pkgBy p d) q < pkgAway p q ∧ (p % 32 ≠ q % 32 → d % 2 = 1) ∧
    ∀ e, e < 4 → e % 2 = d % 2 → pkgAway (pkgBy p e) q < pkgAway p q → d = e ∨ d = 1 ∨ d = 2

end Sys2Proof.Says

/-- R7, R261, R264-R266, R386-R390, R394, R398: a flit's header has the layout of R387; the highest-ranked flit at a router leaves by its
best port; a flit for another package leaves by the mesh port of its direction or its field's uplink, which counts it where it has a key; a local flit is injected into a port
left free unless injection is stopped, which a wait of 128 cycles brings about for 64 cycles; link errors retry and then lose
flits. Die boundaries carry 83 or 84 transfers a cycle and the host link 10 or 11; the host reads and writes HBM past the
caches in its channel's queue, and its snoop writes a line back and drops it. In part the model's choice: logs 35, 78 to 80 and 91. -/
def Obligations.Fabric : Prop :=
  (∀ (h : FlitHdr) (n : Nat) (payload : List Byte), hdrFits h = true → n < 64 → hdrOf (hdrBits h n) = (h, n) ∧
    (payload.length ≤ 48 → (flitBytes h payload).length = 64 ∧ (flitBytes h payload).drop 16 = payload ++ List.replicate (48 - payload.length) 0)) ∧
  (∀ (s : State) (g dst : Nat), (dst / 1024 ≠ s.pkg / 1024 → extPort s g dst = 16 + dst / 1024 % 8) ∧
    (dst / 1024 = s.pkg / 1024 → dst ≠ s.pkg → ∃ d, BestMesh s.pkg dst d ∧ extPort s g dst = d * 4 + g % 4)) ∧
  (∀ (s : State) (pkg g fr : Nat) (t : TId), s.holders.length < 65536 → let p := extPort s 0 pkg
    let d := (look (2 * p + 1) s.trust.links).getD linkReset
    d.key ≠ none → d.down = false → (linkOf s p).down = false → ∃ u, exec (.translationRequest true pkg g fr t) s = .next u ∧
      (d.counter + 1 < 2 ^ 54 - 1 → ((look (2 * p + 1) u.trust.links).getD linkReset) = { d with counter := d.counter + 1 } ∧
        ∃ ev, u.outbox = s.outbox ++ [⟨s.now, p, pkg, ev⟩]) ∧
      (2 ^ 54 - 1 ≤ d.counter → u.trust = s.trust ∧ u.outbox = s.outbox)) ∧
  (∀ (s : State) (reply : Bool) (r : Nat) (f : Flit), AtInput s reply r f → OneFlit s f →
    (∀ g, AtInput s reply r g → g = f ∨ flitRank f < flitRank g) →
    ∃ t, exec (.flitRoute reply r) s = .next t ∧ SameMemory s t ∧ SameThreads s t ∧ Routed s t r f) ∧
  (∀ (s : State) (reply : Bool) (r : Nat), (∀ g, ¬ AtInput s reply r g) →
    (Stopped s → exec (.flitRoute reply r) s = .next s) ∧
    (∀ f, AtInjection s reply r f → OneFlit s f → ¬ Stopped s → (∀ g, AtInjection s reply r g → g = f ∨ f.readyAt < g.readyAt) →
      ∃ t, exec (.flitRoute reply r) s = .next t ∧ SameMemory s t ∧ SameThreads s t ∧ Routed s t r f)) ∧
  (∀ (s : State) (r : Nat),
    ((∃ f ∈ s.flits, f.router = r ∧ f.inPort = 4 ∧ 128 ≤ f.waiting) ∧ s.starved = none →
      exec (.starvationStart r) s = .next { s with starved := some (s.now + 64) }) ∧
    (¬ ((∃ f ∈ s.flits, f.router = r ∧ f.inPort = 4 ∧ 128 ≤ f.waiting) ∧ s.starved = none) → exec (.starvationStart r) s = .next s) ∧
    (∀ c, s.starved = some c → exec .starvationEnd s = .next (if c ≤ s.now then { s with starved := none } else s))) ∧
  (∀ (s : State) (id : Nat), ((∀ f ∈ s.flits, f.id = id → f.inPort = 4) → exec (.flitCrcRetry id) s = .next s) ∧
    (∀ f ∈ s.flits, f.id = id → f.inPort ≠ 4 → OneFlit s f →
      (f.waiting < 8 → ∃ t, exec (.flitCrcRetry id) s = .next t ∧ SameThreads s t ∧ t.spared = s.spared ∧
        t.flits = s.flits.map (fun x => if x.id = id then { x with readyAt := x.readyAt + 2, waiting := x.waiting + 1 } else x)) ∧
      (8 ≤ f.waiting → ∃ t ids, exec (.flitCrcRetry id) s = .next t ∧ SameThreads s t ∧ f.router * 4 + f.inPort ∈ t.spared ∧
        id ∈ ids ∧ ids.length ≤ 2 ∧ (∀ g ∈ s.flits, g.id ∈ ids → OneFlit s g → g.router = f.router ∧ g.inPort = f.inPort) ∧ Lost s t ids))) ∧
  (∀ (s : State) (port : Nat) (ids : List Nat) (k : BitVec 256), port < 24 → (linkOf s port).key = some k → (linkOf s port).down = false →
    let d := linkOf s port
    (2 ^ 54 - 1 ≤ d.counter → ∀ ok, exec (.linkFrame port ok ids) s = .next s) ∧
    (d.counter + 1 < 2 ^ 54 - 1 → exec (.linkFrame port true ids) s = .next { s with
      trust := { s.trust with links := put (2 * port) { d with counter := d.counter + 1, failures := 0 } s.trust.links }
      flits := s.flits.map (fun f => if f.id ∈ ids then { f with readyAt := s.now } else f) }) ∧
    (d.counter < 2 ^ 54 - 1 → d.failures < 7 → exec (.linkFrame port false ids) s = .next { s with
      trust := { s.trust with links := put (2 * port) { d with failures := d.failures + 1 } s.trust.links } }) ∧
    (d.counter < 2 ^ 54 - 1 → 7 ≤ d.failures → ∃ t, exec (.linkFrame port false ids) s = .next t ∧ SameThreads s t ∧ (linkOf t port).down = true ∧ Lost s t ids)) ∧
  (∀ (s : State) (src dst : Nat), ∃ t, exec (.dieBridgeTransfer src dst) s = .next t ∧ SameMemory s t ∧ SameThreads s t ∧
    (∀ b ∈ s.bridges, b ∉ dueAt s src dst → b ∈ t.bridges) ∧
    ∀ b ∈ dueAt s src dst, (ahead (dueAt s src dst) b).length ≤ (if s.now % 3 = 0 then 84 else 83) →
      (b.path = [] → (s.now + (30 + b.delay), b.then_) ∈ t.agenda) ∧
      (∀ n r, b.path = n :: r → { b with at_ := (dst, n), ready := s.now + 30, path := r } ∈ t.bridges)) ∧
  (∀ (s : State), ∃ t, exec .hostLinkTransfer s = .next t ∧ SameMemory s t ∧ SameThreads s t ∧
    let cap := if s.now % 3 = 2 then 10 else 11
    (∀ b ∈ s.hostLink, b ∉ dueHost s → b ∈ t.hostLink) ∧ t.hostLink.length + min cap (dueHost s).length = s.hostLink.length ∧
    ((dueHost s).length ≤ cap → ∀ b ∈ dueHost s, (s.now + b.delay, b.then_) ∈ t.agenda) ∧
    ∀ b ∈ dueHost s, b.at_.1 = s.now % 8 → (∀ x ∈ dueHost s, x.at_.1 = s.now % 8 → x = b ∨ b.ready < x.ready) →
      (s.now + b.delay, b.then_) ∈ t.agenda) ∧
  (∀ (s : State) (w : Bool) (a : Nat) (data : List Byte),
    (2 ^ 40 < a + max 1 data.length → exec (.hostCxlMemAccess w a data) s = .next s) ∧
    (a + max 1 data.length ≤ 2 ^ 40 → ∃ t, exec (.hostCxlMemAccess w a data) s = .next t ∧ t = { s with channels := t.channels } ∧
      (∀ c ∈ s.channels, c ∈ t.channels) ∧ (w = false → ⟨hbmUnit a, .host a [], s.now⟩ ∈ t.channels) ∧
      (w = true → ∀ i < data.length, ∃ b bs, ⟨hbmUnit b, .host b bs, s.now⟩ ∈ t.channels ∧ b ≤ a + i ∧ a + i < b + bs.length ∧
        b / 64 = (b + bs.length - 1) / 64 ∧ bs.getD (a + i - b) 0 = data.getD i 0))) ∧
  (∀ (s : State) (n : Nat), let pl := Place.host (n * 64)
    ∃ t, exec (.hostSnoop n) s = .next t ∧ SameThreads s t ∧
      (∀ g, (clusterAt t g).cache = (clusterAt s g).cache.filter (fun l => l.place ≠ pl)) ∧
      BytesHome s t (s.clusters.filterMap (fun x => findLine (clusterAt s x.1) pl)))

/-! ### Task and slot instructions -/

namespace Sys2Proof.Says

/-- The operand values of the current thread, and the thread once its channels have been popped. -/
def vals (s : State) (th : Thread) (rs : List Reg) : List Word := (takeOps s th rs).2
def PoppedTo (s : State) (th : Thread) (rs : List Reg) (th1 : Thread) : Prop := thread? (popped s th rs) s.cur = some th1
/-- The destination is no channel, or no source is. -/
def Apart (rs : List Reg) (d : Reg) : Prop := chOf d = none ∨ NoChannel rs
/-- scr.einfo of R307. -/
def taskWord (value op reason core : Nat) : Word :=
  BitVec.ofNat 64 (value % 2 ^ 32 * 2 ^ 32 + op * 2 ^ 18 + reason * 2 ^ 12 + core % 2 ^ 11)
/-- A home operation first writes its cluster's line back and drops it (R220). -/
def HomeFirst (s t : State) (pl : Place) : Prop :=
  match findLine (clusterAt s (myCluster s)) pl with
  | none => SameMemory s t
  | some l => (isAperture pl = false → BytesHome s t [l]) ∧ ∀ x ∈ (clusterAt t (myCluster s)).cache, x.place ≠ lineOf pl
/-- The current core. -/
def myCore (s : State) : Core := coreAt s s.cur.core
/-- The other slot of a yoke (R302). -/
def mateOf (n : Nat) : Nat := if n < 8 then n + 8 else n - 8
/-- A thread has left its slot: the slot and its mate's are Free, and take work from the next cycle on; its operand latches are empty, it is in no barrier group, and no
other thread, group or byte of memory differs (R99, R115, R235, R302). -/
def Left (s t : State) (u : TId) (th : Thread) : Prop :=
  (slotAt (coreAt t u.core) u.slot).occ = .free ∧ (slotAt (coreAt t u.core) u.slot).freeAt = s.now + 1 ∧
  (th.mate.isSome = true → (slotAt (coreAt t u.core) (mateOf u.slot)).occ = .free) ∧
  (∀ l ∈ (coreAt t u.core).latches.toList, ∀ x, l = some x → x.slot ≠ u.slot) ∧
  (∀ gr ∈ t.groups, member? gr th.uid = none) ∧
  (∀ x ∈ s.groups, member? x th.uid = none → (∀ y ∈ s.groups, SameGroup y x → y = x) → x ∈ t.groups) ∧ SameMemory s t
/-- No thread differs but that of slot `u`, whose mate is Free, and those of the slots `us`. -/
def OthersBut (s t : State) (us : List TId) (u : TId) (th : Thread) : Prop :=
  ∀ v, v ≠ u → v ∉ us → (th.mate.isSome = true → v ≠ ⟨u.core, mateOf u.slot⟩) → thread? t v = thread? s v

/-- A word of the header of a core's spill area: CAP, HEADIX, COUNT (R294). -/
def spillWord (s : State) (core n : Nat) : Nat := ofBytesLE (placeRead s (placeAdd (physPlace s (coreAt s core).dqspill) (8 * n)) 8)
/-- COUNT; a CAP of 0 means that there is no spill area (R294). -/
def spillCnt (s : State) (core : Nat) : Nat := if spillWord s core 0 = 0 then 0 else spillWord s core 2
/-- The deque is full, and no spill can make room (R290, R295). -/
def Full (s : State) (core : Nat) : Prop := 64 ≤ (coreAt s core).deque.length
def Jammed (s : State) (core : Nat) : Prop := Full s core ∧ (coreAt s core).spilling = [] ∧ spillWord s core 0 < spillCnt s core + 32
/-- The frames of a core that were ready at the start of this cycle and that no spill is moving, newest first (R290; log 53). -/
def removable (s : State) (core : Nat) : List Frame :=
  ((coreAt s core).deque.filter (fun e => (e.ready.any (fun c => decide (c < s.now))) && !(coreAt s core).spilling.any (fun x => x.f = e.f))).map DqEnt.f
def NewestReady (s : State) (core : Nat) (f : Frame) : Prop := (removable s core).head? = some f
/-- The launch that a frame bears. -/
def launchOfFrame (f : Frame) : BitVec 16 := f.queue ++ f.ltag
/-- The operands of SPAWN and SPAWNAT. -/
def traceArg (c : Reg) : List Reg := if c.code = 0 then [] else [c]
/-- The frame that a spawn of the current thread makes (R287, R289, R291). -/
def newFrame (s : State) (th : Thread) (entry join trace : Word) (pin : Bool) : Frame :=
  let v := viewOf s s.cur th
  { entry := entry, a0 := v.w[32], a1 := v.w[33], a2 := v.w[34], a3 := v.w[35], join := join
    seq := BitVec.ofNat 24 ((look th.launch.toNat (myCore s).spawnCounts).getD 0), origin := BitVec.ofNat 11 s.cur.core
    ltag := th.launch.setWidth 10, queue := th.launch.extractLsb' 10 6, pinned := pin, trace := trace }
/-- Every core is that of `u`, but the current one has `c`'s deque, spawn counts and push cycle. -/
def CoresSpawned (t u : State) (core : Nat) (dq : List DqEnt) (push : Nat) (counts : List (Nat × Nat)) : Prop :=
  ∀ c, coreAt t c = if c = core then { coreAt u c with deque := dq, dqPush := push, spawnCounts := counts } else coreAt u c
/-- The next spawn counts of the current core. -/
def counted (s : State) (th : Thread) : List (Nat × Nat) :=
  put th.launch.toNat (((look th.launch.toNat (myCore s).spawnCounts).getD 0 + 1) % 2 ^ 24) (myCore s).spawnCounts
/-- The inline rule (R299). -/
def InlineOk (s : State) (th : Thread) (c : Word) (f : Frame) : Prop :=
  NewestReady s s.cur.core f ∧ f.join = c ∧ launchOfFrame f = th.launch ∧ th.lower.length < 5 ∧ th.depth < 65535 ∧
    placeOk s s.cur.core f s.cur.slot true = true
/-- A load outstanding targets a register that the inline slide makes fresh. -/
def LoadsBelow (th : Thread) : Prop := ∃ a, .w a ∈ th.absent ∧ th.depth * 32 + 32 ≤ a ∧ a ≤ freshHi th
/-- The thread in the frame of an inline task (R299). -/
def inlined (th : Thread) (f : Frame) (c : Word) : Thread :=
  { th with lower := Vector.ofFn (fun i : Fin 32 => th.w[i]) :: th.lower, depth := th.depth + 1, inlines := (th.depth + 1, c) :: th.inlines
            w := Vector.ofFn (fun i : Fin 48 => if i = 0 then f.a0 else if i = 1 then f.a1 else if i = 2 then f.a2
              else if i = 3 then f.a3 else if i = 15 then th.pc else 0) }
/-- A thread's start state: what its launch gives it (R153), and a task frame's start (R297). -/
def freshThread (s : State) (id : BitVec 16) : Thread :=
  { threadReset with
    uid := s.nextUid
    launch := id
    scr := match launchOf s id with
      | none => threadReset.scr
      | some l => { threadReset.scr with
          seed := l.lrec.seed
          step := l.lrec.step.setWidth 64
          watch := l.lrec.watch.setWidth 64 &&& 0xFF
          ckpt := l.lrec.ckptTab } }
def frameThread (s : State) (f : Frame) : Thread :=
  { freshThread s (launchOfFrame f) with
    pc := f.entry
    joinAddr := f.join
    ready := s.now + 8
    w := Vector.ofFn (fun i : Fin 48 => if i = 0 then f.a0 else if i = 1 then f.a1 else if i = 2 then f.a2 else if i = 3 then f.a3 else 0) }
/-- The refusals of MIGRATE that its own core decides (R303). -/
def MigrateRefused (s : State) (th : Thread) (a : Word) : Prop :=
  let bound (k : ChKind) : Prop := ∃ b ∈ th.ch.toList, b.kind = k
  2 ^ 11 ≤ a.toNat ∨ th.mate.isSome = true ∨ bound .nbr ∧ a.toNat % 16 ≠ s.cur.core % 16 ∨
    a.toNat / 16 ≠ s.cur.core / 16 ∧ (th.cp ≠ 0 ∨ bound .slot ∨ bound .fifo)
/-- The context can leave: the stores are complete, and a forwarding entry is free where loads are not (R303, R328). -/
def CanLeave (s : State) (th : Thread) : Prop := th.st = 0 ∧ (th.ld = 0 ∨ (myCore s).forwards.length < 16)
/-- The loads that a migrating thread leaves outstanding hold a forwarding entry (R328). -/
def EntryTaken (s t : State) (th : Thread) : Prop :=
  (coreAt t s.cur.core).forwards = if th.ld = 0 then (myCore s).forwards
    else (myCore s).forwards ++ [⟨th.uid, (s.ops.filter (fun o => o.uid = th.uid && o.kind = .ld)).map Op.id, false⟩]
/-- MIGRATE's request, or the context, is on its way to the target: within a cluster at its time, else as a message of class 0x11. -/
def ContextSent (s t : State) (src : TId) (target wait delay uid : Nat) : Prop :=
  if src.core / 16 = target / 16 then t.flits = s.flits ∧ t.agenda = agendaPut s.agenda (s.now + (wait + delay)) (.contextMessage uid src target)
  else t.agenda = s.agenda ∧ ∃ f, t.flits = s.flits ++ [f] ∧ f.deliver = .contextMessage uid src target ∧ f.readyAt = s.now + wait ∧
    f.delay = delay ∧ f.reply = false ∧ f.hdr.kind = 0x11
/-- The judgement of a JOIN's counter with value `v`: the home's answer, or what a changed counter holds when the wait ends. -/
def Judges (s : State) (th : Thread) (p : Pred) (c v : Word) : Prop :=
  (InPart s th p 2 ∧ th.latch = some [c, v]) ∨
  (InPart s th p 3 ∧ ∃ v0 pl leaf lvl, th.latch = some [c, v0] ∧ v0 ≠ v ∧
    xlate s s.cur.core ⟨rootOf s th, c, true, false, true, false, false, false, 0x388⟩ = .ok pl leaf lvl ∧ wordLE (placeRead s pl 8) = v)
/-- A YIELD on a word as an access (R301). -/
def yieldAccess (p : Pred) (cc : WCond) (near : Bool) (a b : Reg) : Access :=
  ⟨p, [a, b], near, 8, fun x _ => x, fun _ v _ => .waita cc 8 v, none, false, .ld, true, false, if near then .cl else .pkg, 24, false⟩
/-- A register of one of XMOV's kinds, of a set given as a thread. -/
def xread (th : Thread) : Reg → Line
  | .g n => if n = 0 then 0 else th.g[n].setWidth 512
  | .w n => th.w[n].setWidth 512
  | .m n => if n = 0 then (BitVec.allOnes 64).setWidth 512 else th.m[n].setWidth 512
  | .p n => if n = 0 ∨ th.p[n] = true then 1 else 0
  | .v n => th.v[n]
  | _ => 0
def xwrite (th : Thread) (v : Line) : Reg → Thread
  | .g n => if n = 0 then th else { th with g := th.g.set n (v.setWidth 64) }
  | .w n => { th with w := th.w.set n (v.setWidth 64) }
  | .m n => if n = 0 then th else { th with m := th.m.set n (v.setWidth 64) }
  | .p n => if n = 0 then th else { th with p := th.p.set n (v.getLsbD 0) }
  | .v n => { th with v := th.v.set n v }
  | _ => th
/-- The mate's registers in the place of the thread's own, and back. -/
def wearing (th : Thread) (m : Mate) : Thread := { th with g := m.g, w := m.w, v := m.v, m := m.m, p := m.p }
def setOf (th : Thread) : Mate := ⟨th.g, th.w, th.v, th.m, th.p⟩
def emptySet : Mate := ⟨Vector.replicate 16 0, Vector.replicate 48 0, Vector.replicate 32 0, Vector.replicate 8 0, Vector.replicate 8 false⟩

end Sys2Proof.Says

/-- R37, R99, R289-R293, R298-R305: QUIT ends the thread, or an inline task; ALIGN, CHKPT, SPAWN, SPAWNAT, JOIN with its inline rule, YIELD,
YOKE, UNYOKE, XMOV, MIGRATE, START and REAP, in each part of their course.
In part the model's choice: logs 53, 55, 56 and 58. -/
def Obligations.Tasks : Prop :=
  (∀ (s : State) (th : Thread) (p : Pred), AtTurn s th p →
    let i := Instr.quit p
    ((∀ x ∈ th.inlines, x.1 ≠ th.depth) → ∃ t, exec i s = .next t ∧ Left s t s.cur th ∧ OthersBut s t [] s.cur th ∧
      (th.joinAddr = 0 → t.held = s.held ∧ t.ops = s.ops) ∧
      (th.joinAddr ≠ 0 → ∃ h o, t.held = s.held ++ [h] ∧ t.ops = s.ops ++ [o] ∧ o.uid = th.uid ∧ o.kind = .dec ∧ h.uid = th.uid ∧
        h.before = (s.ops.filter (fun x => x.uid = th.uid && (x.kind = .ld || x.kind = .st || x.kind = .msg))).map Op.id ∧
        h.wide = true ∧ h.delay = 0 ∧ h.act = .joinDecrement s.cur th.joinAddr th.launch o.id)) ∧
    (∀ x, th.inlines.find? (fun y => y.1 = th.depth) = some x →
      (th.lower = [] → CanTrap th → exec i s = .next (trapped s th ⟨0x41, 0, windowWord th 0⟩)) ∧
      (th.lower ≠ [] → th.st ≠ 0 → exec i s = .next (setThread s s.cur { th with park := some ⟨.drain, some i, s.now⟩, waited := 0 })) ∧
      (th.lower ≠ [] → th.st = 0 → ∀ pl leaf lvl,
        xlate s s.cur.core ⟨rootOf s th, x.2, true, true, true, false, false, false, 0x18B⟩ = .ok pl leaf lvl →
        blockers s th.uid pl = [] → earlier s th.uid = [] → dirtyFor s (myCluster s) .pkg = false → Leaves s (myCluster s) pl →
        ∃ t q, exec i s = .next t ∧ OnWay t q ∧ q.op = .amo .add 8 (BitVec.allOnes 64) ∧ q.place = pl ∧ q.src = s.cur ∧
          HomeFirst s t pl ∧ SameOthers s t s.cur ∧
          thread? t s.cur = some { th with cont := 1, park := some ⟨.far q, some i, s.now⟩, waited := 0 }))) ∧
  (∀ (s : State) (th : Thread) (p : Pred) (f : Vector Word 32) (r : List (Vector Word 32)), InPart s th p 2 →
    (∃ x ∈ th.inlines, x.1 = th.depth) → th.lower = f :: r → ∃ th' : Thread, exec (.quit p) s = .next (moved s th' th.w[15] false) ∧
      th' = { th with w := th'.w, lower := r, depth := th.depth - 1, inlines := th'.inlines } ∧
      (∀ (i : Nat) (h : i < 32), th'.w[i] = f[i]) ∧ (∀ (i : Nat) (h : i < 16), th'.w[32 + i] = th.w[i])) ∧
  (∀ (s : State) (th : Thread) (p : Pred) (k : BitVec 16),
    (AtTurn s th p → exec (.align p k) s = .next (setThread s s.cur (inPart s th (.align p k) (.align k) 1)) ∧
      ((∀ d, th.saveDue = some d → d.blocked = true) → exec (.chkpt p k) s = .next (passed s th)) ∧
      (∀ d, th.saveDue = some d → d.blocked = false → exec (.chkpt p k) s = .next (setThread s s.cur (inPart s th (.chkpt p k) (.chkpt k) 1)))) ∧
    (InPart s th p 1 → exec (.align p k) s = .next (passed s th) ∧ exec (.chkpt p k) s = .next (passed s th))) ∧
  (∀ (s : State) (th : Thread) (p : Pred) (pin : Bool) (d a b c : Reg), AtTurn s th p →
    let i := Instr.spawn p pin d a b c
    let rs := [a, b] ++ traceArg c
    let core := s.cur.core
    let jn := val s th rs 1
    let f := newFrame s th (val s th rs 0) jn (val s th rs 2) pin
    CanUse s th i rs (some d) →
    (CanTrap th → jn.toNat % 8 ≠ 0 → exec i s = .next (trapped s th ⟨0x13, jn, 8⟩)) ∧
    (jn.toNat % 8 = 0 →
      (CanTrap th → Jammed s core →
        exec i s = .next (trapped s th ⟨0x23, (myCore s).dqspill, taskWord (spillCnt s core) 0x386 0 core⟩)) ∧
      (Full s core → ¬ Jammed s core →
        exec i s = .next (setThread s s.cur { th with park := some ⟨.dequeSpill, none, s.now⟩, waited := 0 })) ∧
      (¬ Full s core → CanTrap th → enterOk s core f = false → ∃ t, exec i s = .next t ∧ SameMemory s t ∧ SameOthers s t s.cur ∧
        thread? t s.cur = some (ended { th with scr := trapScr th ⟨0x60, 0, BitVec.ofNat 64
          (f.seq.toNat * 2 ^ 40 + f.origin.toNat * 2 ^ 29 + 0x386 * 2 ^ 18 + core)⟩ } th.scr.tvec true)) ∧
      (¬ Full s core → enterOk s core f = true → ∃ t h,
        let u := wrote (popped s th rs) th d (f.seq.setWidth 64)
        exec i s = .next t ∧ CoresSpawned t u core (⟨f, none⟩ :: (myCore s).deque) (s.now + 1) (counted s th) ∧ t.clusters = u.clusters ∧
          t.held = s.held ++ [h] ∧ h.uid = th.uid ∧ h.before = earlier s th.uid ∧ h.wide = true ∧ h.delay = 0 ∧
          h.act = .frameReady core f ∧ SameMemory s t ∧ t.ops = s.ops ∧ t.agenda = s.agenda))) ∧
  (∀ (s : State) (th : Thread) (p : Pred) (d a b c e : Reg), AtTurn s th p →
    let i := Instr.spawnat p d a b c e
    let rs := [a, b] ++ traceArg c ++ [e]
    let dest := (vals s th rs).getLastD 0
    let f := newFrame s th (val s th rs 0) (val s th rs 1) (if c.code = 0 then 0 else val s th rs 2) true
    CanUse s th i rs (some d) →
    (CanTrap th → 2 ^ 11 ≤ dest.toNat → exec i s = .next (trapped s th ⟨0x11, dest, taskWord 0 0x387 0 dest.toNat⟩)) ∧
    (dest.toNat < 2 ^ 11 → (∀ x ∈ s.ops, x.id ≠ s.nextId) → ∃ t h o tag,
      let u := wrote (popped s th rs) { th with st := th.st + 1 } d (f.seq.setWidth 64)
      exec i s = .next t ∧ (∀ v, thread? t v = thread? u v) ∧ t.clusters = u.clusters ∧ (myCore t).spawnCounts = counted s th ∧
        (∀ k, (coreAt t k).deque = (coreAt s k).deque ∧ (coreAt t k).slotQ = (coreAt u k).slotQ ∧ (coreAt t k).inQ = (coreAt u k).inQ ∧
          (coreAt t k).k = (coreAt u k).k) ∧
        t.ops = s.ops ++ [o] ∧ o.uid = th.uid ∧ o.kind = .msg ∧ o.tag = some tag ∧ t.held = s.held ++ [h] ∧ h.uid = th.uid ∧
        h.before = earlier s th.uid ∧ h.wide = true ∧ h.delay = 0 ∧ h.act = .frameMessage f dest.toNat s.cur tag ∧ SameMemory s t ∧
        t.agenda = s.agenda)) ∧
  (∀ (s : State) (th : Thread) (p : Pred) (a : Reg), AtTurn s th p → CanUse s th (.join p a) [a] none →
    let i := Instr.join p a
    let c := val s th [a] 0
    (CanTrap th → c = 0 → exec i s = .next (trapped s th ⟨0x24, 0, taskWord 0 0x388 1 s.cur.core⟩)) ∧
    (CanTrap th → c.toNat % 8 ≠ 0 → exec i s = .next (trapped s th ⟨0x13, c, 8⟩)) ∧
    (c ≠ 0 → c.toNat % 8 = 0 → ∀ pl leaf lvl,
      xlate s s.cur.core ⟨rootOf s th, c, true, false, true, false, false, false, 0x388⟩ = .ok pl leaf lvl → blockers s th.uid pl = [] →
      Leaves s (myCluster s) pl →
      ∃ t q th1, exec i s = .next t ∧ PoppedTo s th [a] th1 ∧ OnWay t q ∧ q.op = .join ∧ q.place = pl ∧ q.src = s.cur ∧ q.va = c ∧
        q.parked = true ∧ HomeFirst s t pl ∧ SameOthers s t s.cur ∧
        thread? t s.cur = some { th1 with park := some ⟨.far q, some i, s.now⟩, latch := some [c], waited := 0 })) ∧
  (∀ (s : State) (th : Thread) (p : Pred) (a : Reg) (c v : Word), Judges s th p c v → c ≠ 0 → c.toNat % 8 = 0 →
    let i := Instr.join p a
    let core := s.cur.core
    let later (w : Why) (n : Nat) : State := setThread s s.cur { th with park := some ⟨w, some i, s.now⟩, cont := n, latch := some [c, v] }
    (CanTrap th → v.msb = true → th.pops = [] → exec i s = .next (trapped s th ⟨0x24, c, taskWord v.toNat 0x388 0 core⟩)) ∧
    (v = 0 → joinDiverges s core th.launch c = none → ∃ t, exec i s = .next t ∧ SameMemory s t ∧ SameOthers s t s.cur ∧
      thread? t s.cur = some (ended th (succPc th.pc) false) ∧
      (clusterAt t (myCluster s)).cache = (clusterAt s (myCluster s)).cache.filter (fun l => l.dirty ≠ 0)) ∧
    (v ≠ 0 → v.msb = false → ((∀ f, ¬ InlineOk s th c f) →
        exec i s = .next (later (.joinWait (.hbm 0) v ((myCore s).deque.head?.map DqEnt.f)) 3)) ∧
      (∀ f, InlineOk s th c f → (LoadsBelow th ∨ s.now < (myCore s).dqPop → exec i s = .next (later (.until (s.now + 1)) 2)) ∧
        (¬ LoadsBelow th → (myCore s).dqPop ≤ s.now → ∃ t, exec i s = .next t ∧ SameOthers s t s.cur ∧
          thread? t s.cur = some (ended (inlined th f c) f.entry true) ∧
          (myCore t).deque = (myCore s).deque.filter (fun e => e.f ≠ f) ∧
          ((∀ l, launchOf s th.launch = some l → replayMode l.lrec ≠ 1) → SameMemory s t))))) ∧
  (∀ (s : State) (th : Thread) (p : Pred) (a : Reg) (c v : Word) (pl : Place) (leaf : Word) (lvl : Nat), InPart s th p 3 →
    th.latch = some [c, v] → c ≠ 0 → c.toNat % 8 = 0 →
    xlate s s.cur.core ⟨rootOf s th, c, true, false, true, false, false, false, 0x388⟩ = .ok pl leaf lvl → blockers s th.uid pl = [] →
    Leaves s (myCluster s) pl → wordLE (placeRead s pl 8) = v →
    ∃ t q, exec (.join p a) s = .next t ∧ SameOthers s t s.cur ∧ q.op = .join ∧ OnWay t q ∧
      thread? t s.cur = some { th with park := some ⟨.far q, some (.join p a), s.now⟩, latch := some [c] }) ∧
  (∀ (s : State) (th : Thread) (p : Pred) (ck : BitVec 16) (d a : Reg), AtTurn s th p → CanUse s th (.yieldTok p ck d a) [a] none →
    let i := Instr.yieldTok p ck d a
    let v := val s th [a] 0
    let st := tokState s (myCluster s) (v.setWidth 16)
    (CanTrap th → 2 ^ 16 ≤ v.toNat → exec i s = .next (trapped s th ⟨0x01, 0, BitVec.ofNat 64 (0x389 + 1024)⟩)) ∧
    (v.toNat < 2 ^ 16 → (st = 0 → ∃ th1, PoppedTo s th [a] th1 ∧ exec i s = .next (setThread (popped s th [a]) s.cur
        { th1 with latch := some [v], park := some ⟨.token (v.setWidth 16), some i, s.now⟩, waited := 0 })) ∧
      (st ≠ 0 → CanUse s th i [] (some d) → Apart [a] d → exec i s = .next (wrote (popped s th [a]) th d (BitVec.ofNat 64 st))))) ∧
  (∀ (s : State) (th : Thread) (p : Pred) (ck : BitVec 16) (d a : Reg) (v : Word), InPart s th p 0 → th.latch = some [v] → v.toNat < 2 ^ 16 →
    CanUse s th (.yieldTok p ck d a) [] (some d) → let st := tokState s (myCluster s) (v.setWidth 16)
    st ≠ 0 → exec (.yieldTok p ck d a) s = .next (woken s th d (BitVec.ofNat 64 st))) ∧
  (∀ (s : State) (th : Thread) (p : Pred) (cc : WCond) (near : Bool) (ck : BitVec 16) (a b : Reg), AtTurn s th p →
    CanUse s th (.yieldWord p cc near ck a b) [a, b] none →
    let i := Instr.yieldWord p cc near ck a b
    let x := yieldAccess p cc near a b
    let va := val s th [a, b] 0
    let held (th1 : Thread) (w : Why) : Thread :=
      { th1 with park := some ⟨w, none, s.now⟩, waited := 0, latch := some [va, val s th [a, b] 1, ck.setWidth 64] }
    (CanTrap th → NoChannel [a, b] → va.toNat % 8 ≠ 0 → exec i s = .next (trapped s th ⟨0x13, va, 8⟩)) ∧
    (let q := { request s th i x (nearAt s va) with parked := true, opId := s.nextId }
     NearOk s x va q → Unheld s th x q.place → ∃ t th1, exec i s = .next t ∧ PoppedTo s th [a, b] th1 ∧ SameMemory s t ∧
        SameOthers s t s.cur ∧ thread? t s.cur = some (held th1 (.homeWait q)) ∧
        t.agenda = agendaPut s.agenda (s.now + 4) (reqEvent { q with total := 20 })) ∧
    (∀ pl leaf lvl, FarOk s th i x pl leaf lvl → Unheld s th x pl → ∃ t th1 q, exec i s = .next t ∧ PoppedTo s th [a, b] th1 ∧
      OnWay t q ∧ q.op = .waita cc 8 (val s th [a, b] 1) ∧ q.place = pl ∧ q.acq = true ∧ q.scope = .pkg ∧ HomeFirst s t pl ∧
      SameOthers s t s.cur ∧ thread? t s.cur = some (held th1 (.far q)))) ∧
  (∀ (s : State) (th : Thread) (p : Pred), AtTurn s th p →
    (∀ d, CanUse s th (.yoke p d) [] (some d) →
      let x := slotAt (myCore s) (mateOf s.cur.slot)
      (CanTrap th → s.cur.slot = 8 → exec (.yoke p d) s = .next (trapped s th ⟨0x01, 0, BitVec.ofNat 64 (0x38A + 2048)⟩)) ∧
      (s.cur.slot ≠ 8 → (th.mate = none ∧ s.cur.slot ≠ 0 ∧ x.occ = .free ∧ x.owner = th.launch.toNat / 1024 → exec (.yoke p d) s =
          .next (wrote (setCore s s.cur.core (setSlot (myCore s) (mateOf s.cur.slot) { x with occ := .withheld }))
            { th with mate := some emptySet } d 1)) ∧
        (¬ (th.mate = none ∧ s.cur.slot ≠ 0 ∧ x.occ = .free ∧ x.owner = th.launch.toNat / 1024) →
          exec (.yoke p d) s = .next (wrote s th d 0)))) ∧
    (th.mate = none → exec (.unyoke p) s = .next (passed s th) ∧ ∀ d a, CanTrap th →
      exec (.xmovFrom p d a) s = .next (trapped s th ⟨0x01, 0, BitVec.ofNat 64 (0x38C + 2048)⟩) ∧
      exec (.xmovTo p d a) s = .next (trapped s th ⟨0x01, 0, BitVec.ofNat 64 (0x38C + 2048)⟩)) ∧
    (∀ m, th.mate = some m → exec (.unyoke p) s = .next (passed (setCore s s.cur.core (setSlot (myCore s) (mateOf s.cur.slot)
        { slotAt (myCore s) (mateOf s.cur.slot) with occ := .free, freeAt := s.now + 1 })) { th with mate := none }) ∧
      ∀ d a, (Instr.xmovFrom p d a).wf = true → viewOf s s.cur th = th →
        exec (.xmovFrom p d a) s = .next (passed s (xwrite th (xread (wearing th m) a) d)) ∧
        exec (.xmovTo p d a) s = .next (passed s { th with mate := some (setOf (xwrite (wearing th m) (xread th a) d)) }))) ∧
  (∀ (s : State) (th : Thread) (p : Pred) (d a : Reg), AtTurn s th p → CanUse s th (.migrate p d a) [a] none →
    let i := Instr.migrate p d a
    let v := val s th [a] 0
    (MigrateRefused s th v → CanUse s th i [] (some d) → Apart [a] d → exec i s = .next (wrote (popped s th [a]) th d 0)) ∧
    (¬ MigrateRefused s th v → ∃ t th1, exec i s = .next t ∧ PoppedTo s th [a] th1 ∧ SameMemory s t ∧ SameOthers s t s.cur ∧
      ContextSent s t s.cur v.toNat 12 12 th.uid ∧
      (CanLeave s th → EntryTaken s t th ∧ thread? t s.cur = some { th1 with
        latch := some [v], park := some ⟨.event, some i, s.now⟩, cont := 3, release := some s.now }) ∧
      (¬ CanLeave s th → thread? t s.cur = some { th1 with latch := some [v], park := some ⟨.drain, some i, s.now⟩, cont := 2 }))) ∧
  (∀ (s : State) (th : Thread) (p : Pred) (d a : Reg) (v : Word), th.latch = some [v] →
    let i := Instr.migrate p d a
    let h := hops (myCluster s) (v.toNat / 16)
    let on (why : Why) (n : Nat) (r : Option Nat) : Thread := { th with park := some ⟨why, some i, s.now⟩, cont := n, release := r }
    (∀ n, n = 2 ∨ n = 4 → InPart s th p n → ¬ CanLeave s th → exec i s = .next (setThread s s.cur (on (.until (s.now + 1)) n th.release))) ∧
    (InPart s th p 2 → CanLeave s th → ∃ t, exec i s = .next t ∧ SameMemory s t ∧ SameOthers s t s.cur ∧ EntryTaken s t th ∧
      t.agenda = s.agenda ∧ t.flits = s.flits ∧ thread? t s.cur = some (on .event 3 (some s.now))) ∧
    (InPart s th p 4 → CanLeave s th → ∃ t, exec i s = .next t ∧ SameMemory s t ∧ SameOthers s t s.cur ∧ EntryTaken s t th ∧
      thread? t s.cur = some (on .event 7 (some s.now)) ∧ ∀ r, th.release = r → ContextSent s t s.cur v.toNat 0 (r.getD s.now + 160 + 2 * h - s.now) th.uid) ∧
    (CanUse s th i [] (some d) → (InPart s th p 5 → exec i s = .next (woken s th d 0)) ∧
      (InPart s th p 6 → exec i s = .next (woken s th d 1)))) ∧
  (∀ (s : State) (th : Thread) (p : Pred) (d a b : Reg) (i : Instr), i = .startCtx p d a b ∨ i = .startFrame p d a b → s.cur.slot = 0 →
    let core := s.cur.core
    let x (va : Word) : Xl := ⟨rootOf s th, va, true, false, false, false, false, true, 0x38E⟩
    let ok (v : Word) : Prop := 1 ≤ v.toNat ∧ v.toNat ≤ 15 ∧ (slotAt (myCore s) v.toNat).occ = .free ∧ (slotAt (myCore s) v.toNat).freeAt ≤ s.now
    (AtTurn s th p → CanUse s th i [a, b] none → let v := val s th [a, b] 0
      (¬ ok v → CanUse s th i [] (some d) → Apart [a, b] d → exec i s = .next (wrote (popped s th [a, b]) th d 0)) ∧
      (ok v → ∀ pl leaf lvl, xlate s core (x (val s th [a, b] 1)) = .ok pl leaf lvl → ∃ t th1 n, exec i s = .next t ∧
        PoppedTo s th [a, b] th1 ∧ SameMemory s t ∧ SameOthers s t s.cur ∧ (i = .startFrame p d a b → n = 1) ∧
        thread? t s.cur = some { waiting s th1 i (24 + farTime (myCluster s) pl false + n) 1 with latch := some (vals s th [a, b]) })) ∧
    (∀ v va, InPart s th p 1 → th.latch = some [v, va] → ok v → CanUse s th i [] (some d) → ∀ pl leaf lvl,
      xlate s core (x va) = .ok pl leaf lvl → ∀ n bs,
      n = (if i = .startFrame p d a b then 64 else imageLength (touchTlb s core (x va)) th va) →
      (agentRead (touchTlb s core (x va)) (myCluster s) (queueOfLaunch th.launch) va n).2 = some bs →
      ∃ t, exec i s = .next t ∧ (∀ u, u.core = core → u.slot ≠ v.toNat → (i = .startCtx p d a b → u.slot ≠ mateOf v.toNat) → chOf d = none → thread? t u = thread? (woken s th d 1) u) ∧
        (i = .startFrame p d a b → thread? t ⟨core, v.toNat⟩ = some (frameThread s (parseFrame bs))) ∧
        (i = .startCtx p d a b → ∃ base vec th', thread? t ⟨core, v.toNat⟩ = some th' ∧
          th' = { imageThread base bs vec with ready := s.now + 1 } ∧ base.uid = s.nextUid ∧
          base.launch = BitVec.ofNat 16 (ofBytesLE ((bs.drop 18).take 2))))) ∧
  (∀ (s : State) (th : Thread) (p : Pred) (d a : Reg), s.cur.slot = 0 →
    let i := Instr.reap p d a
    let victim (v : Word) (x : Thread) : Prop := 1 ≤ v.toNat ∧ v.toNat ≤ 15 ∧ thread? s ⟨s.cur.core, v.toNat⟩ = some x
    (AtTurn s th p → CanUse s th i [a] none → ∃ th1, PoppedTo s th [a] th1 ∧ let v := val s th [a] 0
      let busy : Prop := ∃ x pk n, victim v x ∧ x.park = some pk ∧ pk.why = .engine n
      (busy → exec i s = .next (setThread (popped s th [a]) s.cur { waiting s th1 i 1 0 with latch := some [v] })) ∧
      (¬ busy → exec i s = .next (setThread (popped s th [a]) s.cur { waiting s th1 i 16 1 with latch := some [v] }))) ∧
    (∀ v n, n = 0 ∨ n = 1 → InPart s th p n → th.latch = some [v] → (∃ x pk n, victim v x ∧ x.park = some pk ∧ pk.why = .engine n) →
      exec i s = .next (setThread s s.cur (waiting s th i 1 0))) ∧
    (∀ v, InPart s th p 0 → th.latch = some [v] → (∀ x pk n, victim v x → x.park = some pk → pk.why ≠ .engine n) →
      exec i s = .next (setThread s s.cur (waiting s th i 16 1))) ∧
    (∀ v, InPart s th p 1 → th.latch = some [v] → CanUse s th i [] (some d) →
      ((∀ x, ¬ victim v x) → exec i s = .next (woken s th d 0)) ∧
      (∀ x, victim v x → (∀ pk n, x.park = some pk → pk.why ≠ .engine n) → (x.mate.isSome = true → v.toNat ≠ 8) → chOf d = none → ∃ t, exec i s = .next t ∧ Left s t ⟨s.cur.core, v.toNat⟩ x ∧
        OthersBut s t [s.cur] ⟨s.cur.core, v.toNat⟩ x ∧ thread? t s.cur = thread? (woken s th d 1) s.cur ∧
        (∀ w ∈ t.homeWaiters, w.q.uid ≠ x.uid) ∧ ∀ g, ∀ w ∈ (clusterAt t g).waiters, w.q.uid ≠ x.uid)))


/-! ### The deque, steals and migration -/

namespace Sys2Proof.Says

/-- HEADIX of a core's spill area, and the frame at an index of its ring (R294). -/
def spillHead (s : State) (core : Nat) : Nat := if spillWord s core 0 = 0 then 0 else spillWord s core 1
def spillFrame (s : State) (core i : Nat) : Frame :=
  parseFrame (placeRead s (placeAdd (physPlace s (coreAt s core).dqspill) (64 + 64 * (i % spillWord s core 0))) 64)
/-- The spill area lies in HBM and has room for a spill's frames. -/
def SpillArea (s : State) (core : Nat) : Prop := (∃ a, physPlace s (coreAt s core).dqspill = .hbm a) ∧ 32 ≤ spillWord s core 0
/-- The time of a far access to it. -/
def spillTime (s : State) (core : Nat) : Nat := farTime (core / 16) (physPlace s (coreAt s core).dqspill) false
/-- The launch of a frame neither records nor replays. -/
def Unlisted (s : State) (f : Frame) : Prop := ∀ l, launchOf s (launchOfFrame f) = some l → replayMode l.lrec = 0
/-- No thread differs but that in slot `u`, which is now `th`. -/
def StartedIn (s t : State) (u : TId) (th : Thread) : Prop := thread? t u = some th ∧ SameOthers s t u
/-- The queues that own a Free slot of the core (R318). -/
def FreeFor (s : State) (core q : Nat) : Prop := ∃ n, 1 ≤ n ∧ n ≤ 15 ∧ (slotAt (coreAt s core) n).occ = .free ∧
  (slotAt (coreAt s core) n).freeAt ≤ s.now ∧ (slotAt (coreAt s core) n).owner = q
/-- A ready frame lies in a core's deque or its spill area, those among them that a running spill has written already (R295, R314). -/
def Lies (s : State) (core : Nat) (f : Frame) : Prop :=
  let k := coreAt s core
  (∃ e ∈ k.deque, e.f = f ∧ e.ready ≠ none) ∨ (∃ i < spillCnt s core, spillFrame s core (spillHead s core + i) = f) ∨
    (k.spilling ≠ [] ∧ ∃ i < 32 - k.spilling.length, spillFrame s core (spillHead s core + spillCnt s core + i) = f)
/-- The core is idle for stealing (R318). -/
def Idle (s : State) (core : Nat) : Prop :=
  (coreAt s core).retired = false ∧ (coreAt s core).claim = none ∧ (coreAt s core).probeOut = none ∧
    (∀ l ∈ s.launches, launchWaits s core l = false) ∧
    ∃ q, FreeFor s core q ∧ ∀ f, Lies s core f → f.queue.toNat ≠ q
/-- The n-th victim of a core: its cluster-mates, the cores of its position on its die, then those of the other dies (R318). -/
def victimAt (core n : Nat) : Nat :=
  if n < 15 then core - core % 16 + (core % 16 + n + 1) % 16
  else if n < 30 then core / 256 * 256 + (core / 16 % 16 + (n - 15) + 1) % 16 * 16 + core % 16
  else (core / 256 + (n - 30) + 1) % 8 * 256 + core / 16 % 16 * 16 + core % 16
/-- A frame that a victim may give away (R319, R332). -/
def Stealable (s : State) (victim thief : Nat) (mask : BitVec 64) (f : Frame) : Prop :=
  f.pinned = false ∧ mask.getLsbD f.queue.toNat = true ∧ giveOk s victim thief f = true
/-- A frame of the deque that was ready at the start of this cycle and that no spill is moving (R290). -/
def ReadyIn (s : State) (core : Nat) (e : DqEnt) : Prop :=
  e ∈ (coreAt s core).deque ∧ (∃ c, e.ready = some c ∧ c < s.now) ∧ ∀ x ∈ (coreAt s core).spilling, x.f ≠ e.f
/-- A message from one core to another is on its way: laid down within a cluster, on the torus between clusters. -/
def MessageTo (t : State) (a b wait : Nat) (e : Instr) : Prop :=
  if a / 16 = b / 16 then (t.now + wait + 12, e) ∈ t.agenda
  else ∃ f ∈ t.flits, f.deliver = e ∧ f.router = routerOf (a / 16) ∧ f.hdr.drouter = routerOf (b / 16) ∧ f.readyAt = t.now + wait + 6

end Sys2Proof.Says

/-- R290, R294-R296, R300, R303, R318-R320, R328: the events of the deque and its spill area, of steals and the claim latch, of join
counters, of migration and of forwarded loads: what each does and when it does nothing.
In part the model's choice: logs 53, 54, 56, 57 and 60. -/
def Obligations.TaskEvents : Prop :=
  (∀ (s : State) (core : Nat) (f : Frame), exec (.frameReady core f) s = .next (setCore s core { coreAt s core with
    deque := (coreAt s core).deque.map (fun e => if e.f = f ∧ e.ready = none then { e with ready := some s.now } else e) })) ∧
  (∀ (s : State) (core : Nat),
    let k := coreAt s core
    let due : Prop := Full s core ∧ k.spilling = [] ∧ ¬ Jammed s core ∧ ∀ e ∈ k.deque.drop 32, e.ready ≠ none
    (¬ due → exec (.spillStart core) s = .next s) ∧
    (due → ∃ t, exec (.spillStart core) s = .next t ∧ SameMemory s t ∧ SameThreads s t ∧
      coreAt t core = { k with spilling := (k.deque.drop 32).reverse } ∧
      ∀ i < 32, (s.now + (spillTime s core + i), .spillComplete core) ∈ t.agenda) ∧
    (k.spilling = [] → exec (.spillComplete core) s = .next s) ∧
    (∀ e r, k.spilling = e :: r → SpillArea s core → ∃ t, exec (.spillComplete core) s = .next t ∧ SameThreads s t ∧
      coreAt t core = { k with deque := k.deque.filter (fun x => x.f ≠ e.f), spilling := r } ∧
      spillHead t core = spillHead s core ∧ spillCnt t core = (if r = [] then (spillCnt s core + 32) % 2 ^ 64 else spillCnt s core) ∧
      let n := spillHead s core + spillCnt s core + (31 - r.length)
      spillFrame t core n = e.f ∧ (∀ j, j % spillWord s core 0 ≠ n % spillWord s core 0 → spillFrame t core j = spillFrame s core j) ∧
      ∀ p, (∀ j < 64 + 64 * spillWord s core 0, p ≠ placeAdd (physPlace s k.dqspill) j) → placeGet t p = placeGet s p) ∧
    (k.spilling ≠ [] → exec (.dequeRefill core) s = .next { s with agenda := agendaPut s.agenda (s.now + 1) (.dequeRefill core) }) ∧
    (k.spilling = [] → SpillArea s core → ∃ t, exec (.dequeRefill core) s = .next t ∧ SameThreads s t ∧
      let n := min 32 (min (spillCnt s core) (64 - k.deque.length))
      (coreAt t core).refilling = false ∧ spillHead t core = spillHead s core ∧ spillCnt t core = spillCnt s core - n ∧
      (coreAt t core).deque = k.deque ++ (List.range n).map (fun i =>
        ⟨spillFrame s core (spillHead s core + (spillCnt s core - 1 - i)), some s.now⟩))) ∧
  (∀ (s : State) (t0 : TId) (addr : Word) (launch : BitVec 16) (o : Op), s.ops.find? (fun x => x.id = o.id) = some o →
    let q := launch.toNat / 1024
    let e := Instr.joinDecrement t0 addr launch o.id
    let x : Xl := ⟨(queueAt s q).root.toNat, addr, true, true, true, false, false, false, 0x18B⟩
    let g := t0.core / 16
    (∀ s1 d pl leaf lvl w, addr.toNat % 8 = 0 → clusterPlace s g x = (s1, d, .ok (pl, leaf, lvl, w)) → d = 0 ∨ o.resends ≠ 0 →
      Leaves s g pl → ∃ t r, exec e s = .next t ∧ OnWay t r ∧
      r.op = .amo .add 8 (BitVec.allOnes 64) ∧ r.place = pl ∧ r.va = addr ∧ r.opId = o.id ∧ r.uid = o.uid ∧ SameThreads s t) ∧
    (∀ s1 d r, addr.toNat % 8 = 0 → clusterPlace s g x = (s1, d + 1, r) → o.resends = 0 → ∃ t, exec e s = .next t ∧
      (s.now + (d + 1), e) ∈ t.agenda ∧ SameMemory s t ∧ SameThreads s t ∧
      t.ops = s.ops.map (fun y => if y.id = o.id then { y with resends := 1 } else y)) ∧
    (∀ ti, addr.toNat % 8 ≠ 0 ∧ ti = ⟨0x13, addr, 8⟩ ∨
        addr.toNat % 8 = 0 ∧ (∃ s1 d, clusterPlace s g x = (s1, d, .error ti) ∧ (d = 0 ∨ o.resends ≠ 0)) →
      ∃ t, exec e s = .next t ∧ SameMemory s t ∧ SameThreads s t ∧ t.ops = s.ops.filter (fun y => y.id ≠ o.id) ∧
        (queueAt t q).notes = (queueAt s q).notes ++ [⟨0x24, escalBody t0 s.now 0 (deferredInfo ti) launch 0⟩])) ∧
  (∀ (s : State) (core : Nat),
    let k := coreAt s core
    (k.claim = none → exec (.latchToDeque core) s = .next s ∧ exec (.claimLatchStart core) s = .next s) ∧
    (∀ f c v, k.claim = some (f, c, v) →
      (s.now < c + 18 → exec (.latchToDeque core) s = .next s) ∧
      (c + 18 ≤ s.now → Full s core ∨ s.now < k.dqPush → exec (.latchToDeque core) s =
        .next { s with agenda := agendaPut s.agenda (s.now + 1) (.latchToDeque core) }) ∧
      (c + 18 ≤ s.now → ¬ Full s core → k.dqPush ≤ s.now → exec (.latchToDeque core) s =
        .next (setCore s core { k with claim := none, deque := ⟨f, some s.now⟩ :: k.deque, dqPush := s.now + 1 })) ∧
      ((∀ l, launchOf s (launchOfFrame f) = some l → replayMode l.lrec ≠ 2) →
        let free (n : Nat) : Prop := 1 ≤ n ∧ n ≤ 15 ∧ (slotAt k n).occ = .free ∧ (slotAt k n).freeAt ≤ s.now ∧ (slotAt k n).owner = f.queue.toNat
        (∀ n, free n → (∀ m < n, ¬ free m) → slotTakes s core n f.queue.toNat = true →
          ∃ t, exec (.claimLatchStart core) s = .next t ∧ StartedIn s t ⟨core, n⟩ (frameThread s f) ∧ (coreAt t core).claim = none ∧
            (coreAt t core).deque = k.deque ∧ (Unlisted s f → SameMemory s t)) ∧
        ((∀ n, free n → (∀ m < n, ¬ free m) → slotTakes s core n f.queue.toNat = false) →
          exec (.claimLatchStart core) s = .next { s with agenda := agendaPut s.agenda (max s.now (c + 18)) (.latchToDeque core) }))) ∧
    (∀ v, exec (.emptyAnswer core v) s = .next (setCore s core { k with probeOut := none, probePtr := (k.probePtr + 1) % 37 })) ∧
    (¬ Idle s core → exec (.stealProbe core) s = .next s) ∧
    (Idle s core → (∀ l ∈ s.launches, replayMode l.lrec ≠ 2) → ∃ t mask, exec (.stealProbe core) s = .next t ∧ SameMemory s t ∧ SameThreads s t ∧
      let v := victimAt core (k.probePtr % 37)
      (coreAt t core).probeOut = some v ∧ MessageTo t core v 0 (.probeMessage core v mask) ∧
        ∀ q < 64, mask.getLsbD q = true ↔ FreeFor s core q) ∧
    (Idle s core → (∃ l ∈ s.launches, ∃ w0 w1, nextMove s core l = .entry w0 w1) →
      (∀ l ∈ s.launches, ∀ w0 w1, nextMove s core l = .entry w0 w1 → w0 % 16 ≠ 4) → exec (.stealProbe core) s = .next s)) ∧
  (∀ (s : State) (thief core : Nat) (mask : BitVec 64), SpillArea s core →
    let k := coreAt s core
    let e := Instr.probeMessage thief core mask
    let old := spillFrame s core (spillHead s core)
    let spilled : Prop := 0 < spillCnt s core ∧ Stealable s core thief mask old
    let given (t : State) (f : Frame) (wait : Nat) : Prop := MessageTo t core thief wait (.frameMessage f thief ⟨core, 0⟩ 256) ∧
      SameThreads s t ∧ (coreAt t core).dqPop = s.now + 1
    let again : Prop := exec e s = .next { s with agenda := agendaPut s.agenda (s.now + 1) e }
    (spilled → (s.now < k.dqPop → again) ∧ (k.dqPop ≤ s.now → Unlisted s old → ∃ t, exec e s = .next t ∧ given t old (spillTime s core) ∧
      (coreAt t core).deque = k.deque ∧ spillHead t core = (spillHead s core + 1) % spillWord s core 0 ∧
      spillCnt t core = spillCnt s core - 1 ∧ ∀ n, spillFrame t core n = spillFrame s core n)) ∧
    (¬ spilled → (∀ f c l r, k.deque = l ++ ⟨f, c⟩ :: r → ReadyIn s core ⟨f, c⟩ → Stealable s core thief mask f →
        (∀ x ∈ r, ReadyIn s core x → ¬ Stealable s core thief mask x.f) → (s.now < k.dqPop → again) ∧
        (k.dqPop ≤ s.now → Unlisted s f → ∃ t, exec e s = .next t ∧ given t f 0 ∧ SameMemory s t ∧
          (coreAt t core).deque = k.deque.filter (fun x => x.f ≠ f))) ∧
      ((∀ x, ReadyIn s core x → ¬ Stealable s core thief mask x.f) → ∃ t, exec e s = .next t ∧ SameMemory s t ∧ SameThreads s t ∧
        (∀ c, coreAt t c = coreAt s c) ∧ MessageTo t core thief 0 (.emptyAnswer thief core)))) ∧
  (∀ (s : State) (f : Frame) (core : Nat) (src : TId) (tag : Nat),
    let k := coreAt s core
    let e := Instr.frameMessage f core src tag
    let refused (ti : TrapInfo) : Prop := ∃ t, exec e s = .next t ∧ AnswerOnWay t (.acknowledgement src tag (some ti)) ∧ SameMemory s t ∧
      SameThreads s t ∧ (coreAt t core).deque = k.deque
    let again : Prop := exec e s = .next { s with agenda := agendaPut s.agenda (s.now + 1) e }
    (tag ≠ 256 → (k.retired = true → refused ⟨0x11, BitVec.ofNat 64 core, taskWord 0 0x387 0 core⟩) ∧
      (k.retired = false → enterOk s core f = false → refused ⟨0x60, 0, BitVec.ofNat 64
        (f.seq.toNat * 2 ^ 40 + f.origin.toNat * 2 ^ 29 + 0x387 * 2 ^ 18 + core)⟩) ∧
      (k.retired = false → enterOk s core f = true →
        (Jammed s core → refused ⟨0x23, k.dqspill, taskWord (spillCnt s core) 0x387 0 core⟩) ∧
        (¬ Jammed s core → Full s core ∨ s.now < k.dqPush → again) ∧
        (¬ Full s core → k.dqPush ≤ s.now → ∃ t, exec e s = .next t ∧ AnswerOnWay t (.acknowledgement src tag none) ∧ SameMemory s t ∧
          SameThreads s t ∧ (coreAt t core).deque = ⟨f, some s.now⟩ :: k.deque ∧ (coreAt t core).dqPush = s.now + 1))) ∧
    (tag = 256 → ∃ t, exec e s = .next t ∧ SameThreads s t ∧ (coreAt t core).claim = some (f, s.now, src.core) ∧
      (coreAt t core).probeOut = none ∧ (coreAt t core).probePtr = 0 ∧ (s.now, .claimLatchStart core) ∈ t.agenda ∧
      (Unlisted s f → SameMemory s t))) ∧
  (∀ (s : State) (core slot : Nat),
    let k := coreAt s core
    let own := (slotAt k slot).owner
    let fits (x : DqEnt) : Prop := ReadyIn s core x ∧ x.f.queue.toNat = own ∧ placeOk s core x.f slot false = true
    let free : Prop := slotTakes s core slot own = true ∧ k.dqPop ≤ s.now
    let due : Prop := k.refilling = false ∧ k.spilling = [] ∧ 0 < spillCnt s core ∧ ¬ Full s core
    (¬ free → exec (.slotPop core slot) s = .next s) ∧
    (free → (∀ f c l r, k.deque = l ++ ⟨f, c⟩ :: r → fits ⟨f, c⟩ → (∀ x ∈ l, ¬ fits x) → ∃ t, exec (.slotPop core slot) s = .next t ∧
        StartedIn s t ⟨core, slot⟩ (frameThread s f) ∧ (coreAt t core).deque = k.deque.filter (fun x => x.f ≠ f) ∧
        (coreAt t core).dqPop = s.now + 1 ∧ (Unlisted s f → SameMemory s t)) ∧
      ((∀ x, ¬ fits x) → (¬ due → exec (.slotPop core slot) s = .next s) ∧
        (due → exec (.slotPop core slot) s = .next { setCore s core { k with refilling := true } with
          agenda := agendaPut s.agenda (s.now + (spillTime s core + min 32 (min (spillCnt s core) (64 - k.deque.length)))) (.dequeRefill core) })))) ∧
  (∀ (s : State) (th : Thread) (pk : Park) (src : TId) (target : Nat), thread? s src = some th → th.park = some pk → th.mate = none →
    let h := hops (src.core / 16) (target / 16)
    let q := th.launch.toNat / 1024
    let e := Instr.contextMessage th.uid src target
    ((∀ p d a, pk.retry ≠ some (.migrate p d a)) → exec e s = .next s) ∧
    ((∃ p d a, pk.retry = some (.migrate p d a)) →
      ((∀ n, 1 ≤ n → n ≤ 15 → slotTakes s target n q = false) → exec e s = .next (setThread
        (setCore s src.core { coreAt s src.core with forwards := (coreAt s src.core).forwards.filter (fun f => f.uid ≠ th.uid) }) src
        { th with cont := 5, park := some { pk with why := .until (s.now + 24 + 2 * h) } })) ∧
      (∀ n, 1 ≤ n → n ≤ 15 → slotTakes s target n q = true → (∀ m < n, 1 ≤ m → slotTakes s target m q = false) →
        (th.cont = 2 → exec e s = .next (setThread s src { th with cont := 4 })) ∧
        (th.cont = 3 → ∃ t, exec e s = .next t ∧ thread? t src = some { th with cont := 7 } ∧ SameOthers s t src ∧ SameMemory s t ∧
          ContextSent s t src target 0 (th.release.getD s.now + 160 + 2 * h - s.now) th.uid) ∧
        (th.cont = 7 → ∃ t, exec e s = .next t ∧
          thread? t ⟨target, n⟩ = some { th with cont := 6, park := some { pk with why := .until s.now } } ∧
          (slotAt (coreAt t src.core) src.slot).occ = .free ∧ (slotAt (coreAt t src.core) src.slot).freeAt = s.now ∧
          (∀ v, v ≠ src → v ≠ ⟨target, n⟩ → thread? t v = thread? s v) ∧
          t.groups = s.groups ∧ (src.core / 16 = target / 16 → SameMemory s t) ∧
          (coreAt t src.core).forwards = (coreAt s src.core).forwards.map (fun f => if f.uid = th.uid then { f with gone := true } else f))))) ∧
  (∀ (s : State) (o : Op), s.ops.find? (fun x => x.id = o.id) = some o →
    let freed (u : State) : State := { u with cores := u.cores.map (fun x => (x.1, { x.2 with
      forwards := (x.2.forwards.map (fun f => { f with ops := f.ops.filter (fun n => n != o.id) })).filter (fun f => f.ops != []) })) }
    ((∀ f ∈ (coreAt s o.t.core).forwards, o.id ∉ f.ops) → ∃ u, exec (.nearLoadLand o.t o.id) s = .next u ∧
      ∀ core, exec (.loadForward core o.id) s = .next (freed u)) ∧
    (∀ f, (coreAt s o.t.core).forwards.find? (fun f => o.id ∈ f.ops) = some f → f.gone = true → ∀ u th, findUid s o.uid = some (u, th) →
      exec (.nearLoadLand o.t o.id) s = .next { s with
        agenda := agendaPut s.agenda (s.now + (48 + 4 * hops (o.t.core / 16) (u.core / 16))) (.loadForward o.t.core o.id) }))

/-! ### Waits, saves and balancing -/

namespace Sys2Proof.Says

/-- An event is on its way out: on the torus, at a die boundary, on the host link, or laid down. -/
def GoesOut (t : State) (e : Instr) : Prop := AnswerOnWay t e ∨ ∃ b ∈ t.hostLink, b.then_ = e
/-- scr.einfo of trap 0x20 (R242). -/
def limitWord (value num kind op : Nat) (arr full : Bool) : Word :=
  BitVec.ofNat 64 (value % 2 ^ 32 * 2 ^ 32 + num * 2 ^ 16 + (if arr then 2 ^ 15 else 0) + (if full then 2 ^ 14 else 0) + kind * 2 ^ 10 + op)
/-- Trap 0x20 of a wait at a home, whose word and state are these (R242). -/
def homeLimitOf (q : MemReq) (value : Nat) (full : Bool) : TrapInfo :=
  match q.op with
  | .ldfe | .ldff | .stfe _ => ⟨0x20, q.va, limitWord 0 0 0 q.opc false full⟩
  | .waita _ _ _ => if q.opc = 0x389 then ⟨0x20, 0, limitWord 0 0 7 q.opc false false⟩ else ⟨0x20, q.va, limitWord value 0 1 q.opc false false⟩
  | _ => ⟨0x20, 0, limitWord 0 0 7 q.opc false false⟩
/-- Trap 0x20 of a parked thread (R242). -/
def limitOf (s : State) (th : Thread) (pk : Park) : TrapInfo :=
  let op := (pk.retry.map opOf).getD 0
  let plain (kind num : Nat) : TrapInfo := ⟨0x20, 0, limitWord 0 num kind op false false⟩
  match pk.why with
  | .presence _ o => ⟨0x20, 0, limitWord 0 0 7 o false false⟩
  | .far q | .homeWait q => homeLimitOf q (ofBytesLE (placeRead s q.place (opBytes q.op))) (feFull s q.place)
  | .waitCnt _ _ _ _ => plain 2 0
  | .arrive pg die n =>
    let num := (if pg then 64 else 0) + n
    if isBar pk.retry then ⟨0x20, 0, limitWord ((((findGroup s pg die n).bind (fun gr => member? gr th.uid)).map
      (fun m => (m.phase + 1).toNat)).getD 0) num 4 op false false⟩ else plain 3 num
  | .bwait pg _ n p arr => ⟨0x20, 0, limitWord p.toNat ((if pg then 64 else 0) + n) 4 op arr false⟩
  | .chRead n => plain 5 n
  | .chWrite n => plain 6 n
  | _ => plain 7 0
/-- The waits of an identity at its homes have ended. -/
def NoWaits (t : State) (uid : Nat) : Prop :=
  (∀ w ∈ t.homeWaiters, w.q.uid ≠ uid) ∧ (∀ g, ∀ w ∈ (clusterAt t g).waiters, w.q.uid ≠ uid) ∧ ∀ h ∈ t.pageHolds, h.uid ≠ uid
/-- The wait with which a save does away with no effect (R322). -/
def EndsAtOnce (s : State) (th : Thread) (pk : Park) : Prop :=
  match pk.why with
  | .presence _ _ | .pageHeld _ _ | .copyQueue | .waitCnt _ _ _ _ | .arrive _ _ _ | .bwait _ _ _ _ _
  | .frwait _ _ | .chRead _ | .chWrite _ | .counter _ | .dequeSpill | .joinWait _ _ _ | .framePresent _ => True
  | .engineQueue => ∀ p d b, pk.retry ≠ some (.digestT p d b)
  | .homeWait q => waitsAtHome q.op = true ∧ ((∃ cc n v, q.op = .waita cc n v) ∨ q.op = .join ∨
      ∃ w ∈ waitersOf s (homeOf s q.place), w.q.uid = q.uid ∧ w.q.opId = q.opId)
  | .token _ => (∃ p d a, pk.retry = some (.cwait p d a)) ∨ ∃ p ck d a, pk.retry = some (.yieldTok p ck d a)
  | .far q => waitsAtHome q.op = true ∧ q.op ≠ .join ∧ stillHeld s th.uid = true
  | _ => False
/-- A thread that a save has stopped, with the plan of the save (R322, R324, R326). -/
def standing (s : State) (th : Thread) (ck : BitVec 16) (reissue : Bool) : Thread :=
  { (match th.park.map Park.why with
      | some (.homeWait q) | some (.far q) => setDest th q.dest
      | _ => th) with
    park := some ⟨.event, none, s.now⟩
    latch := none
    cont := 0
    release := none
    pops := []
    saveDue := th.saveDue.map (fun d => { d with plan := some ⟨ck, reissue, reissue && th.barArr.isSome, isFrwait th, none⟩ }) }
/-- The event leaves the thread standing so. -/
def Stands (s : State) (e : Instr) (t : TId) (th' : Thread) : Prop :=
  ∃ t', exec e s = .next t' ∧ thread? t' t = some th' ∧ SameMemory s t' ∧ SameOthers s t' t ∧ NoWaits t' th'.uid
/-- A SCHEDULER notification (R421). -/
def schedWord (code core count : Nat) : Note :=
  ⟨0x23, [BitVec.ofNat 8 code] ++ bytesLE core 2 ++ [0] ++ bytesLE count 4 ++ bytesLE 0 48⟩
/-- The queue of a thread. -/
def queueNum (th : Thread) : Nat := th.launch.toNat / 1024
/-- The place of a saved image, and the bytes that a save of the thread writes. -/
def poolAt (s : State) (q off : Nat) : Word := (queueAt s q).savepool + BitVec.ofNat 64 off
def savedBytes (s : State) (t : TId) (th : Thread) (p : SavePlan) : List Byte := (savedImage s t th p).2.2.2

/-- The queues of the highest class that have demand on a core, lowest first, and the slots each receives (R315). -/
def topQueues (s : State) (core : Nat) : List Nat :=
  (List.range 64).filter (fun q => demand s core q &&
    (List.range 64).all (fun p => !demand s core p || decide ((queueAt s p).cls ≤ (queueAt s q).cls)))
def weightSum (s : State) (core : Nat) : Nat := ((topQueues s core).map (fun q => (queueAt s q).weight)).sum
def wholeShare (s : State) (core q : Nat) : Nat := 15 * (queueAt s q).weight / weightSum s core
def slotShare (s : State) (core q : Nat) : Nat :=
  wholeShare s core q +
    (if ((topQueues s core).filter (fun p => decide (p < q))).length < 15 - ((topQueues s core).map (wholeShare s core)).sum then 1 else 0)
def ownerOf (s : State) (core n : Nat) : Nat := (slotAt (coreAt s core) n).owner

/-- A thread parked in JOIN. -/
def InJoin (th : Thread) : Bool :=
  match th.park.bind Park.retry with
  | some (.join _ _) => true
  | _ => false

end Sys2Proof.Says

/-- R37, R60, R142, R242, R314-R316, R322-R327, R333: forfeited turns end; ALIGN's park ends after 256 cycles; a wait at its limit
takes trap 0x20 or sends a withdrawal; a save stops its thread, writes its image and frees its slot; a restore starts the thread
from its image; a balancing step gives each queue its slots; and a list that does not go on is given up.
In part the model's choice: logs 23, 24, 60 to 62 and 74. -/
def Obligations.ThreadEvents : Prop :=
  (∀ (s : State) (t : TId) (th : Thread), thread? s t = some th →
    exec (.forfeitEnd t) s = .next (setThread s t (if th.forfeit = 1 then { th with forfeit := 0, ready := max th.ready (s.now + 1) } else th)) ∧
    (th.park = none → exec (.alignTimeout t) s = .next s ∧ exec (.waitLimit t) s = .next s) ∧
    (∀ k p i c, th.park = some ⟨.align k, some i, c⟩ → (s.now < c + 256 → exec (.alignTimeout t) s = .next s) ∧
      (c + 256 ≤ s.now → i = .align p k → ∃ t', exec (.alignTimeout t) s = .next t' ∧ OnlyCores s t' ∧ SameOthers s t' t ∧
        t'.resume = some (t, i) ∧ thread? t' t = some { th with park := none, ready := s.now + 1 }))) ∧
  (∀ (s : State) (t : TId) (th : Thread) (pk : Park), thread? s t = some th → th.park = some pk →
    let far (q : MemReq) : Prop := pk.why = .far q ∧ q.op ≠ .join ∧ stillHeld s th.uid = false
    let back (th : Thread) : Thread := match pk.why with
      | .far q | .homeWait q => setDest th q.dest
      | _ => th
    (∀ q, far q → Leaves s (t.core / 16) q.place → ∃ t', exec (.waitLimit t) s = .next t' ∧ thread? t' t = some { th with cont := 8 } ∧ GoesOut t' (.withdrawal q) ∧
      SameMemory s t' ∧ SameOthers s t' t) ∧
    ((∀ q, ¬ far q) → CanTrap th → th.pops = [] → ∃ t', exec (.waitLimit t) s = .next t' ∧ SameMemory s t' ∧ SameOthers s t' t ∧
      NoWaits t' th.uid ∧
      thread? t' t = some (ended { back th with ready := s.now + 1, barArr := none, scr := trapScr th (limitOf s th pk) } th.scr.tvec true)) ∧
    (∀ q r, pk.why = .replied q r → r.fault = none → r.withdrawn = true → th.deferred = [] →
      (th.cont ≠ 9 → CanTrap th → th.pops = [] → ∃ t', exec (.threadWake t) s = .next t' ∧ SameMemory s t' ∧ SameOthers s t' t ∧
        thread? t' t = some (ended { setDest th q.dest with
          ready := s.now + 1, scr := trapScr th (homeLimitOf q r.data.toNat (r.flags.getLsbD 0)) } th.scr.tvec true)) ∧
      (∀ d, th.cont = 9 → th.saveDue = some d → d.full = true → Stands s (.threadWake t) t
        (standing s { setDest th q.dest with ready := s.now + 1, barArr := none } 0xFFFF true)))) ∧
  (∀ (s : State) (t : TId) (th : Thread) (d : SaveDue), thread? s t = some th → th.saveDue = some d →
    let q := queueNum th
    let full : Thread := { th with saveDue := some { d with full := true } }
    (d.plan ≠ none → exec (.saveDeadline t) s = .next s) ∧
    (d.plan = none → d.blocked = true → (s.now < d.deadline → exec (.saveDeadline t) s = .next s) ∧
      (d.deadline ≤ s.now → ∃ t', exec (.saveDeadline t) s = .next t' ∧ SameMemory s t' ∧ SameOthers s t' t ∧
        thread? t' t = some { th with saveDue := some { d with full := true, deadline := s.now + (queueAt s q).deadline } } ∧
        (queueAt t' q).notes = (queueAt s q).notes ++
          [schedWord (if (unitPlace s q (queueAt s q).savepool true).isSome then 0 else 3) t.core 0])) ∧
    (d.plan = none → d.blocked = false →
      (th.park = none → Stands s (.saveDeadline t) t (standing s full 0xFFFF false)) ∧
      (∀ pk, th.park = some pk → (EndsAtOnce s th pk → Stands s (.saveDeadline t) t (standing s full 0xFFFF true)) ∧
        (∀ k, pk.why = .align k → Stands s (.saveDeadline t) t (standing s (ended full (succPc th.pc) false) 0xFFFF false)) ∧
        (∀ r, pk.why = .far r → waitsAtHome r.op = true → r.op ≠ .join → stillHeld s th.uid = false → th.cont ≠ 9 →
          Leaves s (t.core / 16) r.place → ∃ t', exec (.saveDeadline t) s = .next t' ∧ thread? t' t = some { full with cont := 9 } ∧ GoesOut t' (.withdrawal r) ∧
            SameMemory s t' ∧ SameOthers s t' t)) ∧
      (∀ n c i, th.park = some ⟨.chkpt n, i, c⟩ → Stands s (.threadSave t) t (standing s (ended th (succPc th.pc) false) n false)) ∧
      (∀ p n e a tok c, th.park = some ⟨.token tok, some (.yieldTok p n e a), c⟩ → Stands s (.threadSave t) t (standing s th n true)) ∧
      (∀ r i c, th.park = some ⟨.homeWait r, i, c⟩ → r.opc = 0x389 →
        Stands s (.threadSave t) t (standing s th (((th.latch.getD []).getD 2 0).setWidth 16) true)))) ∧
  (∀ (s : State) (t : TId) (th : Thread) (d : SaveDue) (p : SavePlan), thread? s t = some th → th.saveDue = some d → d.plan = some p →
    let q := queueNum th
    let e := Instr.threadSave t
    (p.image = none → (¬ (th.ld = 0 ∧ th.st = 0 ∧ th.tl = 0) → exec e s = .next s) ∧
      (th.ld = 0 → th.st = 0 → th.tl = 0 →
        let len := (savedBytes s t th p).length
        (∀ off pl, poolRoom (queueAt s q) len = some off → unitPlace s q (poolAt s q off) true = some pl →
          unitSpan s q (poolAt s q off) len true = true → ∃ t', exec e s = .next t' ∧ SameMemory s t' ∧ SameOthers s t' t ∧
            thread? t' t = some { th with saveDue := some { d with plan := some { p with image := some (off, len) } } } ∧
            (queueAt t' q).poolUsed = (queueAt s q).poolUsed ++ [(off, len)] ∧
            t'.agenda = agendaPut s.agenda (s.now + (16 + (len + 63) / 64 + farTime (t.core / 16) pl false)) e) ∧
        (poolRoom (queueAt s q) len = none → ∃ t', exec e s = .next t' ∧ SameMemory s t' ∧ SameOthers s t' t ∧
          (d.deadline ≤ s.now → (queueAt t' q).notes = (queueAt s q).notes ++ [schedWord 0 t.core 0]) ∧
          thread? t' t = some { th with
            park := none
            ready := s.now + 1
            saveDue := some { d with
              plan := none
              blocked := true
              full := d.full || decide (d.deadline ≤ s.now)
              deadline := if d.deadline ≤ s.now then s.now + (queueAt s q).deadline else d.deadline } }))) ∧
    (∀ off len u, p.image = some (off, len) → th.mate = none → unitWrite s q (poolAt s q off) (savedBytes s t th p) = some u →
      ∃ t' sv, exec e s = .next t' ∧ (slotAt (coreAt t' t.core) t.slot).occ = .free ∧ SameOthers s t' t ∧ sv ∈ t'.saved ∧
        (∀ x ∈ s.saved, x ∈ t'.saved) ∧ sv.uid = th.uid ∧ sv.queue = q ∧ sv.thread = { th with saveDue := none, park := none } ∧
        sv.home = t ∧ sv.image = off ∧ sv.length = len ∧ sv.held = d.held ∧ sv.doneAt = s.now ∧
        ((∀ l ∈ (clusterAt s (t.core / 16)).cache, l.dirty = 0) → SameMemory u t'))) ∧
  (∀ (k : Queue) (n off : Nat), poolRoom k n = some off →
    off + n ≤ k.savelen ∧ ∀ u ∈ k.poolUsed, off + n ≤ u.1 ∨ u.1 + u.2 ≤ off) ∧
  (∀ (s : State) (q uid : Nat) (t : TId),
    ((∀ x ∈ s.saved, ¬ (x.queue = q ∧ x.uid = uid ∧ x.held = false)) → exec (.threadRestore q uid t) s = .next s) ∧
    (∀ x, s.saved.find? (fun y => y.queue = q && y.uid = uid && !y.held) = some x →
      let ok : Prop := slotTakes s t.core t.slot q = true ∧ permitted s x t.core t.slot = true ∧ mateOk s x t.core t.slot = true
      (¬ ok → exec (.threadRestore q uid t) s = .next s) ∧
      (ok → ∀ pl bs, unitPlace s q (poolAt s q x.image) false = some pl → unitRead s q (poolAt s q x.image) x.length = some bs →
        ∃ t', exec (.threadRestore q uid t) s = .next t' ∧
          thread? t' t = some { imageThread x.thread bs x.vec with
            ready := s.now + farTime (t.core / 16) pl false + (x.length + 63) / 64 + 24 } ∧
          (∀ v, v ≠ t → v ≠ ⟨t.core, mateOf t.slot⟩ → thread? t' v = thread? s v) ∧
          t'.saved = s.saved.filter (fun y => y.uid ≠ uid) ∧
          (queueAt t' q).poolUsed = (queueAt s q).poolUsed.filter (fun u => u.1 ≠ x.image)))) ∧
  (∀ (s : State), ∃ t, exec .balancingStep s = .next t ∧ SameMemory s t ∧
    ∀ core < 2048, core ∈ s.cores.map Prod.fst → 0 < weightSum s core →
      (∀ q ∈ topQueues s core, (((List.range 16).drop 1).filter (fun n => ownerOf t core n = q)).length = slotShare s core q) ∧
      ∀ n, 1 ≤ n → n ≤ 15 → ∀ th, thread? s ⟨core, n⟩ = some th → ∃ th', thread? t ⟨core, n⟩ = some th' ∧
        (ownerOf t core n ≠ ownerOf s core n → th'.saveDue ≠ none) ∧
        (ownerOf t core n = ownerOf s core n → (slotAt (coreAt s core) (mateOf n)).occ ≠ .withheld →
          th' = { th with saveDue := th.saveDue.map (fun d => if d.blocked then { d with blocked := false, full := true } else d) })) ∧
  (∀ (s : State) (core : Nat) (id : BitVec 16),
    let e := Instr.replayDivergenceDeadline core id
    (launchOf s id = none → exec e s = .next s) ∧
    (∀ l, launchOf s id = some l → let m := moveSt s core l
      let d := (queueAt s l.queue).deadline
      (nextMove s core l = .off ∨ nextMove s core l = .none → exec e s = .next s) ∧
      (nextMove s core l = .bad → ∃ t, exec e s = .next t ∧ (moveSt t core l).diverged = true ∧ SameMemory s t ∧ SameThreads s t ∧
        (queueAt t l.queue).notes = (queueAt s l.queue).notes ++ [schedWord 1 core 0]) ∧
      (∀ w0 w1, nextMove s core l = .entry w0 w1 → s.now < m.since + d → exec e s = .next s) ∧
      (∀ w0 w1, nextMove s core l = .entry w0 w1 → m.since + d ≤ s.now →
        let joins := (coreThreads core (coreAt s core)).find? (fun x => x.2.launch = id && InJoin x.2)
        let ready : Prop := (∃ f, Lies s core f ∧ launchOfFrame f = id) ∨ ∃ f c v, (coreAt s core).claim = some (f, c, v) ∧ launchOfFrame f = id
        (∀ u th, joins = some (u, th) → CanTrap th → th.pops = [] → ∃ t, exec e s = .next t ∧ (moveSt t core l).diverged = true ∧
          SameMemory s t ∧ thread? t u = some (ended { th with
            ready := s.now + 1
            scr := trapScr th ⟨0x60, 0, BitVec.ofNat 64 (0x388 * 2 ^ 18 + 2 * 2 ^ 12 + core)⟩ } th.scr.tvec true)) ∧
        (joins = none → (ready → ∃ t, exec e s = .next t ∧ (moveSt t core l).diverged = true ∧ SameMemory s t ∧ SameThreads s t ∧
            (queueAt t l.queue).notes = (queueAt s l.queue).notes ++ [schedWord 1 core 0]) ∧
          (¬ ready → ∃ t, exec e s = .next t ∧ moveSt t core l = { m with since := s.now } ∧ SameMemory s t ∧ SameThreads s t ∧
            t.agenda = agendaPut s.agenda (s.now + d) e)))))

/-! ### Host queues and their records -/

namespace Sys2Proof.Says

/-- A queue from which records are taken, and the bytes that it has still to consume (R411, R413). -/
def Running (k : Queue) : Prop := k.enable = true ∧ k.stopped = false ∧ k.disabling = false
def toConsume (k : Queue) : Nat := (k.prod + 2 ^ 64 - k.cons) % 2 ^ 64
/-- A number in a record's bytes. -/
def fieldAt (bs : List Byte) (i n : Nat) : Nat := ofBytesLE ((bs.drop i).take n)
/-- STATUS of a stopped queue (R410). -/
def stoppedWord (err detail off : Nat) : Word := BitVec.ofNat 64 (off % 2 ^ 32 * 2 ^ 32 + detail % 2 ^ 16 * 2 ^ 16 + err % 256 * 256 + 2)
/-- The queue stops with an error, which is notified and raises its vector (R419). -/
def Stops (s t : State) (q err detail off : Nat) : Prop :=
  SameMemory s t ∧ SameThreads s t ∧ (queueAt t q).stopped = true ∧ (queueAt t q).err = BitVec.ofNat 8 err ∧
    (queueAt t q).detail = BitVec.ofNat 16 detail ∧ (queueAt t q).offset = BitVec.ofNat 32 off ∧
    (queueAt t q).notes = (queueAt s q).notes ++ [⟨0x20, leBytes 8 (stoppedWord err detail off) ++ List.replicate 48 0⟩] ∧
    (queueAt t q).msixRaised = (queueAt s q).msixRaised + 1
/-- A running queue with the header `r` has something at CONS: the byte of its tag and its first 8 bytes. -/
def AtCons (s : State) (q : Nat) (r : Ring) (tg : Byte) (h : List Byte) : Prop :=
  let k := queueAt s q
  Running k ∧ toConsume k ≠ 0 ∧ queueRing s q = some r ∧
    unitRead s q (BitVec.ofNat 64 (r.tags + k.cons % r.size / 64)) 1 = some [tg] ∧
    unitRead s q (BitVec.ofNat 64 (r.base + k.cons % r.size)) 8 = some h
def recSpan (h : List Byte) : Nat := (fieldAt h 0 3 + 63) / 64 * 64
/-- The first check of R372 and R415 that a record's header fails. -/
def headErr (k : Queue) (r : Ring) (tg : Byte) (h : List Byte) : Option Nat :=
  let len := fieldAt h 0 3
  let kind := fieldAt h 3 1
  let pos := k.cons % r.size
  if 4 ≤ tg.toNat ∨ fieldAt h 4 4 ≠ 0 then some 0x05
  else if len < 8 ∨ len % 8 ≠ 0 then some 0x02
  else if r.size < pos + recSpan h then some 0x03
  else if toConsume k < recSpan h then some 0x04
  else if 6 < kind then some 0x01
  else if kind = 0 ∧ len ≠ r.size - pos ∨ kind ≠ 0 ∧ k.skip = 0 ∧ len ≠ (if kind = 1 then 256 else if kind = 5 then 8 else 32) then some 0x02
  else none
/-- The state once the record's space is free: its tag has gone through 3 to 0, and CONS stands past it (R370, R414). -/
def spaceFreed (s : State) (q : Nat) (r : Ring) (span : Nat) : State :=
  let k := queueAt s q
  let tag := BitVec.ofNat 64 (r.tags + k.cons % r.size / 64)
  let d := (unitWrite s q tag [3]).getD s
  let u := (unitWrite d q tag [0]).getD d
  (unitWrite u q (k.ring + 24) (bytesLE ((k.cons + span) % 2 ^ 64) 8)).getD u
def Consumed (s t : State) (q : Nat) (r : Ring) (span : Nat) : Prop :=
  SameMemory (spaceFreed s q r span) t ∧ (queueAt t q).cons = ((queueAt s q).cons + span) % 2 ^ 64
/-- A thread is save-due, and will be held (R321). -/
def HeldDue (t : State) (u : TId) : Prop := ∃ th d, thread? t u = some th ∧ th.saveDue = some d ∧ d.held = true
/-- The taken record, and the state without it: it is complete. -/
def IsTaken (s : State) (rid : Nat) (r : TakenRec) : Prop := s.taken.find? (fun x => x.rid = rid) = some r
def completed (s : State) (rid : Nat) : State := { s with taken := s.taken.filter (fun x => x.rid ≠ rid) }
/-- The 8-byte word that a record names. -/
def wordNamed (s : State) (r : TakenRec) : Nat := (recWord s r.queue r.bytes).toNat
/-- The predicate of WAITREC and COND by MODE (R416). -/
def modeHolds (mode w v : Nat) : Prop := if mode = 0 then w = v else if mode = 1 then w ≠ v else v ≤ w
/-- The slots that PREEMPT names, and the launch. -/
def Names (r : TakenRec) (n : Nat) : Prop := 1 ≤ n ∧ n ≤ 15 ∧ fieldAt r.bytes 10 2 / 2 ^ n % 2 = 1
def slotCount (r : TakenRec) : Nat := ((List.range 16).filter (fun n => n ≠ 0 ∧ fieldAt r.bytes 10 2 / 2 ^ n % 2 = 1)).length
def launchNamed (r : TakenRec) : BitVec 16 := BitVec.ofNat 16 (fieldAt r.bytes 12 2)
/-- The thread is still being saved for a PREEMPT. -/
def BeingSaved (th : Thread) : Prop := th.stopped = none ∧ ∃ d, th.saveDue = some d ∧ d.held = true
/-- The registers of a queue as the host writes them (R411): the new descriptor, none where the write is ignored. -/
def written (k : Queue) (r : HostReg) (v : Word) : Option Queue :=
  match r with
  | .ring => if k.enable then none else some { k with ring := v }
  | .root => if k.enable then none else some { k with root := v }
  | .savepool => if k.enable then none else some { k with savepool := v }
  | .savelen => if k.enable then none else some { k with savelen := v.toNat % 2 ^ 32 }
  | .notify => if k.enable then none else some { k with notify := v }
  | .deadline => if 4096 ≤ v.toNat ∧ v.toNat ≤ 2 ^ 24 then some { k with deadline := v.toNat } else none
  | .weight => if 1 ≤ v.toNat ∧ v.toNat ≤ 255 then some { k with weight := v.toNat } else none
  | .cls => if v.toNat < 4 then some { k with cls := v.toNat } else none
  | .msix => some { k with msix := v.setWidth 8 }
  | _ => none
/-- The notification ring takes a record (R370, R421): tag 1, its 64 bytes, tag 2, then PROD. -/
def Laid (s u : State) (q : Nat) (r : Ring) (bs : List Byte) : Prop :=
  let pos := r.prod % r.size
  ∃ s1 s2 s3, unitWrite s q (BitVec.ofNat 64 (r.tags + pos / 64)) [1] = some s1 ∧ unitWrite s1 q (BitVec.ofNat 64 (r.base + pos)) bs = some s2 ∧
    unitWrite s2 q (BitVec.ofNat 64 (r.tags + pos / 64)) [2] = some s3 ∧
    unitWrite s3 q (BitVec.ofNat 64 ((queueAt s q).notify.toNat + 16)) (bytesLE ((r.prod + 64) % 2 ^ 64) 8) = some u

end Sys2Proof.Says

/-- R368, R369, R372, R410, R411, R413-R423: a queue's registers, its enabling, stop and resumption; the doorbell; the taking of the record
at CONS or the error that stops the queue; WAITREC, SIGNAL, COND, FENCE and PREEMPT; and the notifications.
In part the model's choice: logs 70 to 73, 76, 77 and 97. -/
def Obligations.QueueEvents : Prop :=
  (∀ (bs : List Byte) (r : Ring), parseRing bs = some r ↔
    r = ⟨fieldAt bs 0 8, fieldAt bs 8 8, fieldAt bs 16 8, fieldAt bs 24 8, fieldAt bs 32 8⟩ ∧ r.base % 4096 = 0 ∧
      (∃ n, 12 ≤ n ∧ n ≤ 32 ∧ r.size = 2 ^ n) ∧ (r.prod + 2 ^ 64 - r.cons) % 2 ^ 64 ≤ r.size ∧ ∀ b ∈ bs.drop 40, b = 0) ∧
  (∀ (s : State) (q : Nat),
    let k := queueAt s q
    let on : Queue := { k with enable := true, stopped := false, err := 0, detail := 0, offset := 0, skip := 0 }
    let again : Queue := { k with stopped := false, err := 0, detail := 0, offset := 0 }
    (64 ≤ q ∨ s.boot.ready = false ∨ k.enable = true → exec (.queueEnable q) s = .next s) ∧
    (q < 64 → s.boot.ready = true → k.enable = false →
      (∀ r, queueRing s q = some r → exec (.queueEnable q) s = .next (setQueue s q { on with cons := r.cons, prod := r.prod })) ∧
      (queueRing s q = none → ∃ t, exec (.queueEnable q) s = .next t ∧ Stops s t q 0x0B 0xFFFF k.cons)) ∧
    (k.stopped = false → exec (.queueResume q) s = .next s) ∧
    (k.stopped = true → k.enable = true →
      (∀ r, queueRing s q = some r → exec (.queueResume q) s = .next (setQueue s q { again with cons := r.cons, prod := r.prod })) ∧
      (queueRing s q = none → ∃ t, exec (.queueResume q) s = .next t ∧ Stops s t q 0x0B 0xFFFF k.cons)) ∧
    (k.enable = false → exec (.queueDisable q) s = .next s) ∧
    (k.enable = true → (∀ r ∈ s.taken, r.queue ≠ q) →
      exec (.queueDisable q) s = .next (setQueue s q { k with enable := false, disabling := false, stopped := false })) ∧
    (k.enable = true → (∃ r ∈ s.taken, r.queue = q) → exec (.queueDisable q) s = .next (setQueue s q { k with disabling := true })) ∧
    (¬ (k.disabling = true ∧ ∀ r ∈ s.taken, r.queue ≠ q) → exec (.queueDisabled q) s = .next s) ∧
    (k.disabling = true → (∀ r ∈ s.taken, r.queue ≠ q) →
      exec (.queueDisabled q) s = .next (setQueue s q { k with enable := false, disabling := false, stopped := false })) ∧
    (∀ v : Word, (¬ Running k ∨ v.toNat = k.cons → exec (.doorbell q v) s = .next s) ∧
      (Running k → v.toNat ≠ k.cons → (queueRing s q = none → ∃ t, exec (.doorbell q v) s = .next t ∧ Stops s t q 0x0B 0xFFFF k.cons) ∧
        ∀ r, queueRing s q = some r → let n := (v.toNat + 2 ^ 64 - k.cons) % 2 ^ 64
          (r.size < n → ∃ t, exec (.doorbell q v) s = .next t ∧ Stops s t q 0x0A 0xFFFF k.cons) ∧
          (n ≤ r.size → exec (.doorbell q v) s = .next (setQueue s q { k with prod := v.toNat })))) ∧
    (∀ (r : HostReg) (v : Word), r ≠ .pctl → r ≠ .ctl → (64 ≤ q → exec (.registerWrite q r v) s = .next s) ∧
      (q < 64 → exec (.registerWrite q r v) s = .next (match written k r v with
        | some k' => setQueue s q k'
        | none => s))) ∧
    (∀ v : Word, q < 64 → (8 ≤ v.toNat → exec (.registerWrite q .ctl v) s = .next s) ∧
      (v.toNat < 8 → ∃ u, (if v.getLsbD 1 then exec (.queueResume q) (setQueue s q { k with eschold := v.getLsbD 2 }) = .next u
          else u = setQueue s q { k with eschold := v.getLsbD 2 }) ∧
        exec (.registerWrite q .ctl v) s = (if v.getLsbD 0 then exec (.queueEnable q) u else exec (.queueDisable q) u)))) ∧
  (∀ (s : State) (q : Nat), toConsume (queueAt s q) = 0 ∨ ¬ Running (queueAt s q) →
    exec (.takeRecord q) s = .next s ∧ exec (.headlandRecord q) s = .next s) ∧
  (∀ (s : State) (q : Nat) (r : Ring) (tg : Byte) (h : List Byte), AtCons s q r tg h →
    let k := queueAt s q
    let e := Instr.takeRecord q
    let kind := fieldAt h 3 1
    let body := unitRead s q (BitVec.ofNat 64 (r.base + k.cons % r.size)) (fieldAt h 0 3)
    (tg = 0 ∨ tg = 1 ∨ tg = 3 → exec e s = .next s ∧ exec (.headlandRecord q) s = .next s) ∧
    (tg ≠ 0 → tg ≠ 1 → tg ≠ 3 →
      (∀ err, headErr k r tg h = some err → ∃ t, exec e s = .next t ∧ Stops s t q err 0xFFFF k.cons) ∧
      (headErr k r tg h = none →
        (kind = 0 → ∃ t, exec e s = .next t ∧ exec (.headlandRecord q) s = .next t ∧ Consumed s t q r (recSpan h) ∧ t.taken = s.taken ∧
          (queueAt t q).skip = k.skip) ∧
        (kind ≠ 0 → 0 < k.skip → ∃ t, exec e s = .next t ∧ Consumed s t q r (recSpan h) ∧ t.taken = s.taken ∧ (queueAt t q).skip = k.skip - 1) ∧
        (kind ≠ 0 → k.skip = 0 → (body = none → ∃ t, exec e s = .next t ∧ Stops s t q 0x0B 0xFFFF k.cons) ∧ ∀ bs, body = some bs →
          (∀ err d, fieldsBad s q bs = some (err, d) → ∃ t, exec e s = .next t ∧ Stops s t q err d k.cons) ∧
          (fieldsBad s q bs = none → recKind bs = kind → ∃ t x, exec e s = .next t ∧ Consumed s t q r (recSpan h) ∧ t.taken = s.taken ++ [x] ∧
            x.rid = s.nextId ∧ x.queue = q ∧ x.offset = k.cons % 2 ^ 32 ∧ x.bytes = bs ∧ x.taken = s.now ∧
            (∀ u, u ∈ x.uids ↔ kind = 6 ∧ recNum bs 14 1 = 0 ∧ ∃ n th, Names x n ∧ thread? s ⟨recNum bs 8 2, n⟩ = some th ∧ th.uid = u) ∧
            (kind = 1 → (s.now + 32, .launchRecord x.rid) ∈ t.agenda) ∧ (kind = 3 → (s.now, .signal x.rid) ∈ t.agenda) ∧
            (kind ≠ 6 → SameThreads s t) ∧
            (kind = 6 → recNum bs 14 1 = 0 → ∀ n, Names x n → ∀ th, thread? s ⟨recNum bs 8 2, n⟩ = some th → HeldDue t ⟨recNum bs 8 2, n⟩) ∧
            (kind = 6 → recNum bs 14 1 = 1 → (∀ u th, thread? s u = some th → th.launch = launchNamed x → u.slot ≠ 0 → HeldDue t u) ∧
              ∀ y ∈ t.saved, y.thread.launch = launchNamed x → y.held = true)))))) ∧
  (∀ (s : State) (rid : Nat), (∀ r ∈ s.taken, r.rid ≠ rid) → ∀ e ∈ [Instr.waitrec rid, .signal rid, .cond rid, .fenceRecord rid,
    .preemptSaveSlots rid, .preemptSaveLaunch rid, .preemptRelease rid, .preemptDispose rid], exec e s = .next s) ∧
  (∀ (s : State) (rid : Nat) (r : TakenRec), IsTaken s rid r →
    let mode := fieldAt r.bytes 24 1
    let v := fieldAt r.bytes 16 8
    let named (th : Thread) : Prop := th.launch = launchNamed r
    (let holds : Prop := if mode = 3 then tokState s (fieldAt r.bytes 26 2) (BitVec.ofNat 16 v) ≠ 0 else modeHolds mode (wordNamed s r) v
     (holds → exec (.waitrec rid) s = .next (completed s rid)) ∧ (¬ holds → exec (.waitrec rid) s = .next s)) ∧
    (∀ u, unitWrite s r.queue (recAddr r.bytes) (bytesLE v 8) = some u → ∃ t, exec (.signal rid) s = .next t ∧ SameMemory u t ∧
      t.taken = (completed s rid).taken) ∧
    (r.rid = rid → ∃ t w, exec (.cond rid) s = .next t ∧ (w = wordNamed s r ∨ w = r.seen.toNat) ∧ SameMemory s t ∧ t.taken = (completed s rid).taken ∧
      (modeHolds mode w v → t.queues = s.queues) ∧ (¬ modeHolds mode w v → (queueAt t r.queue).skip = fieldAt r.bytes 26 2)) ∧
    (let first : Prop := ∀ x ∈ s.taken, x.queue = r.queue → r.rid ≤ x.rid
     (first → exec (.fenceRecord rid) s = .next (completed s rid)) ∧ (¬ first → exec (.fenceRecord rid) s = .next s)) ∧
    (r.rid = rid → r.taken ≠ s.now →
      let core := fieldAt r.bytes 8 2
      let idle : Prop := r.taken + 10 + 5 * slotCount r ≤ s.now ∧ ∀ u ∈ r.uids, ∀ x, findUid s u = some x → ¬ BeingSaved x.2
      (idle → ∃ t, exec (.preemptSaveSlots rid) s = .next t ∧ SameMemory s t ∧ SameThreads s t ∧ t.taken = (completed s rid).taken ∧
        ∀ n, Names r n → slotAt (coreAt t core) n = { slotAt (coreAt s core) n with freeAt := s.now + 1 }) ∧
      (¬ idle → ∃ t, exec (.preemptSaveSlots rid) s = .next t ∧ SameMemory s t ∧ t.taken = s.taken ∧
        ∀ n th, Names r n → thread? s ⟨core, n⟩ = some th → HeldDue t ⟨core, n⟩)) ∧
    (r.rid = rid → r.taken ≠ s.now →
      let idle : Prop := ∀ x ∈ allThreads s, named x.2 → ¬ BeingSaved x.2
      (idle → exec (.preemptSaveLaunch rid) s = .next (completed s rid)) ∧
      (¬ idle → ∃ t, exec (.preemptSaveLaunch rid) s = .next t ∧ SameMemory s t ∧ t.taken = s.taken ∧
        (∀ u th, thread? s u = some th → named th → u.slot ≠ 0 → HeldDue t u) ∧ ∀ y ∈ t.saved, named y.thread → y.held = true)) ∧
    (exec (.preemptRelease rid) s = .next { completed s rid with
      saved := s.saved.map (fun x => if x.thread.launch = launchNamed r then { x with held := false } else x) }) ∧
    (r.rid = rid → (∀ x ∈ allThreads s, thread? s x.1 = some x.2 ∧ x.2.mate = none) → ∃ t, exec (.preemptDispose rid) s = .next t ∧ SameMemory s t ∧
      t.taken = (completed s rid).taken ∧ ∀ u th, thread? s u = some th →
        (named th ∧ th.stopped ≠ none ∧ u.slot ≠ 0 → (slotAt (coreAt t u.core) u.slot).occ = .free) ∧
        (¬ (named th ∧ th.stopped ≠ none ∧ u.slot ≠ 0) → thread? t u = some th))) ∧
  (∀ (s : State) (q : Nat), (∀ e ∈ s.escal, s.now / 16 ≤ e.cycle / 16) →
    ((queueAt s q).notes = [] → exec (.notificationWrite q) s = .next s) ∧
    (∀ n, (queueAt s q).notes = [n] → n.body.length = 56 →
      (∀ r u, notifyRing s q = some r → (r.prod + 2 ^ 64 - r.cons) % 2 ^ 64 + 64 ≤ r.size →
        Laid s u q r (bytesLE (n.kind.toNat * 2 ^ 24 + 64) 8 ++ n.body) → ∃ t, exec (.notificationWrite q) s = .next t ∧ SameMemory u t ∧
          (queueAt t q).notes = [] ∧ (queueAt t q).msixRaised = (queueAt s q).msixRaised ∧ (n.kind ≠ 0x21 → SameThreads s t) ∧
          (n.kind = 0x21 → (n.body.getD 31 0).getLsbD 1 = false → ∀ th, let t0 : TId := ⟨fieldAt n.body 24 2, (n.body.getD 26 0).toNat⟩
            thread? s t0 = some th → th.stopped ≠ none → (slotAt (coreAt t t0.core) t0.slot).occ = .free)) ∧
      ((∀ r, notifyRing s q = some r → r.size < (r.prod + 2 ^ 64 - r.cons) % 2 ^ 64 + 64) → ∃ t, exec (.notificationWrite q) s = .next t ∧
        SameMemory s t ∧ SameThreads s t ∧ (queueAt t q).notes = [n] ∧ (queueAt t q).msixRaised = (queueAt s q).msixRaised + 1))) ∧
  (∀ (s : State) (q : Nat) (e : Escal), s.escal = [e] → e.cycle / 16 < s.now / 16 → (queueAt s q).notes = [] →
    let p := e.launch.toNat / 1024
    p ≠ q → ∃ t, exec (.notificationWrite q) s = .next t ∧ SameMemory s t ∧ SameThreads s t ∧ t.escal = [] ∧
      (e.t.slot = 0 → t.queues = s.queues) ∧
      (e.t.slot ≠ 0 → (queueAt s p).notify = 0 → (queueAt t p).msixRaised = (queueAt s p).msixRaised + 1 ∧ (queueAt t p).notes = (queueAt s p).notes) ∧
      (e.t.slot ≠ 0 → (queueAt s p).notify ≠ 0 → (queueAt t p).notes = (queueAt s p).notes ++
        [⟨0x21, escalBody e.t e.cycle e.pc e.ti e.launch (1 + if (queueAt s p).eschold then 2 else 0)⟩]))

/-! ### Launches -/

namespace Sys2Proof.Says

/-- First ranks of the stages, the size of the core set, and the cores of a stage (R150, R151). -/
def firstOf (r : LaunchRec) (st : Nat) : Nat := if st = 0 then 0 else r.stages.toList.getD (st - 1) 0
def sizeOf (r : LaunchRec) : Nat := (r.dieHi - r.dieLo + 1) * ((r.clHi - r.clLo + 1) * (r.posHi - r.posLo + 1))
def coresOf (r : LaunchRec) (st : Nat) : Nat := (if st + 1 < r.nstages then firstOf r (st + 1) else sizeOf r) - firstOf r st
/-- The number of tiles along a dimension, and of all tiles (R152). -/
def tilesAlong (r : LaunchRec) (q : Nat) : Nat := ceilDiv (r.ext.toList.getD q 0) (r.tile.toList.getD q 0)
def tilesOf (r : LaunchRec) : Nat := tilesAlong r 0 * tilesAlong r 1 * tilesAlong r 2 * tilesAlong r 3
/-- Mode and slot of a bank byte (R148). -/
def modeNum (m : Vector Byte 32) (b : Nat) : Nat := (m.toList.getD b 0).toNat / 32
def slotNum (m : Vector Byte 32) (b : Nat) : Nat := (m.toList.getD b 0).toNat % 32
def MapGood (m : Vector Byte 32) : Prop :=
  ∀ b < 32, modeNum m b ≤ 4 ∧ (modeNum m b = 0 → slotNum m b = 0) ∧
    (1 ≤ modeNum m b → modeNum m b ≤ 3 → ∀ c < 32, c ≠ b → 1 ≤ modeNum m c → modeNum m c ≤ 3 → slotNum m c ≠ slotNum m b) ∧
    (modeNum m b = 4 → ∃ c < 32, (modeNum m c = 1 ∨ modeNum m c = 2) ∧ slotNum m c = slotNum m b)
/-- The fates of R159 that do not make a record malformed. -/
def LaunchGood (s : State) (q : Nat) (bs : List Byte) : Prop :=
  let r := parseLaunch bs
  (∀ i < 4, r.tile.toList.getD i 0 ≠ 0) ∧ r.dieLo ≤ r.dieHi ∧ r.dieHi ≤ 7 ∧ r.clLo ≤ r.clHi ∧ r.clHi ≤ 15 ∧ r.posLo ≤ r.posHi ∧ r.posHi ≤ 15 ∧
    1 ≤ r.nthreads ∧ r.nthreads ≤ 15 ∧ 1 ≤ r.nstages ∧ r.nstages ≤ 8 ∧ r.queue = q ∧ r.flags.extractLsb' 4 4 = 0 ∧ r.flags.extractLsb' 1 2 ≠ 3 ∧
    (r.flags.extractLsb' 1 2 ≠ 0 → r.moveList ≠ 0 ∧ r.moveList.toNat % 64 = 0) ∧ r.watch.extractLsb' 10 6 = 0 ∧
    (r.watch.getLsbD 6 = true → (r.watch.extractLsb' 0 6).toNat ≤ 15) ∧ (r.watch.getLsbD 9 = true → r.watch.getLsbD 7 = true) ∧
    ((r.watch.getLsbD 7 = true ∨ r.watch.getLsbD 8 = true) → r.watch.getLsbD 6 = false → r.dieLo = r.dieHi) ∧
    fieldAt bs 86 2 = 0 ∧ fieldAt bs 116 4 = 0 ∧ fieldAt bs 172 4 = 0 ∧ fieldAt bs 184 8 = 0 ∧ r.doneAddr.toNat % 8 = 0 ∧ r.nearLen ≤ 2 ^ 22 ∧
    (∀ st, 1 ≤ st → st < r.nstages → firstOf r (st - 1) < firstOf r st ∧ firstOf r st < sizeOf r) ∧
    (∀ k < 7, r.nstages - 1 ≤ k → r.stages.toList.getD k 0 = 0) ∧ (∀ st < r.nstages, tilesOf r ≤ coresOf r st) ∧
    MapGood r.bankMap ∧ ∀ g ∈ clusterSet r, ∃ m, movedMap (clusterAt s g) r.bankMap = .ok m
/-- The launch of a number, its stage in a cluster, and the launches with it changed. -/
def LaunchIs (s : State) (lid : Nat) (l : Launch) : Prop := s.launches.find? (fun x => x.lid = lid) = some l
def stageIn (l : Launch) (g : Nat) : ClPhase := (look g l.clusters).getD .waitMap
def launchesWith (s : State) (lid : Nat) (f : Launch → Launch) : List Launch := s.launches.map (fun x => if x.lid = lid then f x else x)
/-- The launch has reached a stage in cluster g; its other fields are as they were. -/
def NowAt (s t : State) (lid g : Nat) (p : ClPhase) : Prop :=
  t.launches = launchesWith s lid (fun x => { x with clusters := put g p x.clusters })
def atStage (s : State) (lid g : Nat) (p : ClPhase) : State :=
  { s with launches := launchesWith s lid (fun x => { x with clusters := put g p x.clusters }) }
/-- The end of a launch by a fault: its queue stops, and its record is complete (R158). -/
def Failed (s t : State) (l : Launch) (err detail : Nat) : Prop :=
  (∀ r, IsTaken s l.rid r → (queueAt s l.queue).enable = true → (queueAt s l.queue).stopped = false → Stops s t l.queue err detail r.offset) ∧
    t.launches = launchesWith s l.lid (fun x => { x with ended := true, waiting := false }) ∧ t.taken = (completed s l.rid).taken
/-- A launch must wait at its bank map, or behind an earlier launch of its queue that waits (R157). Two WTP launches go together where they
name one group: the same number in the package, or on one die (R278). -/
def OneGroup (a b : LaunchRec) : Prop :=
  a.watch.extractLsb' 0 7 = b.watch.extractLsb' 0 7 ∧ (a.watch.getLsbD 6 = true ∨ a.dieLo = b.dieLo)
def Waits (s : State) (l : Launch) : Prop :=
  (∃ o ∈ s.launches, o.waiting = true ∧ o.queue = l.queue ∧ o.lid < l.lid) ∨
  (∃ o ∈ s.launches, o.lid ≠ l.lid ∧ o.waiting = false ∧ (o.id = l.id ∨
    (∃ g, g ∈ clusterSet o.lrec ∧ g ∈ clusterSet l.lrec) ∧ o.lrec.bankMap ≠ l.lrec.bankMap ∨
    o.lrec.watch.getLsbD 9 = true ∧ l.lrec.watch.getLsbD 9 = true ∧ ¬ OneGroup o.lrec l.lrec)) ∨
  l.lrec.watch.getLsbD 8 = true ∧ joinedGroup s l.lrec ≠ []
/-- Rank, stage and local rank of a core (R150, R151). -/
def rankAt (r : LaunchRec) (core : Nat) : Nat :=
  ((core / 256 - r.dieLo) * (r.clHi - r.clLo + 1) + (core / 16 % 16 - r.clLo)) * (r.posHi - r.posLo + 1) + (core % 16 - r.posLo)
def stageAt (r : LaunchRec) (core : Nat) : Nat := ((List.range r.nstages).filter (fun st => decide (firstOf r st ≤ rankAt r core))).length - 1
def localRank (r : LaunchRec) (core : Nat) : Nat := rankAt r core - firstOf r (stageAt r core)
/-- A dimension's digit of a core's tile, and its origin and extent (R152). -/
def digitAt (r : LaunchRec) (core q : Nat) : Nat :=
  let i := localRank r core
  if q = 3 then i % tilesAlong r 3
  else if q = 2 then i / tilesAlong r 3 % tilesAlong r 2
  else if q = 1 then i / (tilesAlong r 3 * tilesAlong r 2) % tilesAlong r 1
  else i / (tilesAlong r 3 * tilesAlong r 2 * tilesAlong r 1)
def orgAt (r : LaunchRec) (core q : Nat) : Nat := if tilesOf r ≤ localRank r core then 0 else digitAt r core q * r.tile.toList.getD q 0
def extAt (r : LaunchRec) (core q : Nat) : Nat :=
  if tilesOf r ≤ localRank r core then 0 else min (r.tile.toList.getD q 0) (r.ext.toList.getD q 0 - orgAt r core q)
/-- The i-th thread that a launch starts on a core (R153, R155). -/
def startThread (s : State) (l : Launch) (core i : Nat) : Thread :=
  { freshThread s l.id with
    uid := s.nextUid + i
    pc := l.lrec.entry
    stage := stageAt l.lrec core
    org := Vector.ofFn (fun q => BitVec.ofNat 64 (orgAt l.lrec core q.val))
    ext := Vector.ofFn (fun q => BitVec.ofNat 64 (extAt l.lrec core q.val))
    ready := s.now + 1 + i
    w := Vector.ofFn (fun i => if i.val < 8 then l.lrec.args.toList.getD i.val 0 else 0) }
/-- Every record, thread, frame and operation of the launch is over (R155). -/
def Quiet (s : State) (id : BitVec 16) : Prop :=
  (∀ x ∈ allThreads s, x.1.slot ≠ 0 → x.2.launch ≠ id) ∧ (∀ x ∈ s.saved, x.thread.launch ≠ id) ∧ (∀ o ∈ s.ops, o.launch ≠ id) ∧
    ∀ f ∈ waitingFrames s, launchOfFrame f ≠ id
/-- Preload and writeback as one list: the launch's next shape, its copies in flight, and the shapes' array and count. -/
def runAt (wb : Bool) (n : Nat) (out : List (Nat × Nat)) : ClPhase := if wb then .writing n out else .preloading n out
def shapesAt (wb : Bool) (r : LaunchRec) : Word × Nat := if wb then (r.writeback, r.nwb) else (r.preload, r.npre)

end Sys2Proof.Says

/-- R147-R159: a LAUNCH record's validation and number; the wait at the bank map and its application; the near image; preload and
writeback shape by shape; the start of a core's threads, each in its start state; the end of the threads; and the done word.
In part the model's choice: logs 63 to 69. -/
def Obligations.LaunchEvents : Prop :=
  (∀ (s : State) (q : Nat) (bs : List Byte), launchMalformed s q bs = none ↔ LaunchGood s q bs) ∧
  (∀ (s : State) (rid : Nat), (∀ r ∈ s.taken, r.rid ≠ rid) → exec (.launchRecord rid) s = .next s) ∧
  (∀ (s : State) (rid : Nat) (r : TakenRec), IsTaken s rid r →
    let q := r.queue
    let k := queueAt s q
    let x := parseLaunch r.bytes
    let e := Instr.launchRecord rid
    (∀ off, launchMalformed s q r.bytes = some off → ∃ t, exec e s = .next t ∧ t.taken = (completed s rid).taken ∧ t.launches = s.launches ∧
      (queueAt t q).launches = k.launches ∧ (k.enable = true → k.stopped = false → Stops s t q 0x06 off r.offset)) ∧
    (launchMalformed s q r.bytes = none →
      ((∃ n ∈ x.ext.toList, n = 0) → (x.doneAddr = 0 → ∃ t, exec e s = .next t ∧ SameMemory s t ∧ t.launches = s.launches ∧
          t.taken = (completed s rid).taken ∧ (queueAt t q).launches = k.launches + 1) ∧
        (∀ u, x.doneAddr ≠ 0 → unitWrite s q x.doneAddr (bytesLE x.doneVal.toNat 8) = some u → ∃ t, exec e s = .next t ∧ SameMemory u t ∧
          t.launches = s.launches ∧ t.taken = (completed s rid).taken ∧ (queueAt t q).launches = k.launches + 1)) ∧
      ((∀ n ∈ x.ext.toList, n ≠ 0) → ∃ t l, exec e s = .next t ∧ SameMemory s t ∧ SameThreads s t ∧ t.taken = s.taken ∧
        (queueAt t q).launches = k.launches + 1 ∧ t.launches = s.launches ++ [l] ∧ l.lid = s.nextId ∧ l.rid = rid ∧ l.queue = q ∧ l.lrec = x ∧
        l.id = BitVec.ofNat 16 (q * 1024 + (k.launches + 1) % 1024) ∧ l.waiting = true ∧ l.ended = false ∧ l.threadsDone = false ∧
        l.startedCores = [] ∧ ∀ g ∈ clusterSet x, stageIn l g = .waitMap))) ∧
  (∀ (s : State) (lid g : Nat) (l : Launch), LaunchIs s lid l →
    let e := Instr.launchBankMap lid g
    let m := clusterMap s l g
    (l.ended = true ∨ l.waiting = true ∧ Waits s l → exec e s = .next s) ∧
    (l.ended = false → l.waiting = false → stageIn l g ≠ .waitMap ∨ mapReady s l g = false → exec e s = .next s) ∧
    (l.ended = false → l.waiting = false → stageIn l g = .waitMap → mapReady s l g = true → ∃ t d, exec e s = .next t ∧
      NowAt s t lid g .mapped ∧ (s.now + d, .launchNearImage lid g) ∈ t.agenda ∧
      (∀ b < 32, (b ∈ changedBanks s l g m → (bankOf t g b).mode = (modeOfCode (modeNum m b)).getD .cache ∧ (bankOf t g b).slot = slotNum m b ∧
          ∃ c, (bankOf t g b).held = some c ∧ c ≤ s.now + d) ∧
        (b ∉ changedBanks s l g m → bankOf t g b = bankOf s g b)) ∧
      (changedBanks s l g m = [] → d = 0 ∧ SameMemory s t ∧ SameThreads s t)) ∧
    (l.ended = false → l.waiting = true → ¬ Waits s l → replayMode l.lrec = 0 → ∃ t l', exec e s = .next t ∧ LaunchIs t lid l' ∧
      l'.waiting = false ∧ (∀ c, (coreAt t c).lines = []) ∧ ∀ h, ∀ x ∈ (clusterAt t h).cache, x.dirty ≠ 0)) ∧
  (∀ (s : State) (lid g : Nat) (l : Launch), LaunchIs s lid l →
    let e := Instr.launchNearImage lid g
    (l.ended = true ∨ stageIn l g ≠ .mapped → exec e s = .next s) ∧
    (l.ended = false → stageIn l g = .mapped →
      (l.lrec.nearLen = 0 → ∃ t, exec e s = .next t ∧ NowAt s t lid g (.preloading 0 []) ∧ SameMemory s t ∧ SameThreads s t) ∧
      (l.lrec.nearLen ≠ 0 → unitRead s l.queue l.lrec.nearImg l.lrec.nearLen = none → ∃ t, exec e s = .next t ∧ Failed s t l 0x08 160) ∧
      (∀ bs, l.lrec.nearLen ≠ 0 → unitRead s l.queue l.lrec.nearImg l.lrec.nearLen = some bs → ∃ t, exec e s = .next t ∧
        NowAt s t lid g (.preloading 0 []) ∧ SameThreads s t ∧
        (∀ slot < 32, ∀ b, liveBank (clusterAt s g) slot = some b → ∀ i < 2 ^ 17,
          (bankOf s g b).mode = .scratch ∨ (bankOf s g b).mode = .watch ∧ i < 0x18000 → slot * 2 ^ 17 + i < bs.length →
          placeGet t (.near g (slot * 2 ^ 17 + i)) = bs.getD (slot * 2 ^ 17 + i) 0) ∧
        (∀ x, bs.length ≤ x → placeGet t (.near g x) = placeGet s (.near g x)) ∧ t.hbm = s.hbm ∧ t.host = s.host ∧ t.peers = s.peers))) ∧
  (∀ (s : State) (lid g : Nat) (l : Launch) (wb : Bool), LaunchIs s lid l →
    let e := if wb then Instr.launchWriteback lid g else .launchPreload lid g
    let arr := shapesAt wb l.lrec
    (l.ended = true ∨ (∀ n out, stageIn l g ≠ runAt wb n out) → exec e s = .next s) ∧
    (∀ n out, l.ended = false → stageIn l g = runAt wb n out →
      let st (x : Nat × Nat) : Nat := tokState s g (BitVec.ofNat 16 x.2)
      let left := out.filter (fun x => st x = 0)
      (∀ x, out.find? (fun x => st x = 2) = some x → ∃ t, exec e s = .next t ∧ Failed s t l 0x07 x.1) ∧
      ((∀ x ∈ out, st x ≠ 2) →
        (n < arr.2 → copyQueueFull s g = true → exec e s = .next (atStage s lid g (runAt wb n left))) ∧
        (n < arr.2 → copyQueueFull s g = false →
          (unitRead s l.queue (arr.1 + BitVec.ofNat 64 (8 * n)) 8 = none → ∃ t, exec e s = .next t ∧
            (∃ l', LaunchIs t lid l' ∧ l'.ended = true) ∧ t.taken = (completed s l.rid).taken) ∧
          (∀ bs, unitRead s l.queue (arr.1 + BitVec.ofNat 64 (8 * n)) 8 = some bs → ∃ t tok c l', exec e s = .next t ∧ LaunchIs t lid l' ∧
            stageIn l' g = runAt wb (n + 1) (left ++ [(n, tok)]) ∧ c ∈ (clusterAt t g).copies ∧ c.token = BitVec.ofNat 16 tok ∧
            c.addr = wordLE bs ∧ c.near = false ∧ c.launch = l.id ∧ SameThreads s t)) ∧
        (arr.2 ≤ n → left ≠ [] → exec e s = .next (atStage s lid g (runAt wb n left))) ∧
        (arr.2 ≤ n → left = [] → ∃ t l', exec e s = .next t ∧ LaunchIs t lid l' ∧ stageIn l' g = (if wb then .written else .preloaded) ∧
          SameThreads s t ∧ (wb = false → SameMemory s t) ∧
          (wb = true → (∀ x ∈ l.clusters, x.1 ≠ g → x.2 = .written) → g ∈ l.clusters.map Prod.fst → (l.clusters.map Prod.fst).Pairwise (fun a b => a < b) →
            ∃ d, (s.now + d, .doneWord lid) ∈ t.agenda ∧ ∀ h, ∀ x ∈ (clusterAt t h).cache, x.dirty = 0))))) ∧
  (∀ (s : State) (lid core : Nat) (l : Launch), LaunchIs s lid l → replayMode l.lrec ≠ 2 →
    let e := Instr.launchCoreStart lid core
    let slots := (takingSlots s core l.queue).take l.lrec.nthreads
    let may : Prop := launchWaits s core l = true ∧ launchHeld s l.id = false ∧ (look (core / 256) l.starts).getD 0 ≤ s.now ∧
      l.lrec.nthreads ≤ (takingSlots s core l.queue).length
    (¬ may → exec e s = .next s) ∧
    (may → ∃ t l', exec e s = .next t ∧
      (∀ i n, slots[i]? = some n → thread? t ⟨core, n⟩ = some (startThread s l core i)) ∧
      (∀ u, (u.core ≠ core ∨ u.slot ∉ slots) → thread? t u = thread? s u) ∧
      (replayMode l.lrec = 0 → SameMemory s t) ∧ LaunchIs t lid l' ∧ l'.startedCores = l.startedCores ++ [core] ∧
      (look (core / 256) l'.starts) = some (s.now + 1) ∧
      (l.lrec.watch.getLsbD 8 = true → ∀ i < slots.length, ∃ gr ∈ t.groups, gr.pg = l.lrec.watch.getLsbD 6 ∧
        gr.g = (l.lrec.watch.extractLsb' 0 6).toNat ∧ ∃ m ∈ gr.members, m.uid = s.nextUid + i ∧ m.phase = 0) ∧
      (l.lrec.watch.getLsbD 8 = false → t.groups = s.groups))) ∧
  (∀ (s : State) (lid : Nat) (l : Launch), LaunchIs s lid l →
    let finished : Prop := l.waiting = false ∧ l.threadsDone = false ∧ (l.ended = true ∨ (∀ x ∈ l.clusters, x.2 = .preloaded) ∧
      ∀ c ∈ coreSet l.lrec, startsOn l.lrec c = true → c ∈ l.startedCores) ∧ Quiet s l.id
    (¬ finished → exec (.launchThreadsDone lid) s = .next s) ∧
    (finished → l.ended = true → ∃ t, exec (.launchThreadsDone lid) s = .next t ∧ t.launches = s.launches.filter (fun x => x.lid ≠ lid) ∧
      SameMemory s t ∧ SameThreads s t ∧ t.taken = s.taken) ∧
    (finished → l.ended = false → exec (.launchThreadsDone lid) s = .next { s with
      launches := launchesWith s lid (fun x => { x with threadsDone := true, clusters := x.clusters.map (fun y => (y.1, .writing 0 [])) }) }) ∧
    (l.ended = true → exec (.doneWord lid) s = .next s) ∧
    (l.ended = false →
      (∀ u, (if l.lrec.doneAddr = 0 then u = s else unitWrite s l.queue l.lrec.doneAddr (bytesLE l.lrec.doneVal.toNat 8) = some u) →
        ∃ t, exec (.doneWord lid) s = .next t ∧ SameMemory u t ∧ SameThreads s t ∧ t.launches = s.launches.filter (fun x => x.lid ≠ lid) ∧
          t.taken = (completed s l.rid).taken) ∧
      (l.lrec.doneAddr ≠ 0 → unitWrite s l.queue l.lrec.doneAddr (bytesLE l.lrec.doneVal.toNat 8) = none →
        ∃ t, exec (.doneWord lid) s = .next t ∧ Failed s t l 0x08 88)))

/-! ### Boot, reset, power and thermal protection -/

namespace Sys2Proof.Says

/-- The byte offsets of an image in rising order, and none past its length. -/
def ImageOk (s : State) (len : Nat) : Prop :=
  s.boot.image.Pairwise (fun a b => a.1 < b.1) ∧ ∀ x ∈ s.boot.image, x.1 < len
/-- The state with the boot state `b`, and with the event `e` laid down in `ms` milliseconds. -/
def booted (s : State) (b : Boot) : State := { s with boot := b }
def bootNext (s : State) (b : Boot) (ms : Nat) (e : Instr) : State :=
  { s with boot := b, agenda := agendaPut s.agenda (s.now + ms * 1500000) e }
/-- The numbers of the failing units of a kind (R436's rows 1 to 6), each with its die, cluster and index. -/
def FailsAt (k : Nat) (die cl ix : Nat) : Prop := (k, die, cl, ix) ∈ Config.powerOnFailures
/-- A core register's fields of PCTL (R433). -/
def PctlOk (v : Word) : Prop :=
  v.extractLsb' 48 16 = 0 ∧ v.extractLsb' 16 16 = 0 ∧ v.extractLsb' 11 4 = 0 ∧ v.extractLsb' 3 5 = 0 ∧
    1000 ≤ (v.extractLsb' 32 16).toNat ∧ (v.extractLsb' 32 16).toNat ≤ 4500 ∧ v.extractLsb' 8 3 ≠ 7
/-- The power state with the levels g and m in force. -/
def atLevels (p : Power) (g m : Nat) : Power := { p with gate := g, mduty := m }
def modified (s : State) (p : Power) : State := { s with power := p }
/-- The threads of slots 1-15 are due to be saved and not to return. -/
def EveryHeld (s t : State) : Prop := ∀ u th, u.slot ≠ 0 → thread? s u = some th → HeldDue t u

end Sys2Proof.Says

/-- R427-R434: the boot commands and when they are refused; the steps of the boot, each with its time and what it sets, the stewards in
slots 0 among it (R5, R294, R428; their entries and spill areas are the configuration's: log 97); what a device
reset keeps, which is the model's choice where R427-R439 do not name it; a write of PCTL, the controller's step, and the limits of
the hottest die. The signature's verdict is free, and the failing units and stewards are the configuration's.
In part the model's choice: logs 4, 5, 83, 84 and 97. -/
def Obligations.BootAndPower : Prop :=
  (∀ s : State,
    (s.boot.step ≠ 0 → exec .fwCommit s = .next (mailed s 1) ∧ (∀ n, exec (.fwBegin n) s = .next (mailed s 1)) ∧
      ∀ off bs, exec (.fwData off bs) s = .next (mailed s 1)) ∧
    (∀ a, exec (.logSet a) s = .next (booted s { s.boot with logRing := a, mailbox := 0 })) ∧
    (s.boot.step = 0 → ∀ n, (2 ^ 26 < n → exec (.fwBegin n) s = .next (mailed s 2)) ∧
      (n ≤ 2 ^ 26 → exec (.fwBegin n) s = .next (booted s { s.boot with imageLen := some n, image := [], mailbox := 0 }))) ∧
    (s.boot.step = 0 → s.boot.imageLen = none → exec .fwCommit s = .next (mailed s 2) ∧ ∀ off bs, exec (.fwData off bs) s = .next (mailed s 2)) ∧
    (∀ n, s.boot.step = 0 → s.boot.imageLen = some n →
      (∀ off bs, (n < off + bs.length ∨ 4096 < bs.length → exec (.fwData off bs) s = .next (mailed s 2)) ∧
        (off + bs.length ≤ n → bs.length ≤ 4096 → ∃ m, exec (.fwData off bs) s = .next (booted s { s.boot with image := m, mailbox := 0 }) ∧
          ∀ j, look j m = if off ≤ j ∧ j < off + bs.length then bs[j - off]? else look j s.boot.image)) ∧
      (ImageOk s n → (∃ j < n, look j s.boot.image = none) → exec .fwCommit s = .next (mailed s 2)) ∧
      (ImageOk s n → (∀ j < n, look j s.boot.image ≠ none) → ∃ ok, exec .fwCommit s =
        .next (bootNext { s with draw := s.draw + 1 } { s.boot with step := 2, fail := 0, mailbox := 0 } 3 (.bootVerify ok))))) ∧
  (∀ (s : State) (ok : Bool), (s.boot.step ≠ 2 → exec (.bootVerify ok) s = .next s) ∧
    (s.boot.step = 2 → exec (.bootVerify true) s = .next (bootNext s { s.boot with step := 3 } 1 .bootMeasure) ∧
      exec (.bootVerify false) s = .next (booted s { s.boot with step := 0, fail := 1, imageLen := none, image := [], mailbox := 2 }))) ∧
  (∀ s : State, (s.boot.step ≠ 3 → exec .bootMeasure s = .next s) ∧
    (s.boot.step = 3 → ∃ rom fuses pkg, exec .bootMeasure s = .next (bootNext { s with draw := s.draw + 12 } { s.boot with
      step := 4
      measLog := [(1, rom), (2, sha256 (s.boot.image.map Prod.snd)), (3, fuses), (4, pkg)] } 180 .bootTrain) ∧
      rom.length = 32 ∧ fuses.length = 32 ∧ pkg.length = 32)) ∧
  (∀ s : State, (s.boot.step ≠ 4 → exec .bootTrain s = .next s) ∧
    (s.boot.step = 4 → ∃ t, exec .bootTrain s = .next t ∧
      let started : Prop := ∀ d < 8, Config.stewardStarts d = true
      let badRouter : Prop := ∃ die cl ix, FailsAt 5 die cl ix
      (∀ d < 8, t.boot.diesok.getLsbD d = Config.stewardStarts d) ∧
      (∀ c < 2048, (Config.stewardStarts (c / 256) = true →
          (∃ n, s.nextUid ≤ n ∧ thread? t ⟨c, 0⟩ = some { threadReset with uid := n, pc := Config.stewardEntry c, ready := s.now + 1 }) ∧
          (coreAt t c).dqspill = Config.spillBase c &&& ~~~(7 : Word)) ∧
        (Config.stewardStarts (c / 256) = false → thread? t ⟨c, 0⟩ = thread? s ⟨c, 0⟩)) ∧
      (∀ k die cl ix, FailsAt k die cl ix →
        (1 ≤ k → k ≤ 5 → t.boot.degraded = true) ∧ (k = 1 → ix < 32 → (bankOf t (die * 16 + cl) ix).mode = .off) ∧
        (k = 2 → (coreAt t (unitCore .regfile die cl ix)).retired = true) ∧ (k = 3 → (coreAt t (unitCore .engine die cl ix)).retired = true) ∧
        (k = 4 → laneOfUnit die cl ix ∈ t.spared)) ∧
      (¬ started → t.boot.fail = 2 ∧ t.boot.step = 4 ∧ (t.boot.ready = true → s.boot.ready = true)) ∧
      (started → badRouter ∨ s.boot.fail = 3 → t.boot.fail = 3 ∧ t.boot.step = 4 ∧ (badRouter → t.boot.ready = false)) ∧
      (started → ¬ badRouter → s.boot.fail ≠ 3 →
        (s.boot.bootcnt < 4096 → t.boot.step = 5 ∧ t.boot.ready = s.boot.ready ∧ (s.now + 1500000, .bootCounter) ∈ t.agenda) ∧
        (4096 ≤ s.boot.bootcnt → t.boot.step = 7 ∧ t.boot.ready = true ∧ t.boot.attest = s.boot.attest)))) ∧
  (∀ s : State, (s.boot.step ≠ 5 → exec .bootCounter s = .next s) ∧
    (s.boot.step = 5 → exec .bootCounter s =
      .next (bootNext s { s.boot with bootcnt := s.boot.bootcnt + 1, ready := true, step := 6 } 6100 .bootCertify)) ∧
    (s.boot.step ≠ 6 → exec .bootCertify s = .next s) ∧
    (s.boot.step = 6 → exec .bootCertify s = .next (booted s { s.boot with attest := true, leafUsed := 0, step := 7 }))) ∧
  (∀ s : State, ∃ t, exec .deviceReset s = .next t ∧ SameMemory s t ∧ (∀ u, thread? t u = none) ∧ t.queues = [] ∧ t.launches = [] ∧
    t.saved = [] ∧ t.groups = [] ∧ t.agenda = [] ∧ t.holders = [] ∧ t.power = State.reset.power ∧ t.trust = State.reset.trust ∧
    t.boot = { State.reset.boot with bootcnt := s.boot.bootcnt, degraded := s.boot.degraded } ∧ t.spared = s.spared ∧ t.spares = s.spares ∧
    (s.cores.Pairwise (fun a b => a.1 < b.1) → ∀ c, (coreAt t c).retired = (coreAt s c).retired) ∧
    (s.clusters.Pairwise (fun a b => a.1 < b.1) → ∀ g b, (bankOf t g b).mode = if (bankOf s g b).mode = .off then .off else .cache)) ∧
  (∀ (s : State) (q : Nat) (v : Word),
    let p := { s.power with cap := (v.extractLsb' 32 16).toNat, force := v.getLsbD 15, fGate := (v.extractLsb' 0 3).toNat,
                            fMduty := (v.extractLsb' 8 3).toNat }
    (¬ PctlOk v → exec (.registerWrite q .pctl v) s = .next s) ∧
    (PctlOk v → v.getLsbD 15 = true → s.power.thermal = false → exec (.registerWrite q .pctl v) s = .next (modified s (atLevels p p.fGate p.fMduty))) ∧
    (PctlOk v → v.getLsbD 15 = false ∨ s.power.thermal = true → exec (.registerWrite q .pctl v) s = .next (modified s p))) ∧
  (∀ s : State, ∃ t w a, exec .balancingStep s = .next t ∧ w < 2 ^ 16 ∧ a < 2 ^ 16 ∧
    let o := s.power
    let p := { o with power := w, icore := a }
    (o.thermal = true → t.power = atLevels p 7 6) ∧
    (o.thermal = false → o.force = true → t.power = p) ∧
    (o.thermal = false → o.force = false →
      (o.cap < w → o.mduty < 6 → t.power = atLevels p o.gate (o.mduty + 1)) ∧
      (o.cap < w → 6 ≤ o.mduty → t.power = atLevels p (min 7 (o.gate + 1)) o.mduty) ∧
      (w * 100 < o.cap * 98 → 0 < o.gate → t.power = atLevels p (o.gate - 1) o.mduty) ∧
      (w * 100 < o.cap * 98 → o.gate = 0 → t.power = atLevels p 0 (o.mduty - 1)) ∧
      (w ≤ o.cap → o.cap * 98 ≤ w * 100 → t.power = p))) ∧
  (∀ (s : State) (temp : BitVec 8),
    let p := { s.power with temp := temp.toNat }
    let cool := { p with thermal := false }
    (temp.toNat < 105 → exec (.thermalThrottle temp) s = .next (modified s p)) ∧
    (105 ≤ temp.toNat → exec (.thermalThrottle temp) s = .next (modified s (atLevels { p with thermal := true } 7 6))) ∧
    (95 ≤ temp.toNat → exec (.thermalRecover temp) s = .next (modified s p)) ∧
    (temp.toNat < 95 → p.force = true → exec (.thermalRecover temp) s = .next (modified s (atLevels cool p.fGate p.fMduty))) ∧
    (temp.toNat < 95 → p.force = false → exec (.thermalRecover temp) s = .next (modified s cool)) ∧
    (temp.toNat < 115 → exec (.thermalShutdown temp) s = .next (modified s p)) ∧
    (115 ≤ temp.toNat → ∃ t, exec (.thermalShutdown temp) s = .next t ∧ t.power = atLevels { p with thermal := true } 7 6 ∧
      t.boot.ready = false ∧ EveryHeld s t ∧
      (∀ q, (queueAt t q).err = (queueAt s q).err ∧ ((queueAt s q).enable = true → (queueAt t q).stopped = true)) ∧
      (s.boot.logRing = 0 → SameMemory s t ∧ t.boot.evlost = min 255 (s.boot.evlost + 1))))

/-! ### Keys, the group table, the SPDM responder, and self-test -/

namespace Sys2Proof.Says

/-- The responder's answer: 1 a response, 2 Busy, 3 an error. -/
def answered (s : State) (n : Nat) : State := { s with trust := { s.trust with answer := n } }
/-- The bytes of a group's entry in the table at an address (R400), and the i-th word of its member list. -/
def tableEntry (s : State) (a : Word) (g : Nat) : List Byte := placeRead s (physPlace s (a + BitVec.ofNat 64 (64 * g))) 64
def listWord (s : State) (e : List Byte) (i : Nat) : Nat :=
  ofBytesLE (placeRead s (physPlace s (BitVec.ofNat 64 (fieldAt e 16 8 + 4 * i))) 4)
def InUse (e : List Byte) : Prop := fieldAt e 2 1 % 2 = 1
/-- An entry in use that R400 refuses. -/
def EntryBad (s : State) (e : List Byte) : Prop :=
  fieldAt e 2 1 ≠ 1 ∨ fieldAt e 12 4 ≠ 0 ∨ fieldAt e 26 6 ≠ 0 ∨ fieldAt e 36 28 ≠ 0 ∨ fieldAt e 0 2 = 0 ∨ 4096 < fieldAt e 0 2 ∨
    ∃ i < fieldAt e 24 2, fieldAt e 0 2 ≤ listWord s e i / 2 ^ 11 % 2 ^ 12 ∨ 2 ^ 23 ≤ listWord s e i ∨
      ∃ j < fieldAt e 24 2, j ≠ i ∧ listWord s e j % 2 ^ 11 = listWord s e i % 2 ^ 11
def TableBad (s : State) (a : Word) : Prop := ∃ g < 4096, InUse (tableEntry s a g) ∧ EntryBad s (tableEntry s a g)
/-- A field of a group's entry in the new table, and in the dies' copies; 0 for a group that has none. -/
def newField (s : State) (a : Word) (g i n : Nat) : Nat :=
  if g < 4096 ∧ fieldAt (tableEntry s a g) 2 1 % 2 = 1 then fieldAt (tableEntry s a g) i n else 0
def oldField (s : State) (g i n : Nat) : Nat := gField (groupLine s g) i n
/-- A group's member list names a core (R349), and a core's round count of a group. -/
def NamedIn (ms : List (Nat × List (Nat × Nat))) (g c : Nat) : Prop := ∃ l i, look g ms = some l ∧ (c, i) ∈ l
def roundCount (l : List (Nat × Nat)) (g : Nat) : Nat := (look g l).getD 0
/-- The table changes ATTEST, ATTNEXT or SWROUND of a group with a round in flight (R401). -/
def PathChanged (s : State) (a : Word) : Prop :=
  ∃ f ∈ s.trust.inflight, newField s a f.group 32 2 ≠ oldField s f.group 32 2 ∨ newField s a f.group 34 2 ≠ oldField s f.group 34 2 ∨
    newField s a f.group 4 4 ≠ oldField s f.group 4 4

/-- The test of a unit, running or postponed. -/
def TestIs (s : State) (u : UnitKind) (die cl ix : Nat) (x : UnitTest) : Prop :=
  s.tests.find? (fun y => decide (y.u = u ∧ y.die = die ∧ y.cluster = cl ∧ y.index = ix)) = some x
def Untested (s : State) (u : UnitKind) (die cl ix : Nat) : Prop := ∀ x, ¬ TestIs s u die cl ix x
/-- A unit that is out of service (R436). -/
def Retired (s : State) (u : UnitKind) (die cl ix : Nat) : Prop :=
  match u with
  | .sram => (bankOf s (die * 16 + cl) ix).mode = .off
  | .regfile | .engine => (coreAt s (unitCore u die cl ix)).retired = true
  | .lane | .router | .hbmRow => False
/-- The cycles that a test takes (R436). -/
def testCycles : UnitKind → Nat
  | .sram => 164880 | .regfile => 512 | .engine => 3200 | .lane => 30000 | .router => 2048 | .hbmRow => 4000
/-- The bank that receives the contents of bank b: the lowest other CACHE bank of the cluster that is free (R436, R437). -/
def Receives (s : State) (g b c : Nat) : Prop :=
  c < 32 ∧ c ≠ b ∧ (bankOf s g c).mode = .cache ∧ bankQuiet s g c = true ∧
    ∀ x < c, x ≠ b → ¬ ((bankOf s g x).mode = .cache ∧ bankQuiet s g x = true)
/-- The unit can be fenced now (R436, R437). -/
def Fenceable (s : State) (u : UnitKind) (die cl ix : Nat) : Prop :=
  let g := die * 16 + cl
  match u with
  | .sram => (bankOf s g ix).mode = .cache ∧ (bankOf s g ix).held = none ∨
      (bankOf s g ix).mode ≠ .cache ∧ bankQuiet s g ix = true ∧
        ((∃ c, Receives s g ix c) ∨ ∀ l ∈ s.launches, l.waiting = false → g ∉ clusterSet l.lrec)
  | .regfile => (slotAt (coreAt s (unitCore u die cl ix)) (ix % 16)).occ = .free
  | .engine | .lane | .router | .hbmRow => True
/-- A unit's fence (R436): no launch's memory changes but by the lines that a CACHE bank writes back and the bytes that a bank's
contents carry to their new bank, where every near address reads what it read before. -/
def Fenced (s t : State) (u : UnitKind) (die cl ix : Nat) : Prop :=
  let g := die * 16 + cl
  match u with
  | .sram =>
    let wayOf (c : Nat) : List CacheLine := (clusterAt s g).cache.filter (fun l => l.way = c)
    (ix < 32 → (bankOf t g ix).held = some (s.now + 164880)) ∧
    ((bankOf s g ix).mode = .cache → BytesHome s t (wayOf ix) ∧ (∀ l ∈ (clusterAt t g).cache, l.way ≠ ix)) ∧
    (∀ c, (bankOf s g ix).mode ≠ .cache → Receives s g ix c → ix < 32 →
      (bankOf t g c).mode = (bankOf s g ix).mode ∧ (bankOf t g c).slot = (bankOf s g ix).slot ∧ (bankOf t g ix).mode = .cache ∧
      (bankOf t g c).held = some (s.now + 1040) ∧ (∀ l ∈ (clusterAt t g).cache, l.way ≠ c) ∧
      (memOk s = true → (∀ l ∈ wayOf c, l.dirty = 0) → ∀ slot < 32, ∀ x < 2 ^ 17,
        (∀ b < 32, ∀ b' < 32, serves (bankOf s g b).mode → serves (bankOf s g b').mode → (bankOf s g b).slot = slot →
          (bankOf s g b').slot = slot → b = b') →
        placeGet t (.near g (slot * 2 ^ 17 + x)) = placeGet s (.near g (slot * 2 ^ 17 + x))))
  | .engine => SameMemory s t ∧ ∀ l ∈ (coreAt t (unitCore u die cl ix)).latches.toList, l = none
  | .lane => SameMemory s t ∧ laneOfUnit die cl ix ∈ t.spared
  | .regfile | .router | .hbmRow => SameMemory s t
/-- The test runs, and its verdict is laid down. -/
def Testing (s t : State) (u : UnitKind) (die cl ix : Nat) (syn : Word) : Prop :=
  TestIs t u die cl ix ⟨u, die, cl, ix, s.now + testCycles u, false, syn⟩ ∧
    (s.now + testCycles u, .selfTestVerdict u die cl ix syn) ∈ t.agenda ∧ Fenced s t u die cl ix
/-- A unit's verdict, lasting or passed (R436). -/
def Verdict (t s : State) (u : UnitKind) (die cl ix : Nat) (bad : Bool) : Prop :=
  let g := die * 16 + cl
  (bad = true → u ≠ .hbmRow → t.boot.degraded = true) ∧
  match u with
  | .sram => ix < 32 → (bad = true → (bankOf t g ix).mode = .off) ∧
      (bankOf t g ix).held = none ∧ (bad = false → (bankOf t g ix).mode = (bankOf s g ix).mode)
  | .regfile | .engine => let c := unitCore u die cl ix
      (bad = true → (coreAt t c).retired = true ∧ ∀ x th, x.core = c → x.slot ≠ 0 → thread? s x = some th → ∃ th' d, thread? t x = some th' ∧
        th'.saveDue = some d) ∧ (bad = false → (coreAt t c).retired = (coreAt s c).retired)
  | .lane => laneOfUnit die cl ix ∈ t.spared ↔ bad = true
  | .router => bad = true → t.boot.fail = 3 ∧ t.boot.ready = false ∧ EveryHeld s t
  | .hbmRow => let n := lookN s.spares (die * 64 + ix / 1024)
      lookN t.spares (die * 64 + ix / 1024) = if bad then min 64 (n + 1) else n
/-- SELFTEST's own thread with its operand kept. -/
def kept (th : Thread) (vs : List Word) : Thread := { th with latch := some vs }

end Sys2Proof.Says

/-- R396-R401, R412, R429, R436-R438: the commands of the package mailbox, each with what it sets and when it answers BUSY or ERROR;
the SPDM responder's answers, with one leaf for each signature; a self-test's fence, its postponement and its verdict, which is free;
and SELFTEST, whose index names a unit of its die (the model's coding). In part the model's choice: logs 4, 85 to 88. -/
def Obligations.TrustAndTests : Prop :=
  (∀ (s : State) (id : BitVec 16) (key : BitVec 256) (inside : Bool) (port : Nat) (tx : Bool) (a : Word),
    (¬ MailFree s → exec (.keyInstall id key inside) s = .next (mailed s 1) ∧ exec (.linkKey port tx key) s = .next (mailed s 1) ∧
      exec (.groupUpdate a) s = .next (mailed s 1)) ∧
    (MailFree s →
      let spent : Prop := 4096 ≤ s.boot.bootcnt ∧ s.boot.attest = false
      let session : Prop := s.trust.session = true ∧ inside = true
      (¬ session ∨ spent → exec (.keyInstall id key inside) s = .next (mailed s 2)) ∧
      (session → ¬ spent → s.trust.inflight ≠ [] → exec (.keyInstall id key inside) s = .next (mailed s 1)) ∧
      (session → ¬ spent → s.trust.inflight = [] → exec (.keyInstall id key inside) s =
        .next (mailed { s with trust := { s.trust with key := some (key, id), sealCnt := 0 } } 0)) ∧
      (24 ≤ port → exec (.linkKey port tx key) s = .next (mailed s 2)) ∧
      (port < 24 → exec (.linkKey port tx key) s = .next (mailed { s with
        trust := { s.trust with links := put (2 * port + if tx then 1 else 0) ⟨some key, 0, 0, false⟩ s.trust.links } } 0)) ∧
      (TableBad s a → exec (.groupUpdate a) s = .next (mailed s 2)) ∧
      (¬ TableBad s a → PathChanged s a → exec (.groupUpdate a) s = .next (mailed s 1)) ∧
      (¬ TableBad s a → ¬ PathChanged s a → ∃ cs gs ms, exec (.groupUpdate a) s = .next (mailed { s with
          cores := cs, trust := { s.trust with groups := gs, members := ms, groupAddr := a.toNat } } 0) ∧
        (∀ c, ∃ ns ds, look c cs = (look c s.cores).map (fun k => { k with nredK := ns, dgchkK := ds }) ∧
          ∀ g, let fresh : Prop := newField s a g 0 2 ≠ oldField s g 0 2 ∨ newField s a g 8 4 ≠ oldField s g 8 4 ∨
              (NamedIn ms g c ∧ ¬ NamedIn s.trust.members g c)
            (fresh → roundCount ns g = 0 ∧ roundCount ds g = 0) ∧
            (¬ fresh → roundCount ns g = roundCount (coreAt s c).nredK g ∧ roundCount ds g = roundCount (coreAt s c).dgchkK g)) ∧
        ∀ g < 4096, let e := tableEntry s a g
          (InUse e → look g gs = some (BitVec.ofNat 512 (ofBytesLE e)) ∧ look g ms = some ((List.range (fieldAt e 24 2)).map (fun i =>
            (listWord s e i % 2 ^ 11, listWord s e i / 2 ^ 11 % 2 ^ 12)))) ∧
          (¬ InUse e → look g gs = none ∧ look g ms = none)))) ∧
  (∀ s : State,
    (∀ e ∈ [Instr.getVersion, .getCapabilities, .negotiateAlgorithms, .getDigests, .getCertificate, .getMeasurements false],
      exec e s = .next (answered s 1)) ∧
    (let leaf : Prop := s.boot.attest = true ∧ s.boot.leafUsed < 2 ^ 20
     let u := answered { s with boot := { s.boot with leafUsed := s.boot.leafUsed + 1 } } 1
     (¬ leaf → exec .challenge s = .next (answered s 2) ∧ exec (.getMeasurements true) s = .next (answered s 2) ∧
       exec .keyExchange s = .next (answered s 2)) ∧
     (leaf → exec .challenge s = .next u ∧ exec (.getMeasurements true) s = .next u ∧
       exec .keyExchange s = .next { u with trust := { u.trust with handshake := true } })) ∧
    (s.trust.handshake = false → exec .finish s = .next (answered s 3)) ∧
    (s.trust.handshake = true → exec .finish s = .next (answered { s with trust := { s.trust with handshake := false, session := true } } 1)) ∧
    (s.trust.session = false → exec .endSession s = .next (answered s 3)) ∧
    (s.trust.session = true → exec .endSession s = .next (answered { s with trust := { s.trust with session := false } } 1))) ∧
  (∀ (s : State) (u : UnitKind) (die cl ix : Nat) (syn : Word), let e := Instr.selfTestStart u die cl ix syn
    (∀ x, TestIs s u die cl ix x → x.postponed = false → exec e s = .next s) ∧
    (Untested s u die cl ix → Retired s u die cl ix → exec e s = .next s) ∧
    (∀ x, TestIs s u die cl ix x → x.postponed = true →
      (Fenceable s u die cl ix → ∃ t, exec e s = .next t ∧ Testing s t u die cl ix x.syndrome) ∧
      (¬ Fenceable s u die cl ix → exec e s = .next s)) ∧
    (Untested s u die cl ix → ¬ Retired s u die cl ix →
      (Fenceable s u die cl ix → ∃ t, exec e s = .next t ∧ Testing s t u die cl ix syn) ∧
      (¬ Fenceable s u die cl ix → ∃ t, exec e s = .next t ∧ TestIs t u die cl ix ⟨u, die, cl, ix, 0, true, syn⟩ ∧
        (s.boot.logRing = 0 → SameMemory s t) ∧
        ∀ th, u = .regfile → ix % 16 ≠ 0 → thread? s ⟨unitCore u die cl ix, ix % 16⟩ = some th →
          ∃ th' d, thread? t ⟨unitCore u die cl ix, ix % 16⟩ = some th' ∧ th'.saveDue = some d))) ∧
  (∀ (s : State) (u : UnitKind) (die cl ix : Nat) (syn : Word), let e := Instr.selfTestVerdict u die cl ix syn
    (Untested s u die cl ix ∨ (∃ x, TestIs s u die cl ix x ∧ (x.postponed = true ∨ s.now < x.busyUntil)) → exec e s = .next s) ∧
    (∀ x, TestIs s u die cl ix x → x.postponed = false → x.busyUntil ≤ s.now → ∃ (t : State) (bad : Bool), exec e s = .next t ∧ Verdict t s u die cl ix bad ∧
      Untested t u die cl ix ∧ (∀ y ∈ s.tests, ¬ (y.u = u ∧ y.die = die ∧ y.cluster = cl ∧ y.index = ix) → y ∈ t.tests) ∧
      (s.boot.logRing = 0 → SameMemory s t) ∧
      ∀ t0 th pk p d a v, thread? s t0 = some th → th.park = some pk → pk.retry = some (.selftest p d a) → th.cont = 1 → th.latch = some [v] →
        t0.core / 256 = die → unitOfCode v = some (u, cl, ix) → ∃ th', thread? t t0 = some th' ∧ th'.cont = 2 ∧
          th'.latch = some [v, if bad then 1 else 0])) ∧
  (∀ (s : State) (th : Thread) (p : Pred) (d a : Reg), s.cur.slot = 0 →
    let i := Instr.selftest p d a
    let die := s.cur.core / 256
    (AtTurn s th p → CanUse s th i [a] none → let v := val s th [a] 0
      (CanUse s th i [] (some d) → Apart [a] d →
        (unitOfCode v = none → exec i s = .next (wrote (popped s th [a]) th d 3)) ∧
        ∀ u cl ix, unitOfCode v = some (u, cl, ix) →
          (Retired s u die cl ix → exec i s = .next (wrote (popped s th [a]) th d 1)) ∧
          (¬ Retired s u die cl ix → ¬ Untested s u die cl ix → exec i s = .next (wrote (popped s th [a]) th d 2))) ∧
      ∀ u cl ix th1, unitOfCode v = some (u, cl, ix) → PoppedTo s th [a] th1 → ¬ Retired s u die cl ix → Untested s u die cl ix →
        ∃ b, exec (.selfTestStart u die cl ix 0) (setThread (popped s th [a]) s.cur (kept th1 [v])) = .next b ∧
          (Fenceable s u die cl ix → exec i s = .next (setThread b s.cur { waiting s th1 i (testCycles u) 1 with latch := some [v] })) ∧
          (¬ Fenceable s u die cl ix → chOf d = none → exec i s = .next (wrote b th1 d 2))) ∧
    (∀ v, th.latch = some [v] → InPart s th p 1 → exec i s = .next (setThread s s.cur (waiting s th i 1 1))) ∧
    (∀ v n, th.latch = some [v, n] → InPart s th p 2 → CanUse s th i [] (some d) → exec i s = .next (woken s th d n)))

/-! ### A step -/

namespace Sys2Proof.Says

/-- Nothing of the cycle's work that comes before issue is left to do. -/
def OnlyIssue (s : State) : Prop :=
  s.resume = none ∧ ∀ f ∈ [eventPoll, heldPoll, wakePoll, alignPoll, savePoll, deadlinePoll, enginePoll, recordPoll, launchPoll, disablePoll,
    notePoll, testPoll], f s = none
/-- The thread in slot `t` has the cycle of its core, and the cores before it in index order have had theirs (R57). -/
def HasCycle (s : State) (t : TId) (th : Thread) : Prop :=
  OnlyIssue s ∧ s.scan ≤ t.core ∧ issuerOf s t.core = some (t, th) ∧ th.pops = [] ∧
    ∃ pre k post, s.cores = pre ++ (t.core, k) :: post ∧ ∀ x ∈ pre, x.1 < s.scan ∨ offerCore s x.1 = none
/-- It stands at position `p` of a line that lies in the line buffer, and no deferred fault waits. -/
def StandsAt (s : State) (t : TId) (th : Thread) (p : Nat) (l : LineEnt) : Prop :=
  th.deferred = [] ∧ linePos th.pc = some p ∧ threadLine s t th = some l
/-- The line passes the checks of R26 for this thread. -/
def LinePasses (th : Thread) (p : Nat) (l : LineEnt) : Prop :=
  parityCode l.data (unitAt l.data p) = none ∧ malformed l.data = none ∧ (th.checked = true → targetBit l.data p = true)
/-- The state in which the thread's turn begins. -/
def atTurn (s : State) (t : TId) : State := { s with scan := t.core + 1, cur := t }
/-- The thread with this turn counted, and the same where the turn ends in a trap. -/
def turned (th : Thread) : Thread := { th with turns := th.turns + 1 }
def turnEnded (th : Thread) : Thread := { th with turns := th.turns + 1, refetch := false }

end Sys2Proof.Says

/-- R20-R27, R55, R57, R60, R63, R131, R139, R424: one step. An instruction that continues goes first, then an event that is due;
else the slot of the cycle's rotation position issues, or the one opposite. The instruction that its line holds at its pc is decoded
and executed, a pair's second after its first; the step adds the line's use and the turn's count. Deferred faults, the checks of R26,
an illegal word, and registers that are not present come before, each with its own effect.
In part the model's choice: logs 7, 15, 16 and 21. -/
def Obligations.StepRuns : Prop :=
  (∀ (s : State) (t : TId) (i : Instr), s.resume = some (t, i) → step s = exec i { s with resume := none, cur := t }) ∧
  (∀ (s : State) (c : Nat) (e : Instr) (rest : List (Nat × Instr)), s.resume = none → s.agenda = (c, e) :: rest → c ≤ s.now →
    isProbe e = false → isPush e = false → step s = exec e { s with agenda := rest }) ∧
  (∀ (s : State) (core : Nat), s.power.gate = 0 →
    let may (n : Nat) (th : Thread) : Prop := thread? s ⟨core, n⟩ = some th ∧ th.park = none ∧ th.stopped = none ∧ th.forfeit = 0 ∧
      th.ready ≤ s.now ∧ (th.pc.toNat % 64 % 12 ≠ 4 ∨ ∃ l, threadLine s ⟨core, n⟩ th = some l ∧ l.lastUse < s.now)
    let n := s.now % 16
    (∀ th, may n th → issuerOf s core = some (⟨core, n⟩, th)) ∧
    ((∀ th, ¬ may n th) → ∀ th, may ((n + 8) % 16) th → issuerOf s core = some (⟨core, (n + 8) % 16⟩, th)) ∧
    ((∀ th, ¬ may n th) → (∀ th, ¬ may ((n + 8) % 16) th) → issuerOf s core = none)) ∧
  (∀ (s : State) (t : TId) (th : Thread), HasCycle s t th → CanTrap th →
    (∀ ti rest, th.deferred = ti :: rest → step s = .next (trapped (atTurn s t) { turnEnded th with deferred := rest } ti)) ∧
    (th.deferred = [] → linePos th.pc = none → step s = .next (trapped (atTurn s t) (turnEnded th) ⟨0x04, th.pc, 0⟩))) ∧
  (∀ (s : State) (t : TId) (th : Thread) (p : Nat) (l : LineEnt), HasCycle s t th → StandsAt s t th p l →
    let unit := unitAt l.data p
    let th0 := { th with refetch := false }
    let s0 := useLine (setThread (atTurn s t) t th0) t l
    let line := lineVa th.pc
    (∀ why, unitWait th (unitActive th l.data unit) = some why →
      step s = .next (setThread { s with scan := t.core } t { th with park := some ⟨why, none, s.now⟩, waited := 0 })) ∧
    (unitWait th (unitActive th l.data unit) = none →
      (∀ c, parityCode l.data unit = some c →
        (th.refetch = true → CanTrap th → step s = .next (trapped (atTurn s t) (turnEnded th) ⟨0x03, line, BitVec.ofNat 64 c⟩)) ∧
        (th.refetch = false → ∃ u th', step s = .next u ∧ thread? u t = some th' ∧ th' = { th with refetch := true } ∧
          SameOthers s u t ∧ SameMemory s u ∧ findLn (coreAt u t.core) l.root l.va = none)) ∧
      (parityCode l.data unit = none → CanTrap th →
        (∀ c, malformed l.data = some c → step s = .next (trapped (atTurn s t) (turnEnded th) ⟨0x02, line, BitVec.ofNat 64 c⟩)) ∧
        (malformed l.data = none → th.checked = true → targetBit l.data p = false →
          step s = .next (trapped (atTurn s t) (turnEnded th) ⟨0x05, th.pc, 0⟩))) ∧
      (LinePasses th p l → unit = [p] →
        (∀ i, decode (lineInstr l.data p) = .ok i → step s = countTurn th.uid (exec i s0)) ∧
        (∀ e, decode (lineInstr l.data p) = .error e → CanTrap th → step s = countTurn th.uid (.next (trapped s0 th0
          ⟨0x01, 0, BitVec.ofNat 64 (e.op.toNat + e.reason * 2 ^ 10 + e.field * 2 ^ 14)⟩)))) ∧
      (LinePasses th p l → unit = [p, p + 1] → ∀ i j u, decode (lineInstr l.data p) = .ok i → decode (lineInstr l.data (p + 1)) = .ok j →
        exec i s0 = .next u →
        let goesOn : Prop := ∃ x, thread? u t = some x ∧ x.uid = th.uid ∧ x.park = none ∧ x.stopped = none ∧ x.pc = succPc th.pc ∧ x.checked = false
        (goesOn → step s = countTurn th.uid (exec j { u with cur := t, views := ⟨t, th0⟩ :: u.views })) ∧
        (¬ goesOn → step s = countTurn th.uid (.next (repeatPair u t)))))) ∧
  (∀ (s : State) (t : TId) (th : Thread), thread? s t = some th → (∀ u x, (u, x) ∈ allThreads s → x.uid = th.uid → u = t) → th.park = none →
    countTurn th.uid (.next s) = .next (setThread s t (turned th)))

/-! ### Encodings, reset and memory -/

namespace Sys2Proof.Says

/-- The words of the four forms, field by field as R28 and R29 lay them out. -/
def wordR (op : BitVec 10) (pr : BitVec 4) (d a b c : BitVec 8) (mod imm : BitVec 16) : IWord := op ++ pr ++ d ++ a ++ b ++ c ++ mod ++ imm ++ (0 : BitVec 18)
def wordI (op : BitVec 10) (pr : BitVec 4) (d a : BitVec 8) (imm : BitVec 48) (mod : BitVec 16) : IWord := op ++ pr ++ d ++ a ++ imm ++ mod ++ (0 : BitVec 2)
def wordM (op : BitVec 10) (pr : BitVec 4) (d a b : BitVec 8) (mod : BitVec 16) (imm : BitVec 32) : IWord :=
  op ++ pr ++ d ++ a ++ b ++ mod ++ imm ++ (0 : BitVec 10)
def wordX (op : BitVec 10) (pr : BitVec 4) (d a b c e : BitVec 8) (mod : BitVec 24) : IWord :=
  op ++ pr ++ d ++ a ++ b ++ c ++ e ++ mod ++ (0 : BitVec 18)
/-- A plain MMA operand list. -/
def plainMma (d a b : Reg) (mask : Option Reg) : MmaArg := ⟨.f16, false, false, false, false, 0, 0, d, a, b, mask⟩

end Sys2Proof.Says

/-- R28-R36, R46-R55: words written field by field from the tables, one or two for each class, decode to the instructions they stand
for; the words that R30, R32 and R34 refuse are refused with the reason and the field of R55. -/
def Obligations.WordsDecode : Prop :=
  decode 0x00000C040800000000000000 = .ok (.add ⟨0, false⟩ (.g 3) (.g 1) (.g 2)) ∧
  decode 0x80C008480002C00000000000 = .ok (.stl ⟨0, false⟩ .b64 .pkg (.g 2) ⟨false, .w 2, .g 0, 0, 0⟩) ∧
  decode (BitVec.ofNat 96 (0x180 * 2 ^ 86)) = .ok (.nop ⟨0, false⟩) ∧
  decode (wordI 0x080 0 0x20 0x20 0xFFFFFFFFFFF8 0) = .ok (.addi ⟨0, false⟩ (.w 16) (.w 16) (-8)) ∧
  decode (wordR 0x100 0xA 1 2 3 0 0b001001 0) = .ok (.fadd ⟨2, true⟩ .f16 .rne (.g 1) (.g 2) (.g 3)) ∧
  decode (wordI 0x182 3 0 0 0xFFFFFFFFFFF4 0) = .ok (.br ⟨3, false⟩ (-12)) ∧
  decode (wordR 0x283 0 0x62 0x63 0x64 0x65 0b10000000000 0) =
    .ok (.vfma ⟨0, false⟩ .bf16 ⟨0, .dyn, false⟩ (.v 2) (.v 3) (.vec (.v 4)) (.v 5)) ∧
  decode (wordX 0x300 0 0x80 0x64 0x65 0x06 0 0x80) = .ok (.mma ⟨0, false⟩ (plainMma (.acc 0) (.v 4) (.v 5) (some (.g 6)))) ∧
  decode (wordX 0x30A 0 0 0x10 0x83 1 0 0x101) = .ok (.frsend ⟨0, false⟩ (.w 0) (.acc 3) 1 (some (.g 1))) ∧
  decode (wordX 0x386 0 2 3 0x20 0 0 0) = .ok (.spawn ⟨0, false⟩ false (.g 2) (.g 3) (.w 16) (.g 0)) ∧
  decode (wordR 0x024 0 1 2 3 0 0 0) = .error ⟨0, 0, 0x024⟩ ∧
  decode (wordR 0x000 8 0xA0 2 3 0 1 0 ||| 1) = .error ⟨1, 0, 0x000⟩ ∧
  decode (wordR 0x000 8 0xA0 2 3 0 1 0) = .error ⟨2, 0, 0x000⟩ ∧
  decode (wordR 0x000 8 0xA0 2 0xA0 0 0 0) = .error ⟨3, 0, 0x000⟩ ∧
  decode (wordR 0x000 8 1 2 0xA0 0 0 0) = .error ⟨3, 2, 0x000⟩ ∧
  decode (wordR 0x000 8 1 2 3 0 0 0) = .error ⟨4, 0, 0x000⟩

/-- R28-R35: the encoder gives every instruction that a word can hold a word, and the decoder reads from that word the very instruction,
with every operand at every value that its encoding admits. -/
def Obligations.RoundTrip : Prop :=
  ∀ (i : Instr) (f : Fields), toFields i = some f → i.wf = true → ∃ w, encode i = some w ∧ decode w = .ok i

/-- R30-R34: a word has one meaning. What the decoder reads from any word is well formed, and the encoder gives that word back. -/
def Obligations.WordsHaveOneMeaning : Prop :=
  ∀ (w : IWord) (i : Instr), decode w = .ok i → i.wf = true ∧ encode i = some w

/-- R101, R109, R115, R154, R184, R237, R249, R314, R336, R349, R410, R430, R433: what reset leaves, where the spec gives a value; and
memory, of which nothing is listed, has its canonical form (what an unlisted byte reads as is the model's choice).
In part the model's choice: logs 1 and 2. -/
def Obligations.ResetState : Prop :=
  memOk State.reset = true ∧ (∀ t, thread? State.reset t = none) ∧ State.reset.launches = [] ∧ State.reset.groups = [] ∧
  (∀ c n i, n < 8 → let k := coreAt State.reset c
    (cellAt (tileAt k n) i).n = 0 ∧ (cellAt (tileAt k n) i).st = .fin ∧ (tileAt k n).floor = 0 ∧ latchAt k (n % 4) = none ∧ k.retired = false ∧
    (slotAt k n).owner = 0 ∧ k.inQ = [] ∧ k.slotQ = [] ∧ k.nredK = [] ∧ k.dgchkK = [] ∧ k.deque = []) ∧
  (∀ g b, (bankOf State.reset g b).mode = .cache ∧ (bankOf State.reset g b).slot = 0 ∧ (clusterAt State.reset g).nextToken = 1 ∧
    (clusterAt State.reset g).cache = []) ∧
  (∀ q, let k := queueAt State.reset q
    k.ring = 0 ∧ k.root = 0 ∧ k.savepool = 0 ∧ k.savelen = 0 ∧ k.deadline = 262144 ∧ k.weight = 1 ∧ k.cls = 0 ∧ k.enable = false ∧
    k.eschold = false ∧ k.msix = 0 ∧ k.notify = 0 ∧ k.stopped = false ∧ k.err = 0 ∧ k.detail = 0 ∧ k.offset = 0 ∧ k.launches = 0) ∧
  (let b := State.reset.boot
   b.ready = false ∧ b.attest = false ∧ b.degraded = false ∧ b.step = 0 ∧ b.evlost = 0 ∧ b.diesok = 0 ∧ b.fail = 0) ∧
  (let p := State.reset.power
   p.cap = 4500 ∧ p.force = false ∧ p.fMduty = 0 ∧ p.fGate = 0 ∧ p.power = 0 ∧ p.temp = 0 ∧ p.icore = 0 ∧ p.mduty = 0 ∧ p.gate = 0)

/-- The memories keep their canonical form: whatever the machine does in a step, addresses stay rising without repeats, and no
listed byte is 0, so that equal memories are equal data. -/
def Obligations.MemoryStaysCanonical : Prop :=
  ∀ s t : State, memOk s = true → step s = .next t → memOk t = true
end

