-- ==== Sys2Proof/Laws/Memory.lean ====
section
/-! SUPPORT. Memory: every operation keeps the canonical form, and what a byte reads as after a write. -/
namespace Sys2Proof.Machine
open Sys2Proof

theorem memSorted_mono {lo hi : Nat} (h : lo ≤ hi) : ∀ {m : List Host.Cell}, memSorted hi m = true → memSorted lo m = true
  | [], _ => rfl
  | (a, b) :: r, hm => by
    simp only [memSorted, Bool.and_eq_true, decide_eq_true_eq] at hm ⊢
    exact ⟨⟨by omega, hm.1.2⟩, hm.2⟩

theorem del_sorted {a : Nat} : ∀ {lo : Nat} {m : List Host.Cell}, memSorted lo m = true → memSorted lo (del a m) = true
  | _, [], _ => rfl
  | lo, (i, c) :: r, hm => by
    simp only [memSorted, Bool.and_eq_true, decide_eq_true_eq] at hm
    have ih := del_sorted (a := a) hm.2
    by_cases h : i = a
    · simpa [del, h] using memSorted_mono (by omega : lo ≤ i + 1) ih
    · simp only [del] at ih
      simp [del, h, memSorted, hm.1.1, ih]
      simpa using hm.1.2

theorem put_sorted {a : Nat} {b : Byte} (hb : b ≠ 0) :
    ∀ {lo : Nat} {m : List Host.Cell}, lo ≤ a → memSorted lo m = true → memSorted lo (put a b m) = true
  | lo, [], h, _ => by simp [put, memSorted, h]; simpa using hb
  | lo, (i, c) :: r, h, hm => by
    simp only [memSorted, Bool.and_eq_true, decide_eq_true_eq] at hm
    unfold put
    split
    · simp [memSorted, h, hm.2]; exact ⟨by simpa using hb, by omega, by simpa using hm.1.2⟩
    · split
      · rename_i h1 h2; subst h2; simp [memSorted, hm.1.1, hm.2]; simpa using hb
      · simp only [memSorted, Bool.and_eq_true, decide_eq_true_eq]
        exact ⟨hm.1, put_sorted hb (by omega) hm.2⟩

theorem memPut_sorted {lo a : Nat} {b : Byte} {m : List Host.Cell} (h : lo ≤ a) (hm : memSorted lo m = true) :
    memSorted lo (memPut m a b) = true := by
  unfold memPut
  split
  · exact del_sorted hm
  · exact put_sorted ‹_› h hm

/-- Writing a byte keeps the canonical form. -/
theorem memPut_wf {m : List Host.Cell} {a : Nat} {b : Byte} (h : Memory.wf m = true) : Memory.wf (memPut m a b) = true :=
  memPut_sorted (Nat.zero_le a) h

/-- Writing bytes keeps the canonical form. -/
theorem memPutBytes_wf {bs : List Byte} : ∀ {m : List Host.Cell} {a : Nat}, Memory.wf m = true → Memory.wf (memPutBytes m a bs) = true := by
  induction bs with
  | nil => intro m a h; exact h
  | cons b r ih => intro m a h; exact ih (memPut_wf h)

theorem memGet_del_same {a : Nat} : ∀ {m : List Host.Cell}, memGet (del a m) a = 0
  | [] => rfl
  | (i, c) :: r => by
    have ih := memGet_del_same (a := a) (m := r)
    simp only [del] at ih
    by_cases h : i = a <;> simp [del, h, memGet, ih]

theorem memGet_del_other {a x : Nat} (h : x ≠ a) : ∀ {m : List Host.Cell}, memGet (del a m) x = memGet m x
  | [] => rfl
  | (i, c) :: r => by
    have ih := memGet_del_other h (m := r)
    simp only [del] at ih
    by_cases hi : i = a
    · subst hi; simp [del, memGet, ih, Ne.symm h]
    · simp [del, hi, memGet, ih]

theorem memGet_put_same {a : Nat} {b : Byte} : ∀ {m : List Host.Cell}, memGet (put a b m) a = b
  | [] => by simp [put, memGet]
  | (i, c) :: r => by
    unfold put
    split
    · simp [memGet]
    · split
      · simp [memGet]
      · rename_i h; simp only [memGet, if_neg h]; exact memGet_put_same

theorem memGet_put_other {a x : Nat} {b : Byte} (h : x ≠ a) : ∀ {m : List Host.Cell}, memGet (put a b m) x = memGet m x
  | [] => by simp [put, memGet, Ne.symm h]
  | (i, c) :: r => by
    unfold put
    split
    · simp [memGet, Ne.symm h]
    · split
      · rename_i h2; subst h2; simp [memGet, Ne.symm h]
      · simp only [memGet]; rw [memGet_put_other h]

/-- A byte that was written reads as written. -/
theorem memGet_memPut_same {m : List Host.Cell} {a : Nat} {b : Byte} : memGet (memPut m a b) a = b := by
  unfold memPut
  split
  · rename_i h; rw [h]; exact memGet_del_same
  · exact memGet_put_same

/-- A write leaves every other byte alone. -/
theorem memGet_memPut_other {m : List Host.Cell} {a x : Nat} {b : Byte} (h : x ≠ a) : memGet (memPut m a b) x = memGet m x := by
  unfold memPut
  split
  · exact memGet_del_other h
  · exact memGet_put_other h

/-- Writing bytes leaves every byte outside them alone. -/
theorem memGet_memPutBytes_other {bs : List Byte} : ∀ {m : List Host.Cell} {a x : Nat}, (x < a ∨ a + bs.length ≤ x) →
    memGet (memPutBytes m a bs) x = memGet m x := by
  induction bs with
  | nil => intro m a x _; rfl
  | cons b r ih =>
    intro m a x h
    simp only [List.length_cons] at h
    rw [memPutBytes, ih (by omega), memGet_memPut_other (by omega)]

/-- The bytes written read as written. -/
theorem memBytes_memPutBytes {bs : List Byte} : ∀ {m : List Host.Cell} {a : Nat}, memBytes (memPutBytes m a bs) a bs.length = bs := by
  induction bs with
  | nil => intro m a; rfl
  | cons b r ih =>
    intro m a
    simp only [memPutBytes, List.length_cons, memBytes, ih]
    rw [memGet_memPutBytes_other (by omega), memGet_memPut_same]

/-- The memory after reset has the canonical form. -/
theorem reset_memOk : memOk State.reset = true := by decide

end Sys2Proof.Machine
end

