-- ==== Sys2Proof/Laws/State.lean ====
section
/-! SUPPORT. Every field of the state after each plain update of it: the field that the update names changes, and no other. -/
namespace Sys2Proof.Machine
open Sys2Proof

/-! ### setCore -/

@[simp] theorem setCore_now (s : State) (c : Nat) (k : Core) : (setCore s c k).now = s.now := rfl
@[simp] theorem setCore_cur (s : State) (c : Nat) (k : Core) : (setCore s c k).cur = s.cur := rfl
@[simp] theorem setCore_views (s : State) (c : Nat) (k : Core) : (setCore s c k).views = s.views := rfl
@[simp] theorem setCore_resume (s : State) (c : Nat) (k : Core) : (setCore s c k).resume = s.resume := rfl
@[simp] theorem setCore_agenda (s : State) (c : Nat) (k : Core) : (setCore s c k).agenda = s.agenda := rfl
@[simp] theorem setCore_scan (s : State) (c : Nat) (k : Core) : (setCore s c k).scan = s.scan := rfl
@[simp] theorem setCore_draw (s : State) (c : Nat) (k : Core) : (setCore s c k).draw = s.draw := rfl
@[simp] theorem setCore_nextUid (s : State) (c : Nat) (k : Core) : (setCore s c k).nextUid = s.nextUid := rfl
@[simp] theorem setCore_nextId (s : State) (c : Nat) (k : Core) : (setCore s c k).nextId = s.nextId := rfl
@[simp] theorem setCore_pkg (s : State) (c : Nat) (k : Core) : (setCore s c k).pkg = s.pkg := rfl
@[simp] theorem setCore_clusters (s : State) (c : Nat) (k : Core) : (setCore s c k).clusters = s.clusters := rfl
@[simp] theorem setCore_groups (s : State) (c : Nat) (k : Core) : (setCore s c k).groups = s.groups := rfl
@[simp] theorem setCore_hbm (s : State) (c : Nat) (k : Core) : (setCore s c k).hbm = s.hbm := rfl
@[simp] theorem setCore_sram (s : State) (c : Nat) (k : Core) : (setCore s c k).sram = s.sram := rfl
@[simp] theorem setCore_host (s : State) (c : Nat) (k : Core) : (setCore s c k).host = s.host := rfl
@[simp] theorem setCore_peers (s : State) (c : Nat) (k : Core) : (setCore s c k).peers = s.peers := rfl
@[simp] theorem setCore_homeWaiters (s : State) (c : Nat) (k : Core) : (setCore s c k).homeWaiters = s.homeWaiters := rfl
@[simp] theorem setCore_wtGroup (s : State) (c : Nat) (k : Core) : (setCore s c k).wtGroup = s.wtGroup := rfl
@[simp] theorem setCore_wtShadow (s : State) (c : Nat) (k : Core) : (setCore s c k).wtShadow = s.wtShadow := rfl
@[simp] theorem setCore_queues (s : State) (c : Nat) (k : Core) : (setCore s c k).queues = s.queues := rfl
@[simp] theorem setCore_ops (s : State) (c : Nat) (k : Core) : (setCore s c k).ops = s.ops := rfl
@[simp] theorem setCore_gathers (s : State) (c : Nat) (k : Core) : (setCore s c k).gathers = s.gathers := rfl
@[simp] theorem setCore_held (s : State) (c : Nat) (k : Core) : (setCore s c k).held = s.held := rfl
@[simp] theorem setCore_taken (s : State) (c : Nat) (k : Core) : (setCore s c k).taken = s.taken := rfl
@[simp] theorem setCore_launches (s : State) (c : Nat) (k : Core) : (setCore s c k).launches = s.launches := rfl
@[simp] theorem setCore_saved (s : State) (c : Nat) (k : Core) : (setCore s c k).saved = s.saved := rfl
@[simp] theorem setCore_flits (s : State) (c : Nat) (k : Core) : (setCore s c k).flits = s.flits := rfl
@[simp] theorem setCore_starved (s : State) (c : Nat) (k : Core) : (setCore s c k).starved = s.starved := rfl
@[simp] theorem setCore_bridges (s : State) (c : Nat) (k : Core) : (setCore s c k).bridges = s.bridges := rfl
@[simp] theorem setCore_hostLink (s : State) (c : Nat) (k : Core) : (setCore s c k).hostLink = s.hostLink := rfl
@[simp] theorem setCore_channels (s : State) (c : Nat) (k : Core) : (setCore s c k).channels = s.channels := rfl
@[simp] theorem setCore_units (s : State) (c : Nat) (k : Core) : (setCore s c k).units = s.units := rfl
@[simp] theorem setCore_walks (s : State) (c : Nat) (k : Core) : (setCore s c k).walks = s.walks := rfl
@[simp] theorem setCore_escal (s : State) (c : Nat) (k : Core) : (setCore s c k).escal = s.escal := rfl
@[simp] theorem setCore_pageHolds (s : State) (c : Nat) (k : Core) : (setCore s c k).pageHolds = s.pageHolds := rfl
@[simp] theorem setCore_shaQ (s : State) (c : Nat) (k : Core) : (setCore s c k).shaQ = s.shaQ := rfl
@[simp] theorem setCore_shaFree (s : State) (c : Nat) (k : Core) : (setCore s c k).shaFree = s.shaFree := rfl
@[simp] theorem setCore_exportTable (s : State) (c : Nat) (k : Core) : (setCore s c k).exportTable = s.exportTable := rfl
@[simp] theorem setCore_holders (s : State) (c : Nat) (k : Core) : (setCore s c k).holders = s.holders := rfl
@[simp] theorem setCore_inval (s : State) (c : Nat) (k : Core) : (setCore s c k).inval = s.inval := rfl
@[simp] theorem setCore_outbox (s : State) (c : Nat) (k : Core) : (setCore s c k).outbox = s.outbox := rfl
@[simp] theorem setCore_boot (s : State) (c : Nat) (k : Core) : (setCore s c k).boot = s.boot := rfl
@[simp] theorem setCore_power (s : State) (c : Nat) (k : Core) : (setCore s c k).power = s.power := rfl
@[simp] theorem setCore_trust (s : State) (c : Nat) (k : Core) : (setCore s c k).trust = s.trust := rfl
@[simp] theorem setCore_tests (s : State) (c : Nat) (k : Core) : (setCore s c k).tests = s.tests := rfl
@[simp] theorem setCore_spared (s : State) (c : Nat) (k : Core) : (setCore s c k).spared = s.spared := rfl
@[simp] theorem setCore_spares (s : State) (c : Nat) (k : Core) : (setCore s c k).spares = s.spares := rfl
@[simp] theorem setCore_sramErr (s : State) (c : Nat) (k : Core) : (setCore s c k).sramErr = s.sramErr := rfl
@[simp] theorem setCore_hbmErr (s : State) (c : Nat) (k : Core) : (setCore s c k).hbmErr = s.hbmErr := rfl

/-! ### setCluster -/

@[simp] theorem setCluster_now (s : State) (g : Nat) (k : Cluster) : (setCluster s g k).now = s.now := rfl
@[simp] theorem setCluster_cur (s : State) (g : Nat) (k : Cluster) : (setCluster s g k).cur = s.cur := rfl
@[simp] theorem setCluster_views (s : State) (g : Nat) (k : Cluster) : (setCluster s g k).views = s.views := rfl
@[simp] theorem setCluster_resume (s : State) (g : Nat) (k : Cluster) : (setCluster s g k).resume = s.resume := rfl
@[simp] theorem setCluster_agenda (s : State) (g : Nat) (k : Cluster) : (setCluster s g k).agenda = s.agenda := rfl
@[simp] theorem setCluster_scan (s : State) (g : Nat) (k : Cluster) : (setCluster s g k).scan = s.scan := rfl
@[simp] theorem setCluster_draw (s : State) (g : Nat) (k : Cluster) : (setCluster s g k).draw = s.draw := rfl
@[simp] theorem setCluster_nextUid (s : State) (g : Nat) (k : Cluster) : (setCluster s g k).nextUid = s.nextUid := rfl
@[simp] theorem setCluster_nextId (s : State) (g : Nat) (k : Cluster) : (setCluster s g k).nextId = s.nextId := rfl
@[simp] theorem setCluster_pkg (s : State) (g : Nat) (k : Cluster) : (setCluster s g k).pkg = s.pkg := rfl
@[simp] theorem setCluster_cores (s : State) (g : Nat) (k : Cluster) : (setCluster s g k).cores = s.cores := rfl
@[simp] theorem setCluster_groups (s : State) (g : Nat) (k : Cluster) : (setCluster s g k).groups = s.groups := rfl
@[simp] theorem setCluster_hbm (s : State) (g : Nat) (k : Cluster) : (setCluster s g k).hbm = s.hbm := rfl
@[simp] theorem setCluster_sram (s : State) (g : Nat) (k : Cluster) : (setCluster s g k).sram = s.sram := rfl
@[simp] theorem setCluster_host (s : State) (g : Nat) (k : Cluster) : (setCluster s g k).host = s.host := rfl
@[simp] theorem setCluster_peers (s : State) (g : Nat) (k : Cluster) : (setCluster s g k).peers = s.peers := rfl
@[simp] theorem setCluster_homeWaiters (s : State) (g : Nat) (k : Cluster) : (setCluster s g k).homeWaiters = s.homeWaiters := rfl
@[simp] theorem setCluster_wtGroup (s : State) (g : Nat) (k : Cluster) : (setCluster s g k).wtGroup = s.wtGroup := rfl
@[simp] theorem setCluster_wtShadow (s : State) (g : Nat) (k : Cluster) : (setCluster s g k).wtShadow = s.wtShadow := rfl
@[simp] theorem setCluster_queues (s : State) (g : Nat) (k : Cluster) : (setCluster s g k).queues = s.queues := rfl
@[simp] theorem setCluster_ops (s : State) (g : Nat) (k : Cluster) : (setCluster s g k).ops = s.ops := rfl
@[simp] theorem setCluster_gathers (s : State) (g : Nat) (k : Cluster) : (setCluster s g k).gathers = s.gathers := rfl
@[simp] theorem setCluster_held (s : State) (g : Nat) (k : Cluster) : (setCluster s g k).held = s.held := rfl
@[simp] theorem setCluster_taken (s : State) (g : Nat) (k : Cluster) : (setCluster s g k).taken = s.taken := rfl
@[simp] theorem setCluster_launches (s : State) (g : Nat) (k : Cluster) : (setCluster s g k).launches = s.launches := rfl
@[simp] theorem setCluster_saved (s : State) (g : Nat) (k : Cluster) : (setCluster s g k).saved = s.saved := rfl
@[simp] theorem setCluster_flits (s : State) (g : Nat) (k : Cluster) : (setCluster s g k).flits = s.flits := rfl
@[simp] theorem setCluster_starved (s : State) (g : Nat) (k : Cluster) : (setCluster s g k).starved = s.starved := rfl
@[simp] theorem setCluster_bridges (s : State) (g : Nat) (k : Cluster) : (setCluster s g k).bridges = s.bridges := rfl
@[simp] theorem setCluster_hostLink (s : State) (g : Nat) (k : Cluster) : (setCluster s g k).hostLink = s.hostLink := rfl
@[simp] theorem setCluster_channels (s : State) (g : Nat) (k : Cluster) : (setCluster s g k).channels = s.channels := rfl
@[simp] theorem setCluster_units (s : State) (g : Nat) (k : Cluster) : (setCluster s g k).units = s.units := rfl
@[simp] theorem setCluster_walks (s : State) (g : Nat) (k : Cluster) : (setCluster s g k).walks = s.walks := rfl
@[simp] theorem setCluster_escal (s : State) (g : Nat) (k : Cluster) : (setCluster s g k).escal = s.escal := rfl
@[simp] theorem setCluster_pageHolds (s : State) (g : Nat) (k : Cluster) : (setCluster s g k).pageHolds = s.pageHolds := rfl
@[simp] theorem setCluster_shaQ (s : State) (g : Nat) (k : Cluster) : (setCluster s g k).shaQ = s.shaQ := rfl
@[simp] theorem setCluster_shaFree (s : State) (g : Nat) (k : Cluster) : (setCluster s g k).shaFree = s.shaFree := rfl
@[simp] theorem setCluster_exportTable (s : State) (g : Nat) (k : Cluster) : (setCluster s g k).exportTable = s.exportTable := rfl
@[simp] theorem setCluster_holders (s : State) (g : Nat) (k : Cluster) : (setCluster s g k).holders = s.holders := rfl
@[simp] theorem setCluster_inval (s : State) (g : Nat) (k : Cluster) : (setCluster s g k).inval = s.inval := rfl
@[simp] theorem setCluster_outbox (s : State) (g : Nat) (k : Cluster) : (setCluster s g k).outbox = s.outbox := rfl
@[simp] theorem setCluster_boot (s : State) (g : Nat) (k : Cluster) : (setCluster s g k).boot = s.boot := rfl
@[simp] theorem setCluster_power (s : State) (g : Nat) (k : Cluster) : (setCluster s g k).power = s.power := rfl
@[simp] theorem setCluster_trust (s : State) (g : Nat) (k : Cluster) : (setCluster s g k).trust = s.trust := rfl
@[simp] theorem setCluster_tests (s : State) (g : Nat) (k : Cluster) : (setCluster s g k).tests = s.tests := rfl
@[simp] theorem setCluster_spared (s : State) (g : Nat) (k : Cluster) : (setCluster s g k).spared = s.spared := rfl
@[simp] theorem setCluster_spares (s : State) (g : Nat) (k : Cluster) : (setCluster s g k).spares = s.spares := rfl
@[simp] theorem setCluster_sramErr (s : State) (g : Nat) (k : Cluster) : (setCluster s g k).sramErr = s.sramErr := rfl
@[simp] theorem setCluster_hbmErr (s : State) (g : Nat) (k : Cluster) : (setCluster s g k).hbmErr = s.hbmErr := rfl

/-! ### setQueue -/

@[simp] theorem setQueue_now (s : State) (q : Nat) (k : Queue) : (setQueue s q k).now = s.now := rfl
@[simp] theorem setQueue_cur (s : State) (q : Nat) (k : Queue) : (setQueue s q k).cur = s.cur := rfl
@[simp] theorem setQueue_views (s : State) (q : Nat) (k : Queue) : (setQueue s q k).views = s.views := rfl
@[simp] theorem setQueue_resume (s : State) (q : Nat) (k : Queue) : (setQueue s q k).resume = s.resume := rfl
@[simp] theorem setQueue_agenda (s : State) (q : Nat) (k : Queue) : (setQueue s q k).agenda = s.agenda := rfl
@[simp] theorem setQueue_scan (s : State) (q : Nat) (k : Queue) : (setQueue s q k).scan = s.scan := rfl
@[simp] theorem setQueue_draw (s : State) (q : Nat) (k : Queue) : (setQueue s q k).draw = s.draw := rfl
@[simp] theorem setQueue_nextUid (s : State) (q : Nat) (k : Queue) : (setQueue s q k).nextUid = s.nextUid := rfl
@[simp] theorem setQueue_nextId (s : State) (q : Nat) (k : Queue) : (setQueue s q k).nextId = s.nextId := rfl
@[simp] theorem setQueue_pkg (s : State) (q : Nat) (k : Queue) : (setQueue s q k).pkg = s.pkg := rfl
@[simp] theorem setQueue_cores (s : State) (q : Nat) (k : Queue) : (setQueue s q k).cores = s.cores := rfl
@[simp] theorem setQueue_clusters (s : State) (q : Nat) (k : Queue) : (setQueue s q k).clusters = s.clusters := rfl
@[simp] theorem setQueue_groups (s : State) (q : Nat) (k : Queue) : (setQueue s q k).groups = s.groups := rfl
@[simp] theorem setQueue_hbm (s : State) (q : Nat) (k : Queue) : (setQueue s q k).hbm = s.hbm := rfl
@[simp] theorem setQueue_sram (s : State) (q : Nat) (k : Queue) : (setQueue s q k).sram = s.sram := rfl
@[simp] theorem setQueue_host (s : State) (q : Nat) (k : Queue) : (setQueue s q k).host = s.host := rfl
@[simp] theorem setQueue_peers (s : State) (q : Nat) (k : Queue) : (setQueue s q k).peers = s.peers := rfl
@[simp] theorem setQueue_homeWaiters (s : State) (q : Nat) (k : Queue) : (setQueue s q k).homeWaiters = s.homeWaiters := rfl
@[simp] theorem setQueue_wtGroup (s : State) (q : Nat) (k : Queue) : (setQueue s q k).wtGroup = s.wtGroup := rfl
@[simp] theorem setQueue_wtShadow (s : State) (q : Nat) (k : Queue) : (setQueue s q k).wtShadow = s.wtShadow := rfl
@[simp] theorem setQueue_ops (s : State) (q : Nat) (k : Queue) : (setQueue s q k).ops = s.ops := rfl
@[simp] theorem setQueue_gathers (s : State) (q : Nat) (k : Queue) : (setQueue s q k).gathers = s.gathers := rfl
@[simp] theorem setQueue_held (s : State) (q : Nat) (k : Queue) : (setQueue s q k).held = s.held := rfl
@[simp] theorem setQueue_taken (s : State) (q : Nat) (k : Queue) : (setQueue s q k).taken = s.taken := rfl
@[simp] theorem setQueue_launches (s : State) (q : Nat) (k : Queue) : (setQueue s q k).launches = s.launches := rfl
@[simp] theorem setQueue_saved (s : State) (q : Nat) (k : Queue) : (setQueue s q k).saved = s.saved := rfl
@[simp] theorem setQueue_flits (s : State) (q : Nat) (k : Queue) : (setQueue s q k).flits = s.flits := rfl
@[simp] theorem setQueue_starved (s : State) (q : Nat) (k : Queue) : (setQueue s q k).starved = s.starved := rfl
@[simp] theorem setQueue_bridges (s : State) (q : Nat) (k : Queue) : (setQueue s q k).bridges = s.bridges := rfl
@[simp] theorem setQueue_hostLink (s : State) (q : Nat) (k : Queue) : (setQueue s q k).hostLink = s.hostLink := rfl
@[simp] theorem setQueue_channels (s : State) (q : Nat) (k : Queue) : (setQueue s q k).channels = s.channels := rfl
@[simp] theorem setQueue_units (s : State) (q : Nat) (k : Queue) : (setQueue s q k).units = s.units := rfl
@[simp] theorem setQueue_walks (s : State) (q : Nat) (k : Queue) : (setQueue s q k).walks = s.walks := rfl
@[simp] theorem setQueue_escal (s : State) (q : Nat) (k : Queue) : (setQueue s q k).escal = s.escal := rfl
@[simp] theorem setQueue_pageHolds (s : State) (q : Nat) (k : Queue) : (setQueue s q k).pageHolds = s.pageHolds := rfl
@[simp] theorem setQueue_shaQ (s : State) (q : Nat) (k : Queue) : (setQueue s q k).shaQ = s.shaQ := rfl
@[simp] theorem setQueue_shaFree (s : State) (q : Nat) (k : Queue) : (setQueue s q k).shaFree = s.shaFree := rfl
@[simp] theorem setQueue_exportTable (s : State) (q : Nat) (k : Queue) : (setQueue s q k).exportTable = s.exportTable := rfl
@[simp] theorem setQueue_holders (s : State) (q : Nat) (k : Queue) : (setQueue s q k).holders = s.holders := rfl
@[simp] theorem setQueue_inval (s : State) (q : Nat) (k : Queue) : (setQueue s q k).inval = s.inval := rfl
@[simp] theorem setQueue_outbox (s : State) (q : Nat) (k : Queue) : (setQueue s q k).outbox = s.outbox := rfl
@[simp] theorem setQueue_boot (s : State) (q : Nat) (k : Queue) : (setQueue s q k).boot = s.boot := rfl
@[simp] theorem setQueue_power (s : State) (q : Nat) (k : Queue) : (setQueue s q k).power = s.power := rfl
@[simp] theorem setQueue_trust (s : State) (q : Nat) (k : Queue) : (setQueue s q k).trust = s.trust := rfl
@[simp] theorem setQueue_tests (s : State) (q : Nat) (k : Queue) : (setQueue s q k).tests = s.tests := rfl
@[simp] theorem setQueue_spared (s : State) (q : Nat) (k : Queue) : (setQueue s q k).spared = s.spared := rfl
@[simp] theorem setQueue_spares (s : State) (q : Nat) (k : Queue) : (setQueue s q k).spares = s.spares := rfl
@[simp] theorem setQueue_sramErr (s : State) (q : Nat) (k : Queue) : (setQueue s q k).sramErr = s.sramErr := rfl
@[simp] theorem setQueue_hbmErr (s : State) (q : Nat) (k : Queue) : (setQueue s q k).hbmErr = s.hbmErr := rfl

/-! ### setThread -/

@[simp] theorem setThread_now (s : State) (t : TId) (th : Thread) : (setThread s t th).now = s.now := rfl
@[simp] theorem setThread_cur (s : State) (t : TId) (th : Thread) : (setThread s t th).cur = s.cur := rfl
@[simp] theorem setThread_views (s : State) (t : TId) (th : Thread) : (setThread s t th).views = s.views := rfl
@[simp] theorem setThread_resume (s : State) (t : TId) (th : Thread) : (setThread s t th).resume = s.resume := rfl
@[simp] theorem setThread_agenda (s : State) (t : TId) (th : Thread) : (setThread s t th).agenda = s.agenda := rfl
@[simp] theorem setThread_scan (s : State) (t : TId) (th : Thread) : (setThread s t th).scan = s.scan := rfl
@[simp] theorem setThread_draw (s : State) (t : TId) (th : Thread) : (setThread s t th).draw = s.draw := rfl
@[simp] theorem setThread_nextUid (s : State) (t : TId) (th : Thread) : (setThread s t th).nextUid = s.nextUid := rfl
@[simp] theorem setThread_nextId (s : State) (t : TId) (th : Thread) : (setThread s t th).nextId = s.nextId := rfl
@[simp] theorem setThread_pkg (s : State) (t : TId) (th : Thread) : (setThread s t th).pkg = s.pkg := rfl
@[simp] theorem setThread_clusters (s : State) (t : TId) (th : Thread) : (setThread s t th).clusters = s.clusters := rfl
@[simp] theorem setThread_groups (s : State) (t : TId) (th : Thread) : (setThread s t th).groups = s.groups := rfl
@[simp] theorem setThread_hbm (s : State) (t : TId) (th : Thread) : (setThread s t th).hbm = s.hbm := rfl
@[simp] theorem setThread_sram (s : State) (t : TId) (th : Thread) : (setThread s t th).sram = s.sram := rfl
@[simp] theorem setThread_host (s : State) (t : TId) (th : Thread) : (setThread s t th).host = s.host := rfl
@[simp] theorem setThread_peers (s : State) (t : TId) (th : Thread) : (setThread s t th).peers = s.peers := rfl
@[simp] theorem setThread_homeWaiters (s : State) (t : TId) (th : Thread) : (setThread s t th).homeWaiters = s.homeWaiters := rfl
@[simp] theorem setThread_wtGroup (s : State) (t : TId) (th : Thread) : (setThread s t th).wtGroup = s.wtGroup := rfl
@[simp] theorem setThread_wtShadow (s : State) (t : TId) (th : Thread) : (setThread s t th).wtShadow = s.wtShadow := rfl
@[simp] theorem setThread_queues (s : State) (t : TId) (th : Thread) : (setThread s t th).queues = s.queues := rfl
@[simp] theorem setThread_ops (s : State) (t : TId) (th : Thread) : (setThread s t th).ops = s.ops := rfl
@[simp] theorem setThread_gathers (s : State) (t : TId) (th : Thread) : (setThread s t th).gathers = s.gathers := rfl
@[simp] theorem setThread_held (s : State) (t : TId) (th : Thread) : (setThread s t th).held = s.held := rfl
@[simp] theorem setThread_taken (s : State) (t : TId) (th : Thread) : (setThread s t th).taken = s.taken := rfl
@[simp] theorem setThread_launches (s : State) (t : TId) (th : Thread) : (setThread s t th).launches = s.launches := rfl
@[simp] theorem setThread_saved (s : State) (t : TId) (th : Thread) : (setThread s t th).saved = s.saved := rfl
@[simp] theorem setThread_flits (s : State) (t : TId) (th : Thread) : (setThread s t th).flits = s.flits := rfl
@[simp] theorem setThread_starved (s : State) (t : TId) (th : Thread) : (setThread s t th).starved = s.starved := rfl
@[simp] theorem setThread_bridges (s : State) (t : TId) (th : Thread) : (setThread s t th).bridges = s.bridges := rfl
@[simp] theorem setThread_hostLink (s : State) (t : TId) (th : Thread) : (setThread s t th).hostLink = s.hostLink := rfl
@[simp] theorem setThread_channels (s : State) (t : TId) (th : Thread) : (setThread s t th).channels = s.channels := rfl
@[simp] theorem setThread_units (s : State) (t : TId) (th : Thread) : (setThread s t th).units = s.units := rfl
@[simp] theorem setThread_walks (s : State) (t : TId) (th : Thread) : (setThread s t th).walks = s.walks := rfl
@[simp] theorem setThread_escal (s : State) (t : TId) (th : Thread) : (setThread s t th).escal = s.escal := rfl
@[simp] theorem setThread_pageHolds (s : State) (t : TId) (th : Thread) : (setThread s t th).pageHolds = s.pageHolds := rfl
@[simp] theorem setThread_shaQ (s : State) (t : TId) (th : Thread) : (setThread s t th).shaQ = s.shaQ := rfl
@[simp] theorem setThread_shaFree (s : State) (t : TId) (th : Thread) : (setThread s t th).shaFree = s.shaFree := rfl
@[simp] theorem setThread_exportTable (s : State) (t : TId) (th : Thread) : (setThread s t th).exportTable = s.exportTable := rfl
@[simp] theorem setThread_holders (s : State) (t : TId) (th : Thread) : (setThread s t th).holders = s.holders := rfl
@[simp] theorem setThread_inval (s : State) (t : TId) (th : Thread) : (setThread s t th).inval = s.inval := rfl
@[simp] theorem setThread_outbox (s : State) (t : TId) (th : Thread) : (setThread s t th).outbox = s.outbox := rfl
@[simp] theorem setThread_boot (s : State) (t : TId) (th : Thread) : (setThread s t th).boot = s.boot := rfl
@[simp] theorem setThread_power (s : State) (t : TId) (th : Thread) : (setThread s t th).power = s.power := rfl
@[simp] theorem setThread_trust (s : State) (t : TId) (th : Thread) : (setThread s t th).trust = s.trust := rfl
@[simp] theorem setThread_tests (s : State) (t : TId) (th : Thread) : (setThread s t th).tests = s.tests := rfl
@[simp] theorem setThread_spared (s : State) (t : TId) (th : Thread) : (setThread s t th).spared = s.spared := rfl
@[simp] theorem setThread_spares (s : State) (t : TId) (th : Thread) : (setThread s t th).spares = s.spares := rfl
@[simp] theorem setThread_sramErr (s : State) (t : TId) (th : Thread) : (setThread s t th).sramErr = s.sramErr := rfl
@[simp] theorem setThread_hbmErr (s : State) (t : TId) (th : Thread) : (setThread s t th).hbmErr = s.hbmErr := rfl

/-! ### later -/

@[simp] theorem later_now (s : State) (d : Nat) (e : Instr) : (later s d e).now = s.now := rfl
@[simp] theorem later_cur (s : State) (d : Nat) (e : Instr) : (later s d e).cur = s.cur := rfl
@[simp] theorem later_views (s : State) (d : Nat) (e : Instr) : (later s d e).views = s.views := rfl
@[simp] theorem later_resume (s : State) (d : Nat) (e : Instr) : (later s d e).resume = s.resume := rfl
@[simp] theorem later_scan (s : State) (d : Nat) (e : Instr) : (later s d e).scan = s.scan := rfl
@[simp] theorem later_draw (s : State) (d : Nat) (e : Instr) : (later s d e).draw = s.draw := rfl
@[simp] theorem later_nextUid (s : State) (d : Nat) (e : Instr) : (later s d e).nextUid = s.nextUid := rfl
@[simp] theorem later_nextId (s : State) (d : Nat) (e : Instr) : (later s d e).nextId = s.nextId := rfl
@[simp] theorem later_pkg (s : State) (d : Nat) (e : Instr) : (later s d e).pkg = s.pkg := rfl
@[simp] theorem later_cores (s : State) (d : Nat) (e : Instr) : (later s d e).cores = s.cores := rfl
@[simp] theorem later_clusters (s : State) (d : Nat) (e : Instr) : (later s d e).clusters = s.clusters := rfl
@[simp] theorem later_groups (s : State) (d : Nat) (e : Instr) : (later s d e).groups = s.groups := rfl
@[simp] theorem later_hbm (s : State) (d : Nat) (e : Instr) : (later s d e).hbm = s.hbm := rfl
@[simp] theorem later_sram (s : State) (d : Nat) (e : Instr) : (later s d e).sram = s.sram := rfl
@[simp] theorem later_host (s : State) (d : Nat) (e : Instr) : (later s d e).host = s.host := rfl
@[simp] theorem later_peers (s : State) (d : Nat) (e : Instr) : (later s d e).peers = s.peers := rfl
@[simp] theorem later_homeWaiters (s : State) (d : Nat) (e : Instr) : (later s d e).homeWaiters = s.homeWaiters := rfl
@[simp] theorem later_wtGroup (s : State) (d : Nat) (e : Instr) : (later s d e).wtGroup = s.wtGroup := rfl
@[simp] theorem later_wtShadow (s : State) (d : Nat) (e : Instr) : (later s d e).wtShadow = s.wtShadow := rfl
@[simp] theorem later_queues (s : State) (d : Nat) (e : Instr) : (later s d e).queues = s.queues := rfl
@[simp] theorem later_ops (s : State) (d : Nat) (e : Instr) : (later s d e).ops = s.ops := rfl
@[simp] theorem later_gathers (s : State) (d : Nat) (e : Instr) : (later s d e).gathers = s.gathers := rfl
@[simp] theorem later_held (s : State) (d : Nat) (e : Instr) : (later s d e).held = s.held := rfl
@[simp] theorem later_taken (s : State) (d : Nat) (e : Instr) : (later s d e).taken = s.taken := rfl
@[simp] theorem later_launches (s : State) (d : Nat) (e : Instr) : (later s d e).launches = s.launches := rfl
@[simp] theorem later_saved (s : State) (d : Nat) (e : Instr) : (later s d e).saved = s.saved := rfl
@[simp] theorem later_flits (s : State) (d : Nat) (e : Instr) : (later s d e).flits = s.flits := rfl
@[simp] theorem later_starved (s : State) (d : Nat) (e : Instr) : (later s d e).starved = s.starved := rfl
@[simp] theorem later_bridges (s : State) (d : Nat) (e : Instr) : (later s d e).bridges = s.bridges := rfl
@[simp] theorem later_hostLink (s : State) (d : Nat) (e : Instr) : (later s d e).hostLink = s.hostLink := rfl
@[simp] theorem later_channels (s : State) (d : Nat) (e : Instr) : (later s d e).channels = s.channels := rfl
@[simp] theorem later_units (s : State) (d : Nat) (e : Instr) : (later s d e).units = s.units := rfl
@[simp] theorem later_walks (s : State) (d : Nat) (e : Instr) : (later s d e).walks = s.walks := rfl
@[simp] theorem later_escal (s : State) (d : Nat) (e : Instr) : (later s d e).escal = s.escal := rfl
@[simp] theorem later_pageHolds (s : State) (d : Nat) (e : Instr) : (later s d e).pageHolds = s.pageHolds := rfl
@[simp] theorem later_shaQ (s : State) (d : Nat) (e : Instr) : (later s d e).shaQ = s.shaQ := rfl
@[simp] theorem later_shaFree (s : State) (d : Nat) (e : Instr) : (later s d e).shaFree = s.shaFree := rfl
@[simp] theorem later_exportTable (s : State) (d : Nat) (e : Instr) : (later s d e).exportTable = s.exportTable := rfl
@[simp] theorem later_holders (s : State) (d : Nat) (e : Instr) : (later s d e).holders = s.holders := rfl
@[simp] theorem later_inval (s : State) (d : Nat) (e : Instr) : (later s d e).inval = s.inval := rfl
@[simp] theorem later_outbox (s : State) (d : Nat) (e : Instr) : (later s d e).outbox = s.outbox := rfl
@[simp] theorem later_boot (s : State) (d : Nat) (e : Instr) : (later s d e).boot = s.boot := rfl
@[simp] theorem later_power (s : State) (d : Nat) (e : Instr) : (later s d e).power = s.power := rfl
@[simp] theorem later_trust (s : State) (d : Nat) (e : Instr) : (later s d e).trust = s.trust := rfl
@[simp] theorem later_tests (s : State) (d : Nat) (e : Instr) : (later s d e).tests = s.tests := rfl
@[simp] theorem later_spared (s : State) (d : Nat) (e : Instr) : (later s d e).spared = s.spared := rfl
@[simp] theorem later_spares (s : State) (d : Nat) (e : Instr) : (later s d e).spares = s.spares := rfl
@[simp] theorem later_sramErr (s : State) (d : Nat) (e : Instr) : (later s d e).sramErr = s.sramErr := rfl
@[simp] theorem later_hbmErr (s : State) (d : Nat) (e : Instr) : (later s d e).hbmErr = s.hbmErr := rfl

@[simp] theorem setCore_cores (s : State) (c : Nat) (k : Core) : (setCore s c k).cores = put c k s.cores := rfl
@[simp] theorem setCluster_clusters (s : State) (g : Nat) (k : Cluster) : (setCluster s g k).clusters = put g k s.clusters := rfl
@[simp] theorem setQueue_queues (s : State) (q : Nat) (k : Queue) : (setQueue s q k).queues = put q k s.queues := rfl
@[simp] theorem later_agenda (s : State) (d : Nat) (e : Instr) : (later s d e).agenda = agendaPut s.agenda (s.now + d) e := rfl

end Sys2Proof.Machine
end

