-- ==== Sys2Proof/Laws/Ops.lean ====
section
/-! SUPPORT. What each shared operation over threads and the agenda can do, said once: sparse maps, a thread put into its slot,
the end of an instruction, parking, taking a trap and returning from one. -/
namespace Sys2Proof.Machine
open Sys2Proof

/-! ### Sparse maps -/

@[simp] theorem look_put_same {α : Type} (k : Nat) (v : α) : ∀ l : List (Nat × α), look k (put k v l) = some v
  | [] => by simp [put, look]
  | (i, w) :: r => by
    unfold put
    split
    · simp [look]
    · split
      · simp [look]
      · rename_i h; simp [look, h, look_put_same]

theorem look_put_other {α : Type} {k j : Nat} (h : j ≠ k) (v : α) : ∀ l : List (Nat × α), look j (put k v l) = look j l
  | [] => by simp [put, look, Ne.symm h]
  | (i, w) :: r => by
    unfold put
    split
    · simp [look, Ne.symm h]
    · split
      · rename_i h1 h2; subst h2; simp [look, Ne.symm h]
      · simp only [look, look_put_other h]

theorem put_put {α : Type} (k : Nat) (v w : α) : ∀ l : List (Nat × α), put k v (put k w l) = put k v l
  | [] => by simp [put]
  | (i, u) :: r => by
    by_cases h1 : k < i
    · simp [put, h1]
    · by_cases h2 : i = k
      · subst h2; simp [put]
      · have h3 : ¬ k < i := h1
        simp [put, h1, h2, put_put]

@[simp] theorem look_del_same {α : Type} (k : Nat) : ∀ l : List (Nat × α), look k (del k l) = none
  | [] => rfl
  | (i, w) :: r => by
    have ih := look_del_same k r
    unfold del at ih ⊢
    by_cases h : i = k
    · subst h; simpa using ih
    · simp [look, h, ih]

theorem look_del_other {α : Type} {k j : Nat} (h : j ≠ k) : ∀ l : List (Nat × α), look j (del k l) = look j l
  | [] => rfl
  | (i, w) :: r => by
    have ih := look_del_other h r
    unfold del at ih ⊢
    by_cases h1 : i = k
    · subst h1; simpa [look, Ne.symm h] using ih
    · simp [h1, look, ih]

/-! ### Cores, slots and threads -/

@[simp] theorem coreAt_setCore_same (s : State) (c : Nat) (k : Core) : coreAt (setCore s c k) c = k := by simp [coreAt]
theorem coreAt_setCore_other {c d : Nat} (h : d ≠ c) (s : State) (k : Core) : coreAt (setCore s c k) d = coreAt s d := by
  simp [coreAt, look_put_other h]
@[simp] theorem slotAt_setSlot_same (k : Core) (n : Nat) (x : Slot) : slotAt (setSlot k n x) n = x := by simp [slotAt, setSlot]
theorem slotAt_setSlot_other {n m : Nat} (h : m ≠ n) (k : Core) (x : Slot) : slotAt (setSlot k n x) m = slotAt k m := by
  simp [slotAt, setSlot, look_put_other h]

/-- A thread put into its slot stands there. -/
@[simp] theorem thread?_setThread_same (s : State) (t : TId) (th : Thread) : thread? (setThread s t th) t = some th := by
  simp [thread?, setThread, threadIn]

/-- Every other slot keeps its thread. -/
theorem thread?_setThread_other {t u : TId} (h : u ≠ t) (s : State) (th : Thread) : thread? (setThread s t th) u = thread? s u := by
  obtain ⟨c, n⟩ := t
  obtain ⟨d, m⟩ := u
  by_cases hc : d = c
  · subst hc
    have hn : m ≠ n := fun e => h (by rw [e])
    simp [thread?, setThread, slotAt_setSlot_other hn]
  · simp [thread?, setThread, coreAt_setCore_other hc]

/-- A thread put over another of the same slot replaces it. -/
theorem setThread_setThread (s : State) (t : TId) (a b : Thread) : setThread (setThread s t a) t b = setThread s t b := by
  simp [setThread, setCore, setSlot, slotAt, put_put, coreAt]

theorem modThread_some {s : State} {t : TId} {th : Thread} (h : thread? s t = some th) (f : Thread → Thread) :
    modThread s t f = setThread s t (f th) := by simp [modThread, h]
theorem modThread_none {s : State} {t : TId} (h : thread? s t = none) (f : Thread → Thread) : modThread s t f = s := by
  simp [modThread, h]
@[simp] theorem modThread_setThread (s : State) (t : TId) (th : Thread) (f : Thread → Thread) :
    modThread (setThread s t th) t f = setThread s t (f th) := by
  rw [modThread_some (thread?_setThread_same s t th), setThread_setThread]
@[simp] theorem thread?_views (s : State) (t : TId) (l : List PairView) : thread? { s with views := l } t = thread? s t := rfl

/-! ### Frames: which fields a shared operation may change -/

/-- A change of one thread changes the cores alone. -/
theorem modThread_frame (s : State) (t : TId) (f : Thread → Thread) : modThread s t f = { s with cores := (modThread s t f).cores } := by
  unfold modThread
  split <;> rfl

/-- The end of an instruction changes the cores, and drops the thread's view of its pair. -/
theorem finishAt_frame (s : State) (t : TId) (pc : Word) (chk : Bool) :
    finishAt s t pc chk = { s with cores := (finishAt s t pc chk).cores, views := s.views.filter (fun x => x.t != t) } := by
  unfold finishAt
  exact modThread_frame _ _ _

theorem advance_frame (s : State) (t : TId) : advance s t = { s with cores := (advance s t).cores, views := (advance s t).views } := by
  unfold advance
  split
  · rfl
  · rw [finishAt_frame]

theorem park_frame (s : State) (t : TId) (why : Why) (retry : Option Instr) :
    park s t why retry = { s with cores := (park s t why retry).cores } := modThread_frame _ _ _
theorem repark_frame (s : State) (t : TId) (why : Why) (retry : Option Instr) :
    repark s t why retry = { s with cores := (repark s t why retry).cores } := modThread_frame _ _ _
theorem unpark_frame (s : State) (t : TId) : unpark s t = { s with cores := (unpark s t).cores } := modThread_frame _ _ _

/-! ### The end of an instruction -/

/-- The state after an instruction of the thread in slot `t` whose registers and status are then those of `th`: the thread
stands at `pc`, and nothing else changes. -/
theorem finishAt_some {s : State} {t : TId} {th : Thread} (h : thread? s t = some th) (pc : Word) (chk : Bool) :
    finishAt s t pc chk = afterInstr s t (ended th pc chk) := by
  simp only [finishAt]
  rw [modThread_some (by simpa using h)]
  rfl

theorem advance_some {s : State} {t : TId} {th : Thread} (h : thread? s t = some th) :
    advance s t = afterInstr s t (ended th (succPc th.pc) false) := by simp [advance, h, finishAt_some h]

theorem afterInstr_setThread (s : State) (t : TId) (a b : Thread) : afterInstr (setThread s t a) t b = afterInstr s t b := by
  have e : ({ setThread s t a with views := (setThread s t a).views.filter (fun x => x.t != t) } : State)
      = setThread { s with views := s.views.filter (fun x => x.t != t) } t a := rfl
  rw [afterInstr, e, setThread_setThread, afterInstr]

theorem finishAt_setThread (s : State) (t : TId) (th : Thread) (pc : Word) (chk : Bool) :
    finishAt (setThread s t th) t pc chk = afterInstr s t (ended th pc chk) := by
  rw [finishAt_some (thread?_setThread_same s t th), afterInstr_setThread]

theorem advance_setThread (s : State) (t : TId) (th : Thread) :
    advance (setThread s t th) t = afterInstr s t (ended th (succPc th.pc) false) := by
  rw [advance_some (thread?_setThread_same s t th), afterInstr_setThread]

/-- After an instruction of one thread, its slot holds the thread given and every other slot keeps its own. -/
theorem thread?_afterInstr (s : State) (t u : TId) (th : Thread) :
    thread? (afterInstr s t th) u = if u = t then some th else thread? s u := by
  split
  · rename_i h; subst h; exact thread?_setThread_same _ _ _
  · rename_i h; exact thread?_setThread_other h _ _

/-! ### Traps -/

/-- A thread that has popped no channel has nothing to give back. -/
theorem unpop_nil {s : State} {t : TId} {th : Thread} (h : thread? s t = some th) (hp : th.pops = []) : unpop s t = s := by
  simp [unpop, h, hp]

/-- A trap that is taken (R93): scr holds the cause, the address and the information, and the thread stands at scr.tvec. -/
theorem trap_taken {s : State} {t : TId} {th : Thread} (h : thread? s t = some th) (hp : th.pops = []) (hi : inTrap th = false)
    (hv : th.scr.tvec ≠ 0) (ti : TrapInfo) :
    trap s t ti = afterInstr s t (ended
      { th with scr := { th.scr with epc := th.pc, ecause := 256 ||| ti.cause.setWidth 64, eaddr := ti.addr, einfo := ti.info } }
      th.scr.tvec true) := by
  have hc : ¬ ((inTrap th || decide (th.scr.tvec = 0)) = true) := by simpa [hi] using hv
  simp only [trap, unpop_nil h hp, h, if_neg hc]
  exact finishAt_setThread _ _ _ _ _

end Sys2Proof.Machine
end

