-- ==== Sys2Proof/Laws/Operands.lean ====
section
/-! SUPPORT. What reading operands and writing a scalar result can do: which threads and registers they leave, and the state
after the destination is written. -/
namespace Sys2Proof.Machine
open Sys2Proof

/-! ### Channels -/

/-- A change of a core that keeps its slots keeps every thread. -/
theorem thread?_setCore_slots {s : State} {c : Nat} {k : Core} (h : k.slots = (coreAt s c).slots) (u : TId) :
    thread? (setCore s c k) u = thread? s u := by
  by_cases hc : u.core = c
  · subst hc; simp [thread?, slotAt, h]
  · simp [thread?, coreAt_setCore_other hc]

@[simp] theorem thread?_setCluster (s : State) (g : Nat) (k : Cluster) (u : TId) : thread? (setCluster s g k) u = thread? s u := rfl

/-- Setting a queue's words changes no thread. -/
@[simp] theorem thread?_setChWords (s : State) (q : ChQueue) (l : List ChWord) (u : TId) :
    thread? (setChWords s q l) u = thread? s u := by
  cases q with
  | slot c i =>
    refine thread?_setCore_slots ?_ u
    rfl
  | inb c i =>
    refine thread?_setCore_slots ?_ u
    rfl
  | fifo g b => rfl

@[simp] theorem setChWords_now (s : State) (q : ChQueue) (l : List ChWord) : (setChWords s q l).now = s.now := by
  cases q <;> rfl
@[simp] theorem setChWords_cur (s : State) (q : ChQueue) (l : List ChWord) : (setChWords s q l).cur = s.cur := by
  cases q <;> rfl
@[simp] theorem setChWords_views (s : State) (q : ChQueue) (l : List ChWord) : (setChWords s q l).views = s.views := by
  cases q <;> rfl

/-- A FIFO bank is found as before: its map entries stay. -/
theorem banks_setChWords (s : State) (q : ChQueue) (l : List ChWord) (g : Nat) :
    (clusterAt (setChWords s q l) g).banks = (clusterAt s g).banks := by
  cases q with
  | fifo g' b =>
    by_cases h : g = g'
    · subst h; simp [setChWords, modCluster, clusterAt]
    · simp [setChWords, modCluster, clusterAt, look_put_other h]
  | _ => rfl

/-- A channel names the same queue, whatever words queues hold. -/
@[simp] theorem chQueue_setChWords (s : State) (q : ChQueue) (l : List ChWord) (t : TId) (th : Thread) (n : Fin 8) (w : Bool) :
    chQueue (setChWords s q l) t th n w = chQueue s t th n w := by
  unfold chQueue
  simp only [fifoBank, banks_setChWords]

/-- A state that differs from another in no thread, place in time, view or channel binding. -/
structure SameThreads (a b : State) : Prop where
  thread : ∀ u, thread? a u = thread? b u
  cur : a.cur = b.cur
  now : a.now = b.now
  views : a.views = b.views
  queue : ∀ u x n w, chQueue a u x n w = chQueue b u x n w

theorem SameThreads.rfl' (s : State) : SameThreads s s := ⟨fun _ => rfl, rfl, rfl, rfl, fun _ _ _ _ => rfl⟩
theorem SameThreads.trans {a b c : State} (h : SameThreads a b) (g : SameThreads b c) : SameThreads a c :=
  ⟨fun u => (h.thread u).trans (g.thread u), h.cur.trans g.cur, h.now.trans g.now, h.views.trans g.views,
    fun u x n w => (h.queue u x n w).trans (g.queue u x n w)⟩

theorem sameThreads_setChWords (s : State) (q : ChQueue) (l : List ChWord) : SameThreads (setChWords s q l) s :=
  ⟨fun u => thread?_setChWords s q l u, setChWords_cur s q l, setChWords_now s q l, setChWords_views s q l,
    fun u x n w => chQueue_setChWords s q l u x n w⟩
theorem sameThreads_chPoke (s : State) (q : ChQueue) : SameThreads (chPoke s q) s := by
  unfold chPoke
  split
  · unfold pokeHome
    dsimp only
    split
    · exact .rfl' s
    · exact ⟨fun _ => rfl, rfl, rfl, rfl, fun _ _ _ _ => rfl⟩
  · exact .rfl' s
theorem sameThreads_modCore {s : State} {c : Nat} {f : Core → Core} (h : (f (coreAt s c)).slots = (coreAt s c).slots) :
    SameThreads (modCore s c f) s := ⟨fun u => thread?_setCore_slots h u, rfl, rfl, rfl, fun _ _ _ _ => rfl⟩
/-- A push and a pop change no thread. -/
theorem sameThreads_chPush (s : State) (core uid : Nat) (q : ChQueue) (v : Word) : SameThreads (chPush s core uid q v) s :=
  (sameThreads_modCore rfl).trans ((sameThreads_chPoke _ _).trans (sameThreads_setChWords _ _ _))
theorem sameThreads_chPop (s : State) (core : Nat) (q : ChQueue) : SameThreads (chPop s core q) s :=
  (sameThreads_modCore rfl).trans ((sameThreads_chPoke _ _).trans (sameThreads_setChWords _ _ _))

/-! ### Reading the operands -/

theorem readAll_keeps (s : State) (t : TId) (th : Thread) (rs : List Reg) :
    (∀ u, thread? (readAll s t th rs).1 u = thread? s u) ∧ (readAll s t th rs).1.cur = s.cur ∧
      (readAll s t th rs).1.now = s.now ∧ (readAll s t th rs).1.views = s.views ∧
      (∀ u x n w, chQueue (readAll s t th rs).1 u x n w = chQueue s u x n w) := by
  induction rs generalizing s with
  | nil => exact ⟨fun _ => rfl, rfl, rfl, rfl, fun _ _ _ _ => rfl⟩
  | cons r rs ih =>
    simp only [readAll]
    split
    · split
      · rename_i q _
        obtain ⟨h1, h2, h3, h4, h5⟩ := ih (chPop s t.core q)
        have g := sameThreads_chPop s t.core q
        exact ⟨fun u => (h1 u).trans (g.thread u), h2.trans g.cur, h3.trans g.now, h4.trans g.views,
          fun u x n w => (h5 u x n w).trans (g.queue u x n w)⟩
      · exact ih s
    · exact ih s

/-- Operands without a channel are read and nothing else happens. -/
theorem readAll_plain (s : State) (t : TId) (th : Thread) {rs : List Reg} (h : ∀ r ∈ rs, chOf r = none) :
    readAll s t th rs = (s, rs.map (readReg s t th)) := by
  induction rs with
  | nil => rfl
  | cons r rs ih =>
    have h1 : chOf r = none := h r (by simp)
    simp only [readAll, h1]
    rw [ih (fun x hx => h x (by simp [hx]))]
    rfl

theorem takeOps_plain (s : State) (th : Thread) {rs : List Reg} (h : ∀ r ∈ rs, chOf r = none) :
    takeOps s th rs = (s, rs.map (readReg s s.cur (viewOf s s.cur th))) := by
  have hz : ∀ (l : List (Reg × Word)), (∀ x ∈ l, chOf x.1 = none) → l.filterMap (fun x => (chOf x.1).map (fun n => (n, x.2))) = [] := by
    intro l hl
    rw [List.filterMap_eq_nil_iff]
    intro x hx
    simp [hl x hx]
  simp only [takeOps, readAll_plain s s.cur _ h]
  rw [hz, if_pos rfl]
  intro x hx
  exact h _ (List.of_mem_zip hx).1

/-- After the operands are read, the thread keeps everything but its note of the words it has popped. -/
theorem takeOps_thread {s : State} {th : Thread} (h : thread? s s.cur = some th) (rs : List Reg) (ho : th.pops = []) :
    ∃ x, thread? (takeOps s th rs).1 s.cur = some { th with pops := x } := by
  obtain ⟨h1, -⟩ := readAll_keeps s s.cur (viewOf s s.cur th) rs
  simp only [takeOps]
  split
  · exact ⟨[], by rw [h1, h, ← ho]⟩
  · exact ⟨_, by rw [modThread_some (h1 s.cur ▸ h)]; exact thread?_setThread_same _ _ _⟩

theorem modThread_keeps (s : State) (t : TId) (f : Thread → Thread) :
    (modThread s t f).cur = s.cur ∧ (modThread s t f).now = s.now ∧ (modThread s t f).views = s.views ∧
      (∀ u x n w, chQueue (modThread s t f) u x n w = chQueue s u x n w) := by
  unfold modThread
  split
  · exact ⟨rfl, rfl, rfl, fun _ _ _ _ => rfl⟩
  · exact ⟨rfl, rfl, rfl, fun _ _ _ _ => rfl⟩

theorem takeOps_keeps (s : State) (th : Thread) (rs : List Reg) :
    (takeOps s th rs).1.cur = s.cur ∧ (takeOps s th rs).1.now = s.now ∧ (takeOps s th rs).1.views = s.views ∧
      (∀ u x n w, chQueue (takeOps s th rs).1 u x n w = chQueue s u x n w) := by
  obtain ⟨-, h2, h3, h4, h5⟩ := readAll_keeps s s.cur (viewOf s s.cur th) rs
  simp only [takeOps]
  split
  · exact ⟨h2, h3, h4, h5⟩
  · obtain ⟨g1, g2, g3, g4⟩ := modThread_keeps (readAll s s.cur (viewOf s s.cur th) rs).1 s.cur
      (fun th => { th with pops := (rs.zip (readAll s s.cur (viewOf s s.cur th) rs).2).filterMap (fun x => (chOf x.1).map (fun n => (n, x.2))) })
    exact ⟨by rw [(modThread_keeps _ _ _).1, h2], by rw [(modThread_keeps _ _ _).2.1, h3], by rw [(modThread_keeps _ _ _).2.2.1, h4],
      fun u x n w => by rw [(modThread_keeps _ _ _).2.2.2, h5]⟩

/-- Operands that can be used are read, and the meaning goes on with them. -/
theorem operands_run {s : State} {th : Thread} {i : Instr} {rs : List Reg} {d : Option Reg} (hl : th.latch = none)
    (hf : opsFault s th (opOf i) rs d = none) (hb : chBlocked s s.cur th rs d = none) (k : State → List Word → State) :
    operands s th i rs d k = k (takeOps s th rs).1 (takeOps s th rs).2 := by
  simp only [operands, hl, hf, hb]

/-- Operands held from the first read are read no more. -/
theorem operands_held {s : State} {th : Thread} {i : Instr} {rs : List Reg} {d : Option Reg} {vs : List Word}
    (hl : th.latch = some vs) (k : State → List Word → State) : operands s th i rs d k = k s vs := by
  simp only [operands, hl]

/-- An unusable channel traps, whatever the meaning. -/
theorem operands_fault {s : State} {th : Thread} {i : Instr} {rs : List Reg} {d : Option Reg} {ti : TrapInfo} (hl : th.latch = none)
    (hf : opsFault s th (opOf i) rs d = some ti) (k : State → List Word → State) :
    operands s th i rs d k = trap s s.cur ti := by
  simp only [operands, hl, hf]

/-- An empty or full channel parks, whatever the meaning. -/
theorem operands_park {s : State} {th : Thread} {i : Instr} {rs : List Reg} {d : Option Reg} {why : Why} (hl : th.latch = none)
    (hf : opsFault s th (opOf i) rs d = none) (hb : chBlocked s s.cur th rs d = some why) (k : State → List Word → State) :
    operands s th i rs d k = park s s.cur why (some i) := by
  simp only [operands, hl, hf, hb]

/-! ### Predicates -/

/-- The meaning of an instruction whose predicate holds. -/
theorem guarded_true {s : State} {th : Thread} {p : Pred} (h : thread? s s.cur = some th) (hp : predOk (viewOf s s.cur th) p = true)
    (f : Thread → State) : guarded p s f = .next (f th) := by
  simp [guarded, onThread, h, hp]

/-- An instruction whose predicate is false only advances. -/
theorem guarded_false {s : State} {th : Thread} {p : Pred} (h : thread? s s.cur = some th) (hp : predOk (viewOf s s.cur th) p = false)
    (f : Thread → State) : guarded p s f = .next (afterInstr s s.cur (ended th (succPc th.pc) false)) := by
  simp [guarded, onThread, h, hp, advance_some h]

/-! ### Writing a scalar result -/

/-- A register of the thread's own is written and the instruction ends. -/
theorem setD_own {s : State} {th : Thread} (h : thread? s s.cur = some th) {d : Reg} (hc : chOf d = none)
    (hk : ∀ n, d ≠ .k n) (v : Word) :
    setD s d v = afterInstr s s.cur (ended (writeOwn th d v) (succPc (writeOwn th d v).pc) false) := by
  have hw : writeReg s s.cur d v = setThread s s.cur (writeOwn th d v) := by
    cases d with
    | k n => exact absurd rfl (hk n)
    | _ => exact modThread_some h _
  simp only [setD, writeD, hc, hw]
  exact advance_setThread _ _ _

/-- A k register is written for later cycles and the instruction ends. -/
theorem setD_k {s : State} {th : Thread} (h : thread? s s.cur = some th) (n : Fin 8) (v : Word) :
    setD s (.k n) v = afterInstr
      (setCore s s.cur.core { coreAt s s.cur.core with k := (coreAt s s.cur.core).k.set n (kWrite s.now (coreAt s s.cur.core).k[n] v) })
      s.cur (ended th (succPc th.pc) false) := by
  have e : writeD s s.cur (.k n) v =
      setCore s s.cur.core { coreAt s s.cur.core with k := (coreAt s s.cur.core).k.set n (kWrite s.now (coreAt s s.cur.core).k[n] v) } := rfl
  simp only [setD, e]
  refine advance_some ?_
  rw [thread?_setCore_slots (by rfl), h]

/-- A channel's queue gets the word and the instruction ends. -/
theorem setD_ch {s : State} {th : Thread} (h : thread? s s.cur = some th) {n : Fin 8} {q : ChQueue}
    (hq : chQueue s s.cur th n true = some q) (v : Word) :
    setD s (.ch n) v = afterInstr (chPush s s.cur.core th.uid q v) s.cur (ended th (succPc th.pc) false) := by
  have e : writeD s s.cur (.ch n) v = chPush s s.cur.core th.uid q v := by simp [writeD, chOf, h, hq]
  simp only [setD, e]
  exact advance_some (((sameThreads_chPush _ _ _ _ _).thread _).trans h)

/-- A channel that does not block has a queue. -/
theorem chBlocked_queue {s : State} {t : TId} {th : Thread} {rs : List Reg} {n : Fin 8}
    (h : chBlocked s t th rs (some (.ch n)) = none) : ∃ q, chQueue s t th n true = some q ∧ chFree s q ≠ 0 := by
  simp only [chBlocked] at h
  split at h
  · cases h
  · simp only [chOf, Option.bind_some] at h
    split at h
    · rename_i q hq
      exact ⟨q, hq, by intro h0; simp [h0] at h⟩
    · cases h

end Sys2Proof.Machine
end

