-- ==== Sys2Proof/Laws/PerInstr.lean ====
section
/-! SUPPORT. The laws stated per instruction: family Code says that an instruction's fields fit the form of its opcode, and
with it that unpacking gives packed fields back. -/
namespace Sys2Proof.Laws
open Sys2Proof

/-- Fields that fit the form of their opcode: no reserved bit, nothing in a field the form lacks, and MOD and the immediate
within the form's widths (R28, R29). -/
def Fits (f : Fields) : Prop :=
  f.rsv = false ∧
    match formOf f.op with
    | .r => f.e = 0 ∧ f.mod.toNat < 2 ^ 16 ∧ f.imm.toNat < 2 ^ 16
    | .i => f.b = 0 ∧ f.c = 0 ∧ f.e = 0 ∧ f.mod.toNat < 2 ^ 16
    | .m => f.c = 0 ∧ f.e = 0 ∧ f.mod.toNat < 2 ^ 16 ∧ f.imm.toNat < 2 ^ 32
    | .x => f.imm = 0

/-- The statement of family Code: the fields that the encoder gives an instruction fit the form of its opcode. -/
def Code.Statement (i : Instr) : Prop := ∀ f, toFields i = some f → Fits f

theorem b2n_lt (b : Bool) : b2n b < 2 := by cases b <;> decide

theorem cond_lt (x : Cond) : x.code < 8 := by cases x <;> decide
theorem ftype_lt (x : FType) : x.code < 7 := by cases x <;> decide
theorem rmode_lt (x : RMode) : x.code < 7 := by cases x <;> decide
theorem fcond_lt (x : FCond) : x.code < 5 := by cases x <;> decide
theorem size_lt (x : Size) : x.code < 4 := by cases x <;> decide
theorem scope_lt (x : Scope) : x.code < 6 := by cases x <;> decide
theorem ord_lt (x : Ord) : x.code < 4 := by cases x <;> decide
theorem wcond_lt (x : WCond) : x.code < 3 := by cases x <;> decide
theorem amoop_lt (x : AmoOp) : x.code < 9 := by cases x <;> decide
theorem amofop_lt (x : AmofOp) : x.code < 3 := by cases x <;> decide
theorem frkind_lt (x : FrKind) : x.code < 2 := by cases x <;> decide
theorem accrm_lt (x : AccRm) : x.code < 5 := by cases x <;> decide
theorem et_lt (x : ET) : x.code < 8 := by cases x <;> decide
theorem vcond_lt (x : VCond) : x.code < 7 := by cases x <;> decide
theorem vredop_lt (x : VRedOp) : x.code < 6 := by cases x <;> decide
theorem mmatype_lt (x : MmaType) : x.code < 4 := by cases x <;> decide
theorem acctype_lt (x : AccType) : x.code < 5 := by cases x <;> decide
theorem preset_lt (x : Preset) : x.code < 6 := by cases x <;> decide
theorem scalef_lt (x : ScaleF) : x.code < 3 := by cases x <;> decide
theorem csel_lt (x : CSel) : x.code < 4 := by cases x <;> decide
theorem tscope_lt (x : TScope) : x.code < 4 := by cases x <;> decide
theorem chkind_lt (x : ChKind) : x.code < 4 := by cases x <;> decide
theorem scr_lt (x : ScrName) : x.code < 67 := by cases x <;> decide
theorem bs_lt (b : VSrc) : b.bsBit < 3 := by cases b <;> simp [VSrc.bsBit]
theorem is_lt (b : VSrc) : b.isBit < 5 := by cases b <;> simp [VSrc.isBit]
theorem immN_lt (b : VSrc) : b.immN < 64 := by
  cases b with
  | imm n => exact n.isLt
  | _ => simp [VSrc.immN]
theorem group_lt (g : GroupArg) : g.code < 128 := by
  have := b2n_lt g.pg
  have := g.g.isLt
  simp only [GroupArg.code]
  omega
theorem mkM4_lt {opx ord scope sx size near shift : Nat} (h1 : opx < 16) (h2 : ord < 4) (h3 : scope < 8) (h4 : sx < 2)
    (h5 : size < 4) (h6 : near < 2) (h7 : shift < 8) : mkM4 opx ord scope sx size near shift < 2 ^ 16 := by
  simp only [mkM4]
  omega
theorem mkM5_lt {vm : VMod} {et aux : Nat} (h1 : et < 8) (h2 : aux < 64) : mkM5 vm et aux < 2 ^ 16 := by
  have := vm.m.isLt
  have := rmode_lt vm.rm
  have := b2n_lt vm.z
  simp only [mkM5]
  omega
theorem mmaMod_lt (o : MmaArg) : mmaMod o < 2 ^ 14 := by
  have := o.fa.isLt
  have := o.fb.isLt
  have := mmatype_lt o.ty
  have := b2n_lt o.mask.isSome
  have := b2n_lt o.la
  have := b2n_lt o.lb
  have := b2n_lt o.keepA
  have := b2n_lt o.keepB
  simp only [mmaMod]
  omega

theorem mkF_r {op mod imm : Nat} {p : Pred} {d a b c : BitVec 8} (h : formOf (BitVec.ofNat 10 op) = .r) (hm : mod < 2 ^ 16)
    (hi : imm < 2 ^ 16) : Fits (mkF op p d a b c mod imm) := by
  have h1 : mod % 2 ^ 24 < 2 ^ 16 := by omega
  have h2 : imm % 2 ^ 48 < 2 ^ 16 := by omega
  simpa [Fits, mkF, h] using And.intro h1 h2
theorem mkF_i {op mod imm : Nat} {p : Pred} {d a : BitVec 8} (h : formOf (BitVec.ofNat 10 op) = .i) (hm : mod < 2 ^ 16) :
    Fits (mkF op p d a 0 0 mod imm) := by
  have h1 : mod % 2 ^ 24 < 2 ^ 16 := by omega
  simpa [Fits, mkF, h] using h1
theorem mkF_m {op mod imm : Nat} {p : Pred} {d a b : BitVec 8} (h : formOf (BitVec.ofNat 10 op) = .m) (hm : mod < 2 ^ 16)
    (hi : imm < 2 ^ 32) : Fits (mkF op p d a b 0 mod imm) := by
  have h1 : mod % 2 ^ 24 < 2 ^ 16 := by omega
  have h2 : imm % 2 ^ 48 < 2 ^ 32 := by omega
  simpa [Fits, mkF, h] using And.intro h1 h2
theorem mkF_x {op mod : Nat} {p : Pred} {d a b c e : BitVec 8} (h : formOf (BitVec.ofNat 10 op) = .x) :
    Fits (mkF op p d a b c mod 0 e) := by
  simp [Fits, mkF, h]
theorem mkMem_fits {op opx ord scope sx size : Nat} {p : Pred} {d : BitVec 8} {m : MemArg}
    (h : formOf (BitVec.ofNat 10 op) = .m) (h1 : opx < 16) (h2 : ord < 4) (h3 : scope < 8) (h4 : sx < 2) (h5 : size < 4) :
    Fits (mkMem op p d opx ord scope sx size m) :=
  mkF_m h (mkM4_lt h1 h2 h3 h4 h5 (b2n_lt _) (by have := m.s.isLt; omega)) m.off.isLt
theorem mkAMem_fits {op opx ord scope sx size : Nat} {p : Pred} {d b : BitVec 8} {m : AMem}
    (h : formOf (BitVec.ofNat 10 op) = .m) (h1 : opx < 16) (h2 : ord < 4) (h3 : scope < 8) (h4 : sx < 2) (h5 : size < 4) :
    Fits (mkAMem op p d b opx ord scope sx size m) :=
  mkF_m h (mkM4_lt h1 h2 h3 h4 h5 (b2n_lt _) (by omega)) m.off.isLt
theorem mkVMem_fits {op : Nat} {p : Pred} {d : Reg} {m : VMem} (h : formOf (BitVec.ofNat 10 op) = .m) :
    Fits (mkVMem op p d m) := by
  have := m.m.isLt
  have := m.s.isLt
  have := b2n_lt m.z
  have := b2n_lt m.near
  exact mkF_m h (by omega) m.off.isLt

theorem Code.add (p : Pred) (d a b : Reg) : Code.Statement (.add p d a b) := by
  intro f h
  cases h
  exact mkF_r (by decide) (by decide) (by decide)
theorem Code.sub (p : Pred) (d a b : Reg) : Code.Statement (.sub p d a b) := by
  intro f h
  cases h
  exact mkF_r (by decide) (by decide) (by decide)
theorem Code.mul (p : Pred) (d a b : Reg) : Code.Statement (.mul p d a b) := by
  intro f h
  cases h
  exact mkF_r (by decide) (by decide) (by decide)
theorem Code.mulh (p : Pred) (d a b : Reg) : Code.Statement (.mulh p d a b) := by
  intro f h
  cases h
  exact mkF_r (by decide) (by decide) (by decide)
theorem Code.mulhs (p : Pred) (d a b : Reg) : Code.Statement (.mulhs p d a b) := by
  intro f h
  cases h
  exact mkF_r (by decide) (by decide) (by decide)
theorem Code.div (p : Pred) (d a b : Reg) : Code.Statement (.div p d a b) := by
  intro f h
  cases h
  exact mkF_r (by decide) (by decide) (by decide)
theorem Code.divs (p : Pred) (d a b : Reg) : Code.Statement (.divs p d a b) := by
  intro f h
  cases h
  exact mkF_r (by decide) (by decide) (by decide)
theorem Code.rem (p : Pred) (d a b : Reg) : Code.Statement (.rem p d a b) := by
  intro f h
  cases h
  exact mkF_r (by decide) (by decide) (by decide)
theorem Code.rems (p : Pred) (d a b : Reg) : Code.Statement (.rems p d a b) := by
  intro f h
  cases h
  exact mkF_r (by decide) (by decide) (by decide)
theorem Code.and (p : Pred) (d a b : Reg) : Code.Statement (.and p d a b) := by
  intro f h
  cases h
  exact mkF_r (by decide) (by decide) (by decide)
theorem Code.or (p : Pred) (d a b : Reg) : Code.Statement (.or p d a b) := by
  intro f h
  cases h
  exact mkF_r (by decide) (by decide) (by decide)
theorem Code.xor (p : Pred) (d a b : Reg) : Code.Statement (.xor p d a b) := by
  intro f h
  cases h
  exact mkF_r (by decide) (by decide) (by decide)
theorem Code.andn (p : Pred) (d a b : Reg) : Code.Statement (.andn p d a b) := by
  intro f h
  cases h
  exact mkF_r (by decide) (by decide) (by decide)
theorem Code.shl (p : Pred) (d a b : Reg) : Code.Statement (.shl p d a b) := by
  intro f h
  cases h
  exact mkF_r (by decide) (by decide) (by decide)
theorem Code.shr (p : Pred) (d a b : Reg) : Code.Statement (.shr p d a b) := by
  intro f h
  cases h
  exact mkF_r (by decide) (by decide) (by decide)
theorem Code.sra (p : Pred) (d a b : Reg) : Code.Statement (.sra p d a b) := by
  intro f h
  cases h
  exact mkF_r (by decide) (by decide) (by decide)
theorem Code.rotl (p : Pred) (d a b : Reg) : Code.Statement (.rotl p d a b) := by
  intro f h
  cases h
  exact mkF_r (by decide) (by decide) (by decide)
theorem Code.min (p : Pred) (d a b : Reg) : Code.Statement (.min p d a b) := by
  intro f h
  cases h
  exact mkF_r (by decide) (by decide) (by decide)
theorem Code.max (p : Pred) (d a b : Reg) : Code.Statement (.max p d a b) := by
  intro f h
  cases h
  exact mkF_r (by decide) (by decide) (by decide)
theorem Code.mins (p : Pred) (d a b : Reg) : Code.Statement (.mins p d a b) := by
  intro f h
  cases h
  exact mkF_r (by decide) (by decide) (by decide)
theorem Code.maxs (p : Pred) (d a b : Reg) : Code.Statement (.maxs p d a b) := by
  intro f h
  cases h
  exact mkF_r (by decide) (by decide) (by decide)
theorem Code.clz (p : Pred) (d a : Reg) : Code.Statement (.clz p d a) := by
  intro f h
  cases h
  exact mkF_r (by decide) (by decide) (by decide)
theorem Code.ctz (p : Pred) (d a : Reg) : Code.Statement (.ctz p d a) := by
  intro f h
  cases h
  exact mkF_r (by decide) (by decide) (by decide)
theorem Code.popc (p : Pred) (d a : Reg) : Code.Statement (.popc p d a) := by
  intro f h
  cases h
  exact mkF_r (by decide) (by decide) (by decide)
theorem Code.bext (p : Pred) (sx : Bool) (d a : Reg) (pos lenM1 : BitVec 6) :
    Code.Statement (.bext p sx d a pos lenM1) := by
  intro f h
  cases h
  exact mkF_r (by decide) (by have := b2n_lt sx; omega) (by have := pos.isLt; have := lenM1.isLt; omega)
theorem Code.bins (p : Pred) (d a b : Reg) (pos lenM1 : BitVec 6) : Code.Statement (.bins p d a b pos lenM1) := by
  intro f h
  cases h
  exact mkF_r (by decide) (by decide) (by have := pos.isLt; have := lenM1.isLt; omega)
theorem Code.brev (p : Pred) (d a : Reg) : Code.Statement (.brev p d a) := by
  intro f h
  cases h
  exact mkF_r (by decide) (by decide) (by decide)
theorem Code.bswap (p : Pred) (d a : Reg) : Code.Statement (.bswap p d a) := by
  intro f h
  cases h
  exact mkF_r (by decide) (by decide) (by decide)
theorem Code.sel (p : Pred) (d a b c : Reg) : Code.Statement (.sel p d a b c) := by
  intro f h
  cases h
  exact mkF_r (by decide) (by decide) (by decide)
theorem Code.cmp (p : Pred) (cc : Cond) (d a b : Reg) : Code.Statement (.cmp p cc d a b) := by
  intro f h
  cases h
  exact mkF_r (by decide) (by have := cond_lt cc; omega) (by decide)
theorem Code.pand (p : Pred) (d a b : Reg) : Code.Statement (.pand p d a b) := by
  intro f h
  cases h
  exact mkF_r (by decide) (by decide) (by decide)
theorem Code.por (p : Pred) (d a b : Reg) : Code.Statement (.por p d a b) := by
  intro f h
  cases h
  exact mkF_r (by decide) (by decide) (by decide)
theorem Code.pxor (p : Pred) (d a b : Reg) : Code.Statement (.pxor p d a b) := by
  intro f h
  cases h
  exact mkF_r (by decide) (by decide) (by decide)
theorem Code.pnot (p : Pred) (d a : Reg) : Code.Statement (.pnot p d a) := by
  intro f h
  cases h
  exact mkF_r (by decide) (by decide) (by decide)
theorem Code.mov (p : Pred) (d a : Reg) : Code.Statement (.mov p d a) := by
  intro f h
  cases h
  exact mkF_r (by decide) (by decide) (by decide)
theorem Code.lea (p : Pred) (d a b : Reg) (s : Fin 7) (off : BitVec 16) : Code.Statement (.lea p d a b s off) := by
  intro f h
  cases h
  exact mkF_r (by decide) (by have := s.isLt; omega) (by have := off.isLt; omega)
theorem Code.addi (p : Pred) (d a : Reg) (imm : BitVec 48) : Code.Statement (.addi p d a imm) := by
  intro f h
  cases h
  exact mkF_i (by decide) (by decide)
theorem Code.muli (p : Pred) (d a : Reg) (imm : BitVec 48) : Code.Statement (.muli p d a imm) := by
  intro f h
  cases h
  exact mkF_i (by decide) (by decide)
theorem Code.andi (p : Pred) (d a : Reg) (imm : BitVec 48) : Code.Statement (.andi p d a imm) := by
  intro f h
  cases h
  exact mkF_i (by decide) (by decide)
theorem Code.ori (p : Pred) (d a : Reg) (imm : BitVec 48) : Code.Statement (.ori p d a imm) := by
  intro f h
  cases h
  exact mkF_i (by decide) (by decide)
theorem Code.xori (p : Pred) (d a : Reg) (imm : BitVec 48) : Code.Statement (.xori p d a imm) := by
  intro f h
  cases h
  exact mkF_i (by decide) (by decide)
theorem Code.shli (p : Pred) (d a : Reg) (n : BitVec 6) : Code.Statement (.shli p d a n) := by
  intro f h
  cases h
  exact mkF_i (by decide) (by decide)
theorem Code.shri (p : Pred) (d a : Reg) (n : BitVec 6) : Code.Statement (.shri p d a n) := by
  intro f h
  cases h
  exact mkF_i (by decide) (by decide)
theorem Code.srai (p : Pred) (d a : Reg) (n : BitVec 6) : Code.Statement (.srai p d a n) := by
  intro f h
  cases h
  exact mkF_i (by decide) (by decide)
theorem Code.cmpi (p : Pred) (cc : Cond) (d a : Reg) (imm : BitVec 48) : Code.Statement (.cmpi p cc d a imm) := by
  intro f h
  cases h
  exact mkF_i (by decide) (by have := cond_lt cc; omega)
theorem Code.movi (p : Pred) (d : Reg) (imm : BitVec 48) : Code.Statement (.movi p d imm) := by
  intro f h
  cases h
  exact mkF_i (by decide) (by decide)
theorem Code.movhi (p : Pred) (d a : Reg) (h : BitVec 16) : Code.Statement (.movhi p d a h) := by
  intro f h
  cases h
  exact mkF_i (by decide) (by decide)
theorem Code.leai (p : Pred) (d : Reg) (imm : BitVec 48) : Code.Statement (.leai p d imm) := by
  intro f h
  cases h
  exact mkF_i (by decide) (by decide)
theorem Code.fadd (p : Pred) (ty : FType) (rm : RMode) (d a b : Reg) : Code.Statement (.fadd p ty rm d a b) := by
  intro f h
  cases h
  exact mkF_r (by decide) (by have := ftype_lt ty; have := rmode_lt rm; omega) (by decide)
theorem Code.fsub (p : Pred) (ty : FType) (rm : RMode) (d a b : Reg) : Code.Statement (.fsub p ty rm d a b) := by
  intro f h
  cases h
  exact mkF_r (by decide) (by have := ftype_lt ty; have := rmode_lt rm; omega) (by decide)
theorem Code.fmul (p : Pred) (ty : FType) (rm : RMode) (d a b : Reg) : Code.Statement (.fmul p ty rm d a b) := by
  intro f h
  cases h
  exact mkF_r (by decide) (by have := ftype_lt ty; have := rmode_lt rm; omega) (by decide)
theorem Code.fma (p : Pred) (ty : FType) (rm : RMode) (d a b c : Reg) : Code.Statement (.fma p ty rm d a b c) := by
  intro f h
  cases h
  exact mkF_r (by decide) (by have := ftype_lt ty; have := rmode_lt rm; omega) (by decide)
theorem Code.fnma (p : Pred) (ty : FType) (rm : RMode) (d a b c : Reg) : Code.Statement (.fnma p ty rm d a b c) := by
  intro f h
  cases h
  exact mkF_r (by decide) (by have := ftype_lt ty; have := rmode_lt rm; omega) (by decide)
theorem Code.fdiv (p : Pred) (ty : FType) (rm : RMode) (d a b : Reg) : Code.Statement (.fdiv p ty rm d a b) := by
  intro f h
  cases h
  exact mkF_r (by decide) (by have := ftype_lt ty; have := rmode_lt rm; omega) (by decide)
theorem Code.fsqrt (p : Pred) (ty : FType) (rm : RMode) (d a : Reg) : Code.Statement (.fsqrt p ty rm d a) := by
  intro f h
  cases h
  exact mkF_r (by decide) (by have := ftype_lt ty; have := rmode_lt rm; omega) (by decide)
theorem Code.fmin (p : Pred) (ty : FType) (d a b : Reg) : Code.Statement (.fmin p ty d a b) := by
  intro f h
  cases h
  exact mkF_r (by decide) (by have := ftype_lt ty; omega) (by decide)
theorem Code.fmax (p : Pred) (ty : FType) (d a b : Reg) : Code.Statement (.fmax p ty d a b) := by
  intro f h
  cases h
  exact mkF_r (by decide) (by have := ftype_lt ty; omega) (by decide)
theorem Code.fabs (p : Pred) (ty : FType) (d a : Reg) : Code.Statement (.fabs p ty d a) := by
  intro f h
  cases h
  exact mkF_r (by decide) (by have := ftype_lt ty; omega) (by decide)
theorem Code.fneg (p : Pred) (ty : FType) (d a : Reg) : Code.Statement (.fneg p ty d a) := by
  intro f h
  cases h
  exact mkF_r (by decide) (by have := ftype_lt ty; omega) (by decide)
theorem Code.fcmp (p : Pred) (cc : FCond) (ty : FType) (d a b : Reg) : Code.Statement (.fcmp p cc ty d a b) := by
  intro f h
  cases h
  exact mkF_r (by decide) (by have := fcond_lt cc; have := ftype_lt ty; omega) (by decide)
theorem Code.fclass (p : Pred) (ty : FType) (d a : Reg) : Code.Statement (.fclass p ty d a) := by
  intro f h
  cases h
  exact mkF_r (by decide) (by have := ftype_lt ty; omega) (by decide)
theorem Code.fcvt (p : Pred) (dst src : FType) (rm : RMode) (d a c : Reg) (t : BitVec 16) :
    Code.Statement (.fcvt p dst src rm d a c t) := by
  intro f h
  cases h
  exact mkF_r (by decide) (by have := ftype_lt dst; have := ftype_lt src; have := rmode_lt rm; omega)
    (by have := t.isLt; omega)
theorem Code.nop (p : Pred) : Code.Statement (.nop p) := by
  intro f h
  cases h
  exact mkF_i (by decide) (by decide)
theorem Code.align (p : Pred) (k : BitVec 16) : Code.Statement (.align p k) := by
  intro f h
  cases h
  exact mkF_i (by decide) (by decide)
theorem Code.br (p : Pred) (off : BitVec 48) : Code.Statement (.br p off) := by
  intro f h
  cases h
  exact mkF_i (by decide) (by decide)
theorem Code.jmp (p : Pred) (addr : BitVec 48) : Code.Statement (.jmp p addr) := by
  intro f h
  cases h
  exact mkF_i (by decide) (by decide)
theorem Code.jmpr (p : Pred) (a : Reg) (off : BitVec 16) : Code.Statement (.jmpr p a off) := by
  intro f h
  cases h
  exact mkF_r (by decide) (by decide) (by have := off.isLt; omega)
theorem Code.call (p : Pred) (off : BitVec 48) : Code.Statement (.call p off) := by
  intro f h
  cases h
  exact mkF_i (by decide) (by decide)
theorem Code.callr (p : Pred) (a : Reg) (off : BitVec 16) : Code.Statement (.callr p a off) := by
  intro f h
  cases h
  exact mkF_r (by decide) (by decide) (by have := off.isLt; omega)
theorem Code.ret (p : Pred) : Code.Statement (.ret p) := by
  intro f h
  cases h
  exact mkF_i (by decide) (by decide)
theorem Code.loop (p : Pred) (d : Reg) (off : BitVec 48) : Code.Statement (.loop p d off) := by
  intro f h
  cases h
  exact mkF_i (by decide) (by decide)
theorem Code.trap (p : Pred) (n : BitVec 16) : Code.Statement (.trap p n) := by
  intro f h
  cases h
  exact mkF_i (by decide) (by decide)
theorem Code.eret (p : Pred) (next : Bool) : Code.Statement (.eret p next) := by
  intro f h
  cases h
  exact mkF_i (by decide) (by have := b2n_lt next; omega)
theorem Code.quit (p : Pred) : Code.Statement (.quit p) := by
  intro f h
  cases h
  exact mkF_i (by decide) (by decide)
theorem Code.ld (p : Pred) (sz : Size) (sx : Bool) (d : Reg) (m : MemArg) : Code.Statement (.ld p sz sx d m) := by
  intro f h
  cases h
  exact mkMem_fits (by decide) (by decide) (by decide) (by decide) (by have := b2n_lt sx; omega)
    (by have := size_lt sz; omega)
theorem Code.st (p : Pred) (sz : Size) (d : Reg) (m : MemArg) : Code.Statement (.st p sz d m) := by
  intro f h
  cases h
  exact mkMem_fits (by decide) (by decide) (by decide) (by decide) (by decide) (by have := size_lt sz; omega)
theorem Code.lda (p : Pred) (sz : Size) (sx : Bool) (sc : Scope) (d : Reg) (m : MemArg) :
    Code.Statement (.lda p sz sx sc d m) := by
  intro f h
  cases h
  exact mkMem_fits (by decide) (by decide) (by decide) (by have := scope_lt sc; omega) (by have := b2n_lt sx; omega)
    (by have := size_lt sz; omega)
theorem Code.stl (p : Pred) (sz : Size) (sc : Scope) (d : Reg) (m : MemArg) : Code.Statement (.stl p sz sc d m) := by
  intro f h
  cases h
  exact mkMem_fits (by decide) (by decide) (by decide) (by have := scope_lt sc; omega) (by decide)
    (by have := size_lt sz; omega)
theorem Code.ldfe (p : Pred) (sc : Scope) (d : Reg) (m : MemArg) : Code.Statement (.ldfe p sc d m) := by
  intro f h
  cases h
  exact mkMem_fits (by decide) (by decide) (by decide) (by have := scope_lt sc; omega) (by decide) (by decide)
theorem Code.ldff (p : Pred) (sc : Scope) (d : Reg) (m : MemArg) : Code.Statement (.ldff p sc d m) := by
  intro f h
  cases h
  exact mkMem_fits (by decide) (by decide) (by decide) (by have := scope_lt sc; omega) (by decide) (by decide)
theorem Code.stfe (p : Pred) (sc : Scope) (d : Reg) (m : MemArg) : Code.Statement (.stfe p sc d m) := by
  intro f h
  cases h
  exact mkMem_fits (by decide) (by decide) (by decide) (by have := scope_lt sc; omega) (by decide) (by decide)
theorem Code.stff (p : Pred) (sc : Scope) (d : Reg) (m : MemArg) : Code.Statement (.stff p sc d m) := by
  intro f h
  cases h
  exact mkMem_fits (by decide) (by decide) (by decide) (by have := scope_lt sc; omega) (by decide) (by decide)
theorem Code.feset (p : Pred) (m : MemArg) : Code.Statement (.feset p m) := by
  intro f h
  cases h
  exact mkMem_fits (by decide) (by decide) (by decide) (by decide) (by decide) (by decide)
theorem Code.feclr (p : Pred) (m : MemArg) : Code.Statement (.feclr p m) := by
  intro f h
  cases h
  exact mkMem_fits (by decide) (by decide) (by decide) (by decide) (by decide) (by decide)
theorem Code.fence (p : Pred) (o : Ord) (sc : Scope) : Code.Statement (.fence p o sc) := by
  intro f h
  cases h
  exact mkF_m (by decide) (mkM4_lt (by decide) (by have := ord_lt o; omega) (by have := scope_lt sc; omega)
    (by decide) (by decide) (by decide) (by decide)) (by decide)
theorem Code.waita (p : Pred) (cc : WCond) (sz : Size) (sc : Scope) (m : AMem) (b : Reg) :
    Code.Statement (.waita p cc sz sc m b) := by
  intro f h
  cases h
  exact mkAMem_fits (by decide) (by have := wcond_lt cc; omega) (by decide) (by have := scope_lt sc; omega)
    (by decide) (by have := size_lt sz; omega)
theorem Code.wait (p : Pred) (l s c t : BitVec 6) : Code.Statement (.wait p l s c t) := by
  intro f h
  cases h
  exact mkF_m (by decide) (by decide) (by have := l.isLt; have := s.isLt; have := c.isLt; have := t.isLt; omega)
theorem Code.amo (p : Pred) (op : AmoOp) (sz : Size) (sx : Bool) (o : Ord) (sc : Scope) (d : Reg) (m : AMem) (b : Reg) :
    Code.Statement (.amo p op sz sx o sc d m b) := by
  intro f h
  cases h
  exact mkAMem_fits (by decide) (by have := amoop_lt op; omega) (by have := ord_lt o; omega)
    (by have := scope_lt sc; omega) (by have := b2n_lt sx; omega) (by have := size_lt sz; omega)
theorem Code.cas (p : Pred) (sz : Size) (sx : Bool) (o : Ord) (sc : Scope) (d : Reg) (m : AMem) (b : Reg) :
    Code.Statement (.cas p sz sx o sc d m b) := by
  intro f h
  cases h
  exact mkAMem_fits (by decide) (by decide) (by have := ord_lt o; omega) (by have := scope_lt sc; omega)
    (by have := b2n_lt sx; omega) (by have := size_lt sz; omega)
theorem Code.amof (p : Pred) (op : AmofOp) (o : Ord) (sc : Scope) (d : Reg) (m : AMem) (b : Reg) :
    Code.Statement (.amof p op o sc d m b) := by
  intro f h
  cases h
  exact mkAMem_fits (by decide) (by have := amofop_lt op; omega) (by have := ord_lt o; omega)
    (by have := scope_lt sc; omega) (by decide) (by decide)
theorem Code.fraddM (p : Pred) (kind : FrKind) (o : Ord) (sc : Scope) (d : Reg) (m : AMem) (b : Reg) :
    Code.Statement (.fraddM p kind o sc d m b) := by
  intro f h
  cases h
  exact mkAMem_fits (by decide) (by have := frkind_lt kind; omega) (by have := ord_lt o; omega)
    (by have := scope_lt sc; omega) (by decide) (by decide)
theorem Code.frrdM (p : Pred) (rm : AccRm) (clr : Bool) (o : Ord) (sc : Scope) (d : Reg) (m : AMem) :
    Code.Statement (.frrdM p rm clr o sc d m) := by
  intro f h
  cases h
  exact mkAMem_fits (by decide) (by have := accrm_lt rm; have := b2n_lt clr; omega) (by have := ord_lt o; omega)
    (by have := scope_lt sc; omega) (by decide) (by decide)
theorem Code.arrive (p : Pred) (d : Reg) (g : GroupArg) : Code.Statement (.arrive p d g) := by
  intro f h
  cases h
  exact mkF_m (by decide) (by decide) (by have := group_lt g; omega)
theorem Code.bwait (p : Pred) (g : GroupArg) (a : Reg) : Code.Statement (.bwait p g a) := by
  intro f h
  cases h
  exact mkF_m (by decide) (by decide) (by have := group_lt g; omega)
theorem Code.bar (p : Pred) (d : Reg) (g : GroupArg) : Code.Statement (.bar p d g) := by
  intro f h
  cases h
  exact mkF_m (by decide) (by decide) (by have := group_lt g; omega)
theorem Code.bgrpJoin (p : Pred) (g : GroupArg) : Code.Statement (.bgrpJoin p g) := by
  intro f h
  cases h
  exact mkF_m (by decide) (by decide) (by have := group_lt g; omega)
theorem Code.bgrpLeave (p : Pred) (g : GroupArg) : Code.Statement (.bgrpLeave p g) := by
  intro f h
  cases h
  exact mkF_m (by decide) (by decide) (by have := group_lt g; omega)
theorem Code.chbind (p : Pred) (kind : ChKind) (d : Reg) (target : BitVec 5) :
    Code.Statement (.chbind p kind d target) := by
  intro f h
  cases h
  exact mkF_m (by decide) (by have := chkind_lt kind; omega) (by have := target.isLt; omega)
theorem Code.chstat (p : Pred) (d a : Reg) : Code.Statement (.chstat p d a) := by
  intro f h
  cases h
  exact mkF_m (by decide) (by decide) (by decide)
theorem Code.cflush (p : Pred) (inv : Bool) (m : MemArg) : Code.Statement (.cflush p inv m) := by
  intro f h
  cases h
  exact mkMem_fits (by decide) (by have := b2n_lt inv; omega) (by decide) (by decide) (by decide) (by decide)
theorem Code.vadd (p : Pred) (et : ET) (sat : Bool) (vm : VMod) (d a : Reg) (b : VSrc) :
    Code.Statement (.vadd p et sat vm d a b) := by
  intro f h
  cases h
  exact mkF_r (by decide) (mkM5_lt (by have := et_lt et; omega) (by have := b2n_lt sat; have := bs_lt b; omega))
    (by decide)
theorem Code.vsub (p : Pred) (et : ET) (sat : Bool) (vm : VMod) (d a : Reg) (b : VSrc) :
    Code.Statement (.vsub p et sat vm d a b) := by
  intro f h
  cases h
  exact mkF_r (by decide) (mkM5_lt (by have := et_lt et; omega) (by have := b2n_lt sat; have := bs_lt b; omega))
    (by decide)
theorem Code.vmul (p : Pred) (et : ET) (sat : Bool) (vm : VMod) (d a : Reg) (b : VSrc) :
    Code.Statement (.vmul p et sat vm d a b) := by
  intro f h
  cases h
  exact mkF_r (by decide) (mkM5_lt (by have := et_lt et; omega) (by have := b2n_lt sat; have := bs_lt b; omega))
    (by decide)
theorem Code.vfma (p : Pred) (et : ET) (vm : VMod) (d a : Reg) (b : VSrc) (c : Reg) :
    Code.Statement (.vfma p et vm d a b c) := by
  intro f h
  cases h
  exact mkF_r (by decide) (mkM5_lt (by have := et_lt et; omega) (by have := bs_lt b; omega)) (by decide)
theorem Code.vmin (p : Pred) (et : ET) (vm : VMod) (d a : Reg) (b : VSrc) : Code.Statement (.vmin p et vm d a b) := by
  intro f h
  cases h
  exact mkF_r (by decide) (mkM5_lt (by have := et_lt et; omega) (by have := bs_lt b; omega)) (by decide)
theorem Code.vmax (p : Pred) (et : ET) (vm : VMod) (d a : Reg) (b : VSrc) : Code.Statement (.vmax p et vm d a b) := by
  intro f h
  cases h
  exact mkF_r (by decide) (mkM5_lt (by have := et_lt et; omega) (by have := bs_lt b; omega)) (by decide)
theorem Code.vabs (p : Pred) (et : ET) (sat : Bool) (vm : VMod) (d a : Reg) :
    Code.Statement (.vabs p et sat vm d a) := by
  intro f h
  cases h
  exact mkF_r (by decide) (mkM5_lt (by have := et_lt et; omega) (by have := b2n_lt sat; omega)) (by decide)
theorem Code.vneg (p : Pred) (et : ET) (sat : Bool) (vm : VMod) (d a : Reg) :
    Code.Statement (.vneg p et sat vm d a) := by
  intro f h
  cases h
  exact mkF_r (by decide) (mkM5_lt (by have := et_lt et; omega) (by have := b2n_lt sat; omega)) (by decide)
theorem Code.vand (p : Pred) (et : ET) (vm : VMod) (d a : Reg) (b : VSrc) : Code.Statement (.vand p et vm d a b) := by
  intro f h
  cases h
  exact mkF_r (by decide) (mkM5_lt (by have := et_lt et; omega) (by have := bs_lt b; omega)) (by decide)
theorem Code.vor (p : Pred) (et : ET) (vm : VMod) (d a : Reg) (b : VSrc) : Code.Statement (.vor p et vm d a b) := by
  intro f h
  cases h
  exact mkF_r (by decide) (mkM5_lt (by have := et_lt et; omega) (by have := bs_lt b; omega)) (by decide)
theorem Code.vxor (p : Pred) (et : ET) (vm : VMod) (d a : Reg) (b : VSrc) : Code.Statement (.vxor p et vm d a b) := by
  intro f h
  cases h
  exact mkF_r (by decide) (mkM5_lt (by have := et_lt et; omega) (by have := bs_lt b; omega)) (by decide)
theorem Code.vshl (p : Pred) (et : ET) (vm : VMod) (d a : Reg) (b : VSrc) : Code.Statement (.vshl p et vm d a b) := by
  intro f h
  cases h
  exact mkF_r (by decide) (mkM5_lt (by have := et_lt et; omega) (by have := is_lt b; omega))
    (by have := immN_lt b; omega)
theorem Code.vshr (p : Pred) (et : ET) (vm : VMod) (d a : Reg) (b : VSrc) : Code.Statement (.vshr p et vm d a b) := by
  intro f h
  cases h
  exact mkF_r (by decide) (mkM5_lt (by have := et_lt et; omega) (by have := is_lt b; omega))
    (by have := immN_lt b; omega)
theorem Code.vsra (p : Pred) (et : ET) (vm : VMod) (d a : Reg) (b : VSrc) : Code.Statement (.vsra p et vm d a b) := by
  intro f h
  cases h
  exact mkF_r (by decide) (mkM5_lt (by have := et_lt et; omega) (by have := is_lt b; omega))
    (by have := immN_lt b; omega)
theorem Code.vcmp (p : Pred) (cc : VCond) (et : ET) (vm : VMod) (d a : Reg) (b : VSrc) :
    Code.Statement (.vcmp p cc et vm d a b) := by
  intro f h
  cases h
  exact mkF_r (by decide) (mkM5_lt (by have := et_lt et; omega) (by have := vcond_lt cc; have := bs_lt b; omega))
    (by decide)
theorem Code.vsel (p : Pred) (et : ET) (vm : VMod) (d a b c : Reg) : Code.Statement (.vsel p et vm d a b c) := by
  intro f h
  cases h
  exact mkF_r (by decide) (mkM5_lt (by have := et_lt et; omega) (by decide)) (by decide)
theorem Code.vcvt (p : Pred) (dst src : ET) (vm : VMod) (d a : Reg) (part : BitVec 2) :
    Code.Statement (.vcvt p dst src vm d a part) := by
  intro f h
  cases h
  exact mkF_r (by decide) (mkM5_lt (by have := et_lt dst; omega) (by have := et_lt src; omega))
    (by have := part.isLt; omega)
theorem Code.vred (p : Pred) (op : VRedOp) (et : ET) (sat : Bool) (vm : VMod) (d a : Reg) :
    Code.Statement (.vred p op et sat vm d a) := by
  intro f h
  cases h
  exact mkF_r (by decide) (mkM5_lt (by have := et_lt et; omega)
    (by have := vredop_lt op; have := b2n_lt sat; omega)) (by decide)
theorem Code.vshuf (p : Pred) (mode : ShufMode) (et : ET) (vm : VMod) (d a : Reg) :
    Code.Statement (.vshuf p mode et vm d a) := by
  intro f h
  cases mode <;> cases h
  · exact mkF_r (by decide) (mkM5_lt (et_lt et) (by decide)) (by decide)
  · rename_i r
    exact mkF_r (by decide) (mkM5_lt (et_lt et) (by decide)) (by have := r.isLt; omega)
  · rename_i x
    exact mkF_r (by decide) (mkM5_lt (et_lt et) (by decide)) (by have := x.isLt; omega)
theorem Code.vbcast (p : Pred) (et : ET) (vm : VMod) (d a : Reg) : Code.Statement (.vbcast p et vm d a) := by
  intro f h
  cases h
  exact mkF_r (by decide) (mkM5_lt (by have := et_lt et; omega) (by decide)) (by decide)
theorem Code.vins (p : Pred) (et : ET) (d a : Reg) (n : BitVec 16) : Code.Statement (.vins p et d a n) := by
  intro f h
  cases h
  exact mkF_r (by decide) (by have := et_lt et; omega) (by have := n.isLt; omega)
theorem Code.vext (p : Pred) (et : ET) (d a : Reg) (n : BitVec 16) : Code.Statement (.vext p et d a n) := by
  intro f h
  cases h
  exact mkF_r (by decide) (by have := et_lt et; omega) (by have := n.isLt; omega)
theorem Code.vld (p : Pred) (d : Reg) (m : VMem) : Code.Statement (.vld p d m) := by
  intro f h
  cases h
  exact mkVMem_fits (by decide)
theorem Code.vst (p : Pred) (d : Reg) (m : VMem) : Code.Statement (.vst p d m) := by
  intro f h
  cases h
  exact mkVMem_fits (by decide)
theorem Code.vldg (p : Pred) (d : Reg) (m : VMem) : Code.Statement (.vldg p d m) := by
  intro f h
  cases h
  exact mkVMem_fits (by decide)
theorem Code.vsts (p : Pred) (d : Reg) (m : VMem) : Code.Statement (.vsts p d m) := by
  intro f h
  cases h
  exact mkVMem_fits (by decide)
theorem Code.vrcp (p : Pred) (et : ET) (vm : VMod) (d a : Reg) : Code.Statement (.vrcp p et vm d a) := by
  intro f h
  cases h
  exact mkF_r (by decide) (mkM5_lt (by have := et_lt et; omega) (by decide)) (by decide)
theorem Code.vrsq (p : Pred) (et : ET) (vm : VMod) (d a : Reg) : Code.Statement (.vrsq p et vm d a) := by
  intro f h
  cases h
  exact mkF_r (by decide) (mkM5_lt (by have := et_lt et; omega) (by decide)) (by decide)
theorem Code.vexp2 (p : Pred) (et : ET) (vm : VMod) (d a : Reg) : Code.Statement (.vexp2 p et vm d a) := by
  intro f h
  cases h
  exact mkF_r (by decide) (mkM5_lt (by have := et_lt et; omega) (by decide)) (by decide)
theorem Code.vlog2 (p : Pred) (et : ET) (vm : VMod) (d a : Reg) : Code.Statement (.vlog2 p et vm d a) := by
  intro f h
  cases h
  exact mkF_r (by decide) (mkM5_lt (by have := et_lt et; omega) (by decide)) (by decide)
theorem Code.vrng (p : Pred) (vm : VMod) (d a : Reg) : Code.Statement (.vrng p vm d a) := by
  intro f h
  cases h
  exact mkF_r (by decide) (mkM5_lt (by decide) (by decide)) (by decide)
theorem Code.vsr (p : Pred) (et : ET) (vm : VMod) (d a b : Reg) (h : Bool) : Code.Statement (.vsr p et vm d a b h) := by
  intro f h
  cases h
  exact mkF_r (by decide) (mkM5_lt (by have := et_lt et; omega) (by decide)) (by have := b2n_lt h; omega)
theorem Code.vquant (p : Pred) (n : Fin 8) (vm : VMod) (d a b c : Reg) : Code.Statement (.vquant p n vm d a b c) := by
  intro f h
  cases h
  exact mkF_r (by decide) (mkM5_lt (by decide) (by have := n.isLt; omega)) (by decide)
theorem Code.vdeq (p : Pred) (n : Fin 8) (vm : VMod) (d a : Reg) (h : Bool) : Code.Statement (.vdeq p n vm d a h) := by
  intro f h
  cases h
  exact mkF_r (by decide) (mkM5_lt (by decide) (by have := n.isLt; omega)) (by have := b2n_lt h; omega)
theorem Code.vdrop (p : Pred) (et : ET) (vm : VMod) (d a b c : Reg) (q : BitVec 16) :
    Code.Statement (.vdrop p et vm d a b c q) := by
  intro f h
  cases h
  exact mkF_r (by decide) (mkM5_lt (by have := et_lt et; omega) (by decide)) (by have := q.isLt; omega)
theorem Code.mma (p : Pred) (o : MmaArg) : Code.Statement (.mma p o) := by
  intro f h
  cases h
  exact mkF_x (by decide)
theorem Code.mmag (p : Pred) (o : MmaArg) (e : Reg) : Code.Statement (.mmag p o e) := by
  intro f h
  cases h
  exact mkF_x (by decide)
theorem Code.accz (p : Pred) (d : Reg) (floor : BitVec 16) : Code.Statement (.accz p d floor) := by
  intro f h
  cases h
  exact mkF_x (by decide)
theorem Code.accst (p : Pred) (ty : AccType) (rm : AccRm) (fr : Fin 8) (a b : Reg) (mask : Option Reg) :
    Code.Statement (.accst p ty rm fr a b mask) := by
  intro f h
  cases h
  exact mkF_x (by decide)
theorem Code.accld (p : Pred) (ty : AccType) (d a : Reg) (mask : Option Reg) :
    Code.Statement (.accld p ty d a mask) := by
  intro f h
  cases h
  exact mkF_x (by decide)
theorem Code.accmv (p : Pred) (d a : Reg) : Code.Statement (.accmv p d a) := by
  intro f h
  cases h
  exact mkF_x (by decide)
theorem Code.accadd (p : Pred) (d a : Reg) : Code.Statement (.accadd p d a) := by
  intro f h
  cases h
  exact mkF_x (by decide)
theorem Code.latch (p : Pred) (ty : MmaType) (sideB l1 : Bool) (f : Fin 8) (a : Reg) (mask : Option Reg) :
    Code.Statement (.latch p ty sideB l1 f a mask) := by
  intro f h
  cases h
  exact mkF_x (by decide)
theorem Code.fmtsetReg (p : Pred) (d a : Reg) : Code.Statement (.fmtsetReg p d a) := by
  intro f h
  cases h
  exact mkF_x (by decide)
theorem Code.fmtsetPreset (p : Pred) (d : Reg) (pre : Preset) (sc : ScaleF) (sat : Bool) :
    Code.Statement (.fmtsetPreset p d pre sc sat) := by
  intro f h
  cases h
  exact mkF_x (by decide)
theorem Code.fmtget (p : Pred) (d a : Reg) : Code.Statement (.fmtget p d a) := by
  intro f h
  cases h
  exact mkF_x (by decide)
theorem Code.frsend (p : Pred) (a b : Reg) (tag : BitVec 8) (mask : Option Reg) :
    Code.Statement (.frsend p a b tag mask) := by
  intro f h
  cases h
  exact mkF_x (by decide)
theorem Code.frwait (p : Pred) (d a : Reg) : Code.Statement (.frwait p d a) := by
  intro f h
  cases h
  exact mkF_x (by decide)
theorem Code.cpy (p : Pred) (near sh : Bool) (d a : Reg) (b c : Option Reg) :
    Code.Statement (.cpy p near sh d a b c) := by
  intro f h
  cases h
  exact mkF_x (by decide)
theorem Code.ctest (p : Pred) (sel : CSel) (d a : Reg) : Code.Statement (.ctest p sel d a) := by
  intro f h
  cases h
  exact mkF_x (by decide)
theorem Code.cwait (p : Pred) (d a : Reg) : Code.Statement (.cwait p d a) := by
  intro f h
  cases h
  exact mkF_x (by decide)
theorem Code.ccancel (p : Pred) (d a : Reg) : Code.Statement (.ccancel p d a) := by
  intro f h
  cases h
  exact mkF_x (by decide)
theorem Code.publish (p : Pred) (a b : Reg) : Code.Statement (.publish p a b) := by
  intro f h
  cases h
  exact mkF_x (by decide)
theorem Code.publishG (p : Pred) (a b c : Reg) : Code.Statement (.publishG p a b c) := by
  intro f h
  cases h
  exact mkF_x (by decide)
theorem Code.bankcfg (p : Pred) (a : Reg) : Code.Statement (.bankcfg p a) := by
  intro f h
  cases h
  exact mkF_x (by decide)
theorem Code.spawn (p : Pred) (pin : Bool) (d a b c : Reg) : Code.Statement (.spawn p pin d a b c) := by
  intro f h
  cases h
  exact mkF_x (by decide)
theorem Code.spawnat (p : Pred) (d a b c e : Reg) : Code.Statement (.spawnat p d a b c e) := by
  intro f h
  cases h
  exact mkF_x (by decide)
theorem Code.join (p : Pred) (a : Reg) : Code.Statement (.join p a) := by
  intro f h
  cases h
  exact mkF_x (by decide)
theorem Code.yieldTok (p : Pred) (ck : BitVec 16) (d a : Reg) : Code.Statement (.yieldTok p ck d a) := by
  intro f h
  cases h
  exact mkF_x (by decide)
theorem Code.yieldWord (p : Pred) (cc : WCond) (near : Bool) (ck : BitVec 16) (a b : Reg) :
    Code.Statement (.yieldWord p cc near ck a b) := by
  intro f h
  cases h
  exact mkF_x (by decide)
theorem Code.yoke (p : Pred) (d : Reg) : Code.Statement (.yoke p d) := by
  intro f h
  cases h
  exact mkF_x (by decide)
theorem Code.unyoke (p : Pred) : Code.Statement (.unyoke p) := by
  intro f h
  cases h
  exact mkF_x (by decide)
theorem Code.xmovFrom (p : Pred) (d a : Reg) : Code.Statement (.xmovFrom p d a) := by
  intro f h
  cases h
  exact mkF_x (by decide)
theorem Code.xmovTo (p : Pred) (d a : Reg) : Code.Statement (.xmovTo p d a) := by
  intro f h
  cases h
  exact mkF_x (by decide)
theorem Code.migrate (p : Pred) (d a : Reg) : Code.Statement (.migrate p d a) := by
  intro f h
  cases h
  exact mkF_x (by decide)
theorem Code.startCtx (p : Pred) (d a b : Reg) : Code.Statement (.startCtx p d a b) := by
  intro f h
  cases h
  exact mkF_x (by decide)
theorem Code.startFrame (p : Pred) (d a b : Reg) : Code.Statement (.startFrame p d a b) := by
  intro f h
  cases h
  exact mkF_x (by decide)
theorem Code.reap (p : Pred) (d a : Reg) : Code.Statement (.reap p d a) := by
  intro f h
  cases h
  exact mkF_x (by decide)
theorem Code.chkpt (p : Pred) (n : BitVec 16) : Code.Statement (.chkpt p n) := by
  intro f h
  cases h
  exact mkF_i (by decide) (by decide)
theorem Code.srd (p : Pred) (d : Reg) (r : ScrName) : Code.Statement (.srd p d r) := by
  intro f h
  cases h
  exact mkF_i (by decide) (by have := scr_lt r; omega)
theorem Code.swr (p : Pred) (r : ScrName) (a : Reg) : Code.Statement (.swr p r a) := by
  intro f h
  cases h
  exact mkF_i (by decide) (by have := scr_lt r; omega)
theorem Code.tlbinv (p : Pred) (sc : TScope) (a b : Reg) : Code.Statement (.tlbinv p sc a b) := by
  intro f h
  cases h
  exact mkF_x (by decide)
theorem Code.tlbinvAll (p : Pred) (sc : TScope) : Code.Statement (.tlbinvAll p sc) := by
  intro f h
  cases h
  exact mkF_x (by decide)
theorem Code.wspill (p : Pred) (near : Bool) : Code.Statement (.wspill p near) := by
  intro f h
  cases h
  exact mkF_x (by decide)
theorem Code.wfill (p : Pred) (near : Bool) : Code.Statement (.wfill p near) := by
  intro f h
  cases h
  exact mkF_x (by decide)
theorem Code.nred (p : Pred) (a b : Reg) (tag : BitVec 8) (mask : Option Reg) :
    Code.Statement (.nred p a b tag mask) := by
  intro f h
  cases h
  exact mkF_x (by decide)
theorem Code.digestN (p : Pred) (d a b : Reg) : Code.Statement (.digestN p d a b) := by
  intro f h
  cases h
  exact mkF_x (by decide)
theorem Code.digestT (p : Pred) (d b : Reg) : Code.Statement (.digestT p d b) := by
  intro f h
  cases h
  exact mkF_x (by decide)
theorem Code.dgchk (p : Pred) (a b : Reg) (tag : BitVec 8) : Code.Statement (.dgchk p a b tag) := by
  intro f h
  cases h
  exact mkF_x (by decide)
theorem Code.selftest (p : Pred) (d a : Reg) : Code.Statement (.selftest p d a) := by
  intro f h
  cases h
  exact mkF_x (by decide)
theorem Code.lineFetchArrival (t : TId) (va : Word) : Code.Statement (.lineFetchArrival t va) := fun _ h => nomatch h
theorem Code.threadWake (t : TId) : Code.Statement (.threadWake t) := fun _ h => nomatch h
theorem Code.nearLoadLand (t : TId) (id : Nat) : Code.Statement (.nearLoadLand t id) := fun _ h => nomatch h
theorem Code.nearStoreAck (t : TId) (id : Nat) : Code.Statement (.nearStoreAck t id) := fun _ h => nomatch h
theorem Code.homeWaiterServe (h : HomeId) : Code.Statement (.homeWaiterServe h) := fun _ h => nomatch h
theorem Code.waiterTableResend (q : MemReq) : Code.Statement (.waiterTableResend q) := fun _ h => nomatch h
theorem Code.walkComplete (t : TId) : Code.Statement (.walkComplete t) := fun _ h => nomatch h
theorem Code.engineEntryDone (core : Nat) (id : Nat) : Code.Statement (.engineEntryDone core id) := fun _ h => nomatch h
theorem Code.frsendInject (core : Nat) (id : Nat) : Code.Statement (.frsendInject core id) := fun _ h => nomatch h
theorem Code.frsendComplete (core : Nat) (id : Nat) : Code.Statement (.frsendComplete core id) := fun _ h => nomatch h
theorem Code.copyRecordArrival (cluster : Nat) (token : Nat) :
    Code.Statement (.copyRecordArrival cluster token) := fun _ h => nomatch h
theorem Code.copyBeatWrite (cluster : Nat) (token : Nat) (beat : Nat) :
    Code.Statement (.copyBeatWrite cluster token beat) := fun _ h => nomatch h
theorem Code.copyComplete (cluster : Nat) (token : Nat) :
    Code.Statement (.copyComplete cluster token) := fun _ h => nomatch h
theorem Code.copyFault (cluster : Nat) (token : Nat) : Code.Statement (.copyFault cluster token) := fun _ h => nomatch h
theorem Code.frameReady (core : Nat) (f : Frame) : Code.Statement (.frameReady core f) := fun _ h => nomatch h
theorem Code.spillComplete (core : Nat) : Code.Statement (.spillComplete core) := fun _ h => nomatch h
theorem Code.dequeRefill (core : Nat) : Code.Statement (.dequeRefill core) := fun _ h => nomatch h
theorem Code.joinDecrement (t : TId) (addr : Word) (launch : BitVec 16) (op : Nat) :
    Code.Statement (.joinDecrement t addr launch op) := fun _ h => nomatch h
theorem Code.latchToDeque (core : Nat) : Code.Statement (.latchToDeque core) := fun _ h => nomatch h
theorem Code.loadForward (core : Nat) (id : Nat) : Code.Statement (.loadForward core id) := fun _ h => nomatch h
theorem Code.barrierArrivalRecord (uid : Nat) (pg : Bool) (die : Nat) (g : Nat) (phase : BitVec 32) :
    Code.Statement (.barrierArrivalRecord uid pg die g phase) := fun _ h => nomatch h
theorem Code.barrierComplete (pg : Bool) (die : Nat) (g : Nat) :
    Code.Statement (.barrierComplete pg die g) := fun _ h => nomatch h
theorem Code.watchSweep (h : HomeId) (pg : Bool) (die : Nat) (g : Nat) (m : BitVec 32) :
    Code.Statement (.watchSweep h pg die g m) := fun _ h => nomatch h
theorem Code.watchSweepDone (h : HomeId) (pg : Bool) (die : Nat) (g : Nat) (m : BitVec 32) :
    Code.Statement (.watchSweepDone h pg die g m) := fun _ h => nomatch h
theorem Code.bankcfgStart (cluster : Nat) (bank : Nat) :
    Code.Statement (.bankcfgStart cluster bank) := fun _ h => nomatch h
theorem Code.bankcfgComplete (cluster : Nat) (bank : Nat) :
    Code.Statement (.bankcfgComplete cluster bank) := fun _ h => nomatch h
theorem Code.publishSwap (t : TId) : Code.Statement (.publishSwap t) := fun _ h => nomatch h
theorem Code.publishPoint (t : TId) : Code.Statement (.publishPoint t) := fun _ h => nomatch h
theorem Code.loadRequest (q : MemReq) : Code.Statement (.loadRequest q) := fun _ h => nomatch h
theorem Code.storeRequest (q : MemReq) : Code.Statement (.storeRequest q) := fun _ h => nomatch h
theorem Code.atomicRequest (q : MemReq) : Code.Statement (.atomicRequest q) := fun _ h => nomatch h
theorem Code.fullEmptyRequest (q : MemReq) : Code.Statement (.fullEmptyRequest q) := fun _ h => nomatch h
theorem Code.waitaRequest (q : MemReq) : Code.Statement (.waitaRequest q) := fun _ h => nomatch h
theorem Code.withdrawal (q : MemReq) : Code.Statement (.withdrawal q) := fun _ h => nomatch h
theorem Code.furrowMessage (m : FurrowMsg) : Code.Statement (.furrowMessage m) := fun _ h => nomatch h
theorem Code.frameMessage (f : Frame) (dest : Nat) (src : TId) (tag : Nat) :
    Code.Statement (.frameMessage f dest src tag) := fun _ h => nomatch h
theorem Code.probeMessage (thief : Nat) (victim : Nat) (mask : BitVec 64) :
    Code.Statement (.probeMessage thief victim mask) := fun _ h => nomatch h
theorem Code.reply (t : TId) (tag : Nat) (r : ReplyData) : Code.Statement (.reply t tag r) := fun _ h => nomatch h
theorem Code.acknowledgement (t : TId) (tag : Nat) (fault : Option TrapInfo) :
    Code.Statement (.acknowledgement t tag fault) := fun _ h => nomatch h
theorem Code.translationRequest (incoming : Bool) (pkg : Nat) (cluster : Nat) (frame : Nat) (t : TId) :
    Code.Statement (.translationRequest incoming pkg cluster frame t) := fun _ h => nomatch h
theorem Code.translationReply (cluster : Nat) (pkg : Nat) (frame : Nat) (entry : Word) (t : TId) :
    Code.Statement (.translationReply cluster pkg frame entry t) := fun _ h => nomatch h
theorem Code.invalidation (pkg : Nat) (cluster : Nat) (first : Nat) (count : Nat) :
    Code.Statement (.invalidation pkg cluster first count) := fun _ h => nomatch h
theorem Code.invalidationAck (pkg : Nat) (cluster : Nat) (first : Nat) (count : Nat) (release : Bool) :
    Code.Statement (.invalidationAck pkg cluster first count release) := fun _ h => nomatch h
theorem Code.nredMessage (m : NredMsg) : Code.Statement (.nredMessage m) := fun _ h => nomatch h
theorem Code.digestMessage (group : Nat) (round : BitVec 20) (member : Nat) (digest : Word) (count : Nat) :
    Code.Statement (.digestMessage group round member digest count) := fun _ h => nomatch h
theorem Code.barrierMessage (pg : Bool) (die : Nat) (g : Nat) (uid : Nat) (phase : BitVec 32) :
    Code.Statement (.barrierMessage pg die g uid phase) := fun _ h => nomatch h
theorem Code.contextMessage (uid : Nat) (src : TId) (target : Nat) :
    Code.Statement (.contextMessage uid src target) := fun _ h => nomatch h
theorem Code.refusal (q : MemReq) : Code.Statement (.refusal q) := fun _ h => nomatch h
theorem Code.refusalResend (q : MemReq) : Code.Statement (.refusalResend q) := fun _ h => nomatch h
theorem Code.requestTimeout (t : TId) (tag : Nat) : Code.Statement (.requestTimeout t tag) := fun _ h => nomatch h
theorem Code.claimLatchStart (core : Nat) : Code.Statement (.claimLatchStart core) := fun _ h => nomatch h
theorem Code.emptyAnswer (thief : Nat) (victim : Nat) :
    Code.Statement (.emptyAnswer thief victim) := fun _ h => nomatch h
theorem Code.notificationWrite (q : Nat) : Code.Statement (.notificationWrite q) := fun _ h => nomatch h
theorem Code.launchRecord (rid : Nat) : Code.Statement (.launchRecord rid) := fun _ h => nomatch h
theorem Code.launchNearImage (lid : Nat) (cluster : Nat) :
    Code.Statement (.launchNearImage lid cluster) := fun _ h => nomatch h
theorem Code.doneWord (lid : Nat) : Code.Statement (.doneWord lid) := fun _ h => nomatch h
theorem Code.bootVerify (sigOk : Bool) : Code.Statement (.bootVerify sigOk) := fun _ h => nomatch h
theorem Code.selfTestVerdict (u : UnitKind) (die cluster index : Nat) (syndrome : Word) :
    Code.Statement (.selfTestVerdict u die cluster index syndrome) := fun _ h => nomatch h
theorem Code.queueDisabled (q : Nat) : Code.Statement (.queueDisabled q) := fun _ h => nomatch h
theorem Code.threadSave (t : TId) : Code.Statement (.threadSave t) := fun _ h => nomatch h
theorem Code.slotPop (core : Nat) (slot : Nat) : Code.Statement (.slotPop core slot) := fun _ h => nomatch h
theorem Code.replayDivergenceDeadline (core : Nat) (launch : BitVec 16) :
    Code.Statement (.replayDivergenceDeadline core launch) := fun _ h => nomatch h
theorem Code.launchThreadsDone (lid : Nat) : Code.Statement (.launchThreadsDone lid) := fun _ h => nomatch h
theorem Code.signal (rid : Nat) : Code.Statement (.signal rid) := fun _ h => nomatch h
theorem Code.forfeitEnd (t : TId) : Code.Statement (.forfeitEnd t) := fun _ h => nomatch h
theorem Code.alignTimeout (t : TId) : Code.Statement (.alignTimeout t) := fun _ h => nomatch h
theorem Code.waitLimit (t : TId) : Code.Statement (.waitLimit t) := fun _ h => nomatch h
theorem Code.engineEntryStart (core : Nat) : Code.Statement (.engineEntryStart core) := fun _ h => nomatch h
theorem Code.copyEngineTake (cluster : Nat) (engine : Nat) :
    Code.Statement (.copyEngineTake cluster engine) := fun _ h => nomatch h
theorem Code.spillStart (core : Nat) : Code.Statement (.spillStart core) := fun _ h => nomatch h
theorem Code.stealProbe (core : Nat) : Code.Statement (.stealProbe core) := fun _ h => nomatch h
theorem Code.balancingStep : Code.Statement .balancingStep := fun _ h => nomatch h
theorem Code.saveDeadline (t : TId) : Code.Statement (.saveDeadline t) := fun _ h => nomatch h
theorem Code.threadRestore (queue : Nat) (uid : Nat) (t : TId) :
    Code.Statement (.threadRestore queue uid t) := fun _ h => nomatch h
theorem Code.flitRoute (reply : Bool) (router : Nat) : Code.Statement (.flitRoute reply router) := fun _ h => nomatch h
theorem Code.starvationStart (router : Nat) : Code.Statement (.starvationStart router) := fun _ h => nomatch h
theorem Code.starvationEnd : Code.Statement .starvationEnd := fun _ h => nomatch h
theorem Code.flitCrcRetry (id : Nat) : Code.Statement (.flitCrcRetry id) := fun _ h => nomatch h
theorem Code.linkFrame (port : Nat) (tagOk : Bool) (flits : List Nat) :
    Code.Statement (.linkFrame port tagOk flits) := fun _ h => nomatch h
theorem Code.hbmChannelAccess (ch : Nat) : Code.Statement (.hbmChannelAccess ch) := fun _ h => nomatch h
theorem Code.dieBridgeTransfer (src : Nat) (dst : Nat) :
    Code.Statement (.dieBridgeTransfer src dst) := fun _ h => nomatch h
theorem Code.hostLinkTransfer : Code.Statement .hostLinkTransfer := fun _ h => nomatch h
theorem Code.hostCxlMemAccess (write : Bool) (addr : Nat) (data : List Byte) :
    Code.Statement (.hostCxlMemAccess write addr data) := fun _ h => nomatch h
theorem Code.hostSnoop (line : Nat) : Code.Statement (.hostSnoop line) := fun _ h => nomatch h
theorem Code.doorbell (q : Nat) (v : Word) : Code.Statement (.doorbell q v) := fun _ h => nomatch h
theorem Code.queueEnable (q : Nat) : Code.Statement (.queueEnable q) := fun _ h => nomatch h
theorem Code.queueDisable (q : Nat) : Code.Statement (.queueDisable q) := fun _ h => nomatch h
theorem Code.queueResume (q : Nat) : Code.Statement (.queueResume q) := fun _ h => nomatch h
theorem Code.registerWrite (q : Nat) (r : HostReg) (v : Word) :
    Code.Statement (.registerWrite q r v) := fun _ h => nomatch h
theorem Code.takeRecord (q : Nat) : Code.Statement (.takeRecord q) := fun _ h => nomatch h
theorem Code.headlandRecord (q : Nat) : Code.Statement (.headlandRecord q) := fun _ h => nomatch h
theorem Code.launchBankMap (lid : Nat) (cluster : Nat) :
    Code.Statement (.launchBankMap lid cluster) := fun _ h => nomatch h
theorem Code.launchPreload (lid : Nat) (cluster : Nat) :
    Code.Statement (.launchPreload lid cluster) := fun _ h => nomatch h
theorem Code.launchCoreStart (lid : Nat) (core : Nat) :
    Code.Statement (.launchCoreStart lid core) := fun _ h => nomatch h
theorem Code.launchWriteback (lid : Nat) (cluster : Nat) :
    Code.Statement (.launchWriteback lid cluster) := fun _ h => nomatch h
theorem Code.waitrec (rid : Nat) : Code.Statement (.waitrec rid) := fun _ h => nomatch h
theorem Code.cond (rid : Nat) : Code.Statement (.cond rid) := fun _ h => nomatch h
theorem Code.fenceRecord (rid : Nat) : Code.Statement (.fenceRecord rid) := fun _ h => nomatch h
theorem Code.preemptSaveSlots (rid : Nat) : Code.Statement (.preemptSaveSlots rid) := fun _ h => nomatch h
theorem Code.preemptSaveLaunch (rid : Nat) : Code.Statement (.preemptSaveLaunch rid) := fun _ h => nomatch h
theorem Code.preemptRelease (rid : Nat) : Code.Statement (.preemptRelease rid) := fun _ h => nomatch h
theorem Code.preemptDispose (rid : Nat) : Code.Statement (.preemptDispose rid) := fun _ h => nomatch h
theorem Code.fwBegin (len : Nat) : Code.Statement (.fwBegin len) := fun _ h => nomatch h
theorem Code.fwData (off : Nat) (data : List Byte) : Code.Statement (.fwData off data) := fun _ h => nomatch h
theorem Code.fwCommit : Code.Statement .fwCommit := fun _ h => nomatch h
theorem Code.logSet (addr : Word) : Code.Statement (.logSet addr) := fun _ h => nomatch h
theorem Code.keyInstall (keyId : BitVec 16) (key : BitVec 256) (inSession : Bool) :
    Code.Statement (.keyInstall keyId key inSession) := fun _ h => nomatch h
theorem Code.linkKey (port : Nat) (tx : Bool) (key : BitVec 256) :
    Code.Statement (.linkKey port tx key) := fun _ h => nomatch h
theorem Code.groupUpdate (addr : Word) : Code.Statement (.groupUpdate addr) := fun _ h => nomatch h
theorem Code.exportSet (addr : Word) : Code.Statement (.exportSet addr) := fun _ h => nomatch h
theorem Code.agentInval (first : Nat) (count : Nat) : Code.Statement (.agentInval first count) := fun _ h => nomatch h
theorem Code.getVersion : Code.Statement .getVersion := fun _ h => nomatch h
theorem Code.getCapabilities : Code.Statement .getCapabilities := fun _ h => nomatch h
theorem Code.negotiateAlgorithms : Code.Statement .negotiateAlgorithms := fun _ h => nomatch h
theorem Code.getDigests : Code.Statement .getDigests := fun _ h => nomatch h
theorem Code.getCertificate : Code.Statement .getCertificate := fun _ h => nomatch h
theorem Code.challenge : Code.Statement .challenge := fun _ h => nomatch h
theorem Code.getMeasurements (signed : Bool) : Code.Statement (.getMeasurements signed) := fun _ h => nomatch h
theorem Code.keyExchange : Code.Statement .keyExchange := fun _ h => nomatch h
theorem Code.finish : Code.Statement .finish := fun _ h => nomatch h
theorem Code.endSession : Code.Statement .endSession := fun _ h => nomatch h
theorem Code.bootMeasure : Code.Statement .bootMeasure := fun _ h => nomatch h
theorem Code.bootTrain : Code.Statement .bootTrain := fun _ h => nomatch h
theorem Code.bootCounter : Code.Statement .bootCounter := fun _ h => nomatch h
theorem Code.bootCertify : Code.Statement .bootCertify := fun _ h => nomatch h
theorem Code.deviceReset : Code.Statement .deviceReset := fun _ h => nomatch h
theorem Code.thermalThrottle (temp : BitVec 8) : Code.Statement (.thermalThrottle temp) := fun _ h => nomatch h
theorem Code.thermalRecover (temp : BitVec 8) : Code.Statement (.thermalRecover temp) := fun _ h => nomatch h
theorem Code.thermalShutdown (temp : BitVec 8) : Code.Statement (.thermalShutdown temp) := fun _ h => nomatch h
theorem Code.selfTestStart (u : UnitKind) (die cluster index : Nat) (syndrome : Word) :
    Code.Statement (.selfTestStart u die cluster index syndrome) := fun _ h => nomatch h

end Sys2Proof.Laws
end

