-- ==== Sys2Proof/Tests/Slice0.lean ====
section
/-! SUPPORT. The model's own tests: words written out from the spec's encodings, an ill-formed term for each check of
well-formedness, and for the statements with hypotheses a state and operands that meet them. -/
namespace Sys2Proof.Tests
set_option Elab.async false
open Sys2Proof Sys2Proof.Machine Sys2Proof.Says

/-! ### Small states -/

/-- A thread with a handler, at position 0 of line 0x1000. -/
def thr : Thread := { threadReset with uid := 1, pc := 0x1004, checked := false, scr := { scrReset with tvec := 0x2004 } }
/-- The thread in slot 8 of core 0 at cycle 100, alone on the package. -/
def onCore (k : Core) (th : Thread) : State :=
  { State.reset with now := 100, cur := ⟨0, 8⟩, nextUid := 9, nextId := 9, cores := [(0, { k with slots := [(8, { slotReset with occ := .busy th })] })] }
def alone (th : Thread) : State := onCore coreReset th
/-- The same in slot 0. -/
def stewardOf (th : Thread) : State :=
  { State.reset with now := 100, cur := ⟨0, 0⟩, nextUid := 9, nextId := 9, cores := [(0, { coreReset with slots := [(0, { slotReset with occ := .busy th })] })] }
/-- A register set. -/
def g12 (a b : Word) (th : Thread) : Thread := { th with g := (th.g.set 1 a).set 2 b }
/-- A line of one word. -/
def oneLine (w : IWord) : LineEnt := ⟨0, 0x1000, sealLine 1 0 [w, 0x180 <<< 86, 0x180 <<< 86, 0x180 <<< 86, 0x180 <<< 86], 50⟩
def always : Pred := ⟨0, false⟩

theorem wit_turn : AtTurn (alone thr) thr always := ⟨rfl, rfl, rfl, rfl, rfl, rfl, rfl⟩
theorem wit_canTrap : CanTrap thr := ⟨rfl, by decide⟩

/-! ### Classes 0 to 3 -/

theorem wit_IntegerResults : intRow (.add always (.g 3) (.g 1) (.g 2)) = some (always, [.g 1, .g 2], .g 3, fun _ x y _ => x + y) ∧
    AtTurn (alone thr) thr always ∧ CanUse (alone thr) thr (.add always (.g 3) (.g 1) (.g 2)) [.g 1, .g 2] (some (.g 3)) :=
  ⟨rfl, wit_turn, rfl, rfl⟩
/-- A scalar that comes from a neighbour channel with a word in it. -/
def chThread : Thread := { thr with ch := thr.ch.set 2 ⟨.slot, 3⟩ }
theorem wit_DivisionRule : AtTurn (alone (g12 7 0 { thr with scr := { thr.scr with fctl := 0x200 } })) (g12 7 0 { thr with scr := { thr.scr with fctl := 0x200 } }) always ∧
    (g12 7 0 { thr with scr := { thr.scr with fctl := 0x200 } }).scr.fctl.getLsbD 9 = true ∧
    val (alone (g12 7 0 thr)) (g12 7 0 thr) [.g 1, .g 2] 1 = 0 ∧ CanUse (alone thr) thr (.div always (.g 3) (.g 1) (.g 2)) [.g 1, .g 2] (some (.g 3)) :=
  ⟨⟨rfl, rfl, rfl, rfl, rfl, rfl, rfl⟩, rfl, rfl, rfl, rfl⟩
theorem wit_DivisionRule_divides : divRow (.rems always (.g 3) (.g 1) (.g 2)) ≠ none ∧
    ¬ (val (alone (g12 (-7) 2 thr)) (g12 (-7) 2 thr) [.g 1, .g 2] 1 = 0) := ⟨by decide, by decide⟩
theorem wit_BitCountRule : (1 : Word) ≠ 0 ∧ (1 : Word).getLsbD 63 = false := ⟨by decide, by decide⟩
theorem wit_CompareConditions : cmpRow (.cmpi always .tst (.p 1) (.g 1) 3) = some (always, .tst, .p 1, [.g 1], fun _ => (3 : BitVec 48).signExtend 64) ∧
    CanUse (alone (g12 2 0 thr)) (g12 2 0 thr) (.cmpi always .tst (.p 1) (.g 1) 3) [.g 1] (some (.p 1)) ∧
    condHolds .tst (val (alone (g12 2 0 thr)) (g12 2 0 thr) [.g 1] 0) 3 ∧ ¬ condHolds .tst (val (alone (g12 4 0 thr)) (g12 4 0 thr) [.g 1] 0) 3 :=
  ⟨rfl, ⟨rfl, rfl⟩, by unfold condHolds; decide, by unfold condHolds; decide⟩
theorem wit_CompareConditions_illegal : (mkF 0x01D always 0x99 1 2 0 8 0).op = 0x01D ∧ (mkF 0x01D always 0x99 1 2 0 8 0).rsv = false ∧
    8 ≤ (mkF 0x01D always 0x99 1 2 0 8 0).mod.toNat ∧ (Reg.p 1).isP = true ∧ (Reg.g 1).scalarR = true ∧ always.ok = true := by decide
theorem wit_BitFields : CanUse (alone thr) thr (.bins always (.g 3) (.g 1) (.g 2) 60 7) [.g 1, .g 2] (some (.g 3)) ∧
    2 ^ 12 ≤ (mkF 0x018 always 3 1 0 0 0 0x1000).imm.toNat ∧ (Reg.g 3).scalarW = true := ⟨⟨rfl, rfl⟩, by decide, by decide⟩
/-- FP32 1.0 and a signalling NaN; the invalid exception is enabled in the second thread. -/
def trapsInvalid (th : Thread) : Thread := { th with scr := { th.scr with fctl := 0x80 } }
theorem wit_FpResults : fpRow (.fadd always .f32 .rne (.g 3) (.g 1) (.g 2)) ≠ none ∧ (Instr.fadd always .f32 .rne (.g 3) (.g 1) (.g 2)).wf = true ∧
    CanUse (alone (g12 0x3F800000 0x3F800000 thr)) (g12 0x3F800000 0x3F800000 thr) (.fadd always .f32 .rne (.g 3) (.g 1) (.g 2)) [.g 1, .g 2] (some (.g 3)) ∧
    enabled thr fNV = 0 ∧ enabled (trapsInvalid thr) fNV ≠ 0 := ⟨nofun, rfl, ⟨rfl, rfl⟩, by decide, by decide⟩
theorem wit_NansAndFormats : fmtF32 ∈ scalarFmts ∧ (0x7FC00000 : Nat) < 2 ^ fmtWidth fmtF32 ∧ isNan (valueOf fmtF32 0x7FC00000) = true := by decide +kernel
theorem wit_CompareAndClassify : fmtF16 ∈ scalarFmts ∧ isNan (valueOf fmtF16 0x7E00) = true ∧ isNan (valueOf fmtF16 0x3C00) = false ∧
    ltVal (valueOf fmtF16 0x3C00) (valueOf fmtF16 0x4000) = true ∧ isZero (valueOf fmtF16 0x8000) = true ∧ signOf (valueOf fmtF16 0x8000) = true ∧
    isZero (valueOf fmtF16 0) = true ∧ signOf (valueOf fmtF16 0) = false := by decide +kernel
/-- ADD g3, g1, g2 under p1, which is 0. -/
def addP1 : Instr := .add ⟨1, false⟩ (.g 3) (.g 1) (.g 2)
def addLine : LineEnt := oneLine ((0x4 <<< 80 : IWord) ||| 0x00000C040800000000000000)
theorem wit_PredicateFalse : toFields addP1 = some (mkF 0 ⟨1, false⟩ 3 1 2 0 0 0) ∧ thread? (alone thr) (alone thr).cur = some thr ∧
    predOk (viewOf (alone thr) (alone thr).cur thr) (predOf (mkF 0 ⟨1, false⟩ 3 1 2 0 0 0).pr) = false ∧ forSteward addP1 = false ∧
    (rowOf (mkF 0 ⟨0, true⟩ 3 1 2 0 0 0)).isSome = true ∧ (mkF 0 ⟨0, true⟩ 3 1 2 0 0 0).pr = 8 := ⟨rfl, rfl, rfl, rfl, rfl, rfl⟩
theorem wit_PredicateFalse_line : linePos thr.pc = some 0 ∧ threadLine (onCore { coreReset with lines := [addLine] } thr) ⟨0, 8⟩ thr = some addLine ∧
    unitAt addLine.data 0 = [0] ∧ predOk thr (predicate addP1) = false ∧ decode (lineInstr addLine.data 0) = .ok addP1 :=
  ⟨by decide +kernel, by decide +kernel, by decide +kernel, by decide +kernel, by rw [show lineInstr addLine.data 0 = 0x00040C040800000000000000 by decide +kernel]; rfl⟩
theorem wit_OperandValues : NoChannel [.g 1, .w 2, .ident 8] := by unfold NoChannel; decide
/-- A slot channel with one word in its queue, and one with none. -/
def slotBound (ws : List ChWord) : Core := { coreReset with slotQ := [(8 * 8 + 2, ws)] }
theorem wit_OperandValues_channel : thread? (onCore (slotBound [⟨0, [], 42⟩]) chThread) ⟨0, 8⟩ = some chThread ∧
    chQueue (onCore (slotBound [⟨0, [], 42⟩]) chThread) ⟨0, 8⟩ chThread 2 false = some (.slot 0 66) ∧
    chWords (onCore (slotBound [⟨0, [], 42⟩]) chThread) (.slot 0 66) = [⟨0, [], 42⟩] := by decide +kernel
theorem wit_ChannelWaitRule : intRow (.mov always (.g 1) (.ch 2)) ≠ none ∧ (Reg.ch 2) ∈ [Reg.ch 2] ∧ thr.ch[2].kind = .none ∧
    NoChannel ([Reg.ch 2].takeWhile (· ≠ .ch 2)) ∧ NoChannel [.g 1] ∧
    opsFault (alone chThread) chThread (opOf (.mov always (.g 1) (.ch 2))) [.ch 2] (some (.g 1)) = none ∧ readyWords (alone chThread) (.slot 0 66) = [] :=
  ⟨nofun, by decide, by decide, by unfold NoChannel; decide, by unfold NoChannel; decide, rfl, rfl⟩
theorem wit_ChannelWaitRule_full : chQueue (onCore { coreReset with slotQ := [(26, List.replicate 4 ⟨0, [], 0⟩)] } chThread) ⟨0, 8⟩ chThread 2 true = some (.slot 0 26) ∧
    (chWords (onCore { coreReset with slotQ := [(26, List.replicate 4 ⟨0, [], 0⟩)] } chThread) (.slot 0 26)).length = chCap (.slot 0 26) := by decide +kernel
theorem wit_Jumps : jumpRow thr.pc (.br always 12) = some (always, 0x1010) ∧ CanUse (alone thr) thr (.jmpr always (.g 1) 0) [.g 1] none := ⟨rfl, rfl, rfl⟩
theorem wit_LoopRule : CanUse (alone (g12 1 0 thr)) (g12 1 0 thr) (.loop always (.g 1) (-12)) [.g 1] (some (.g 1)) ∧
    val (alone (g12 1 0 thr)) (g12 1 0 thr) [.g 1] 0 - 1 = 0 ∧ val (alone thr) thr [.g 1] 0 - 1 ≠ 0 ∧
    (toFields (.br ⟨1, false⟩ 12)).isSome = true ∧ predOk thr ⟨1, false⟩ = false := ⟨⟨rfl, rfl⟩, by decide, by decide, rfl, rfl⟩
/-- LOOP g1 at the thread's pc, with g1 not present. -/
def loopLine : LineEnt := oneLine (wordI 0x188 0 1 0 0xFFFFFFFFFFF4 0)
theorem wit_LoopRule_presence : ∃ i, decode (lineInstr loopLine.data 0) = .ok i ∧ opOf i / 128 = 3 ∧ unitAt loopLine.data 0 = [0] ∧
    missing { thr with absent := [.g 1] } i ≠ [] := ⟨.loop always (.g 1) (-12), by rw [show lineInstr loopLine.data 0 = wordI 0x188 0 1 0 0xFFFFFFFFFFF4 0 by decide +kernel]; rfl, by decide, by decide +kernel, by decide⟩
theorem wit_Calls : CanTrap { thr with lower := List.replicate 5 (Vector.replicate 32 0) } ∧ CanTrap { thr with depth := 65535 } ∧
    CanUse (alone thr) thr (.callr always (.g 1) 0) [.g 1] none := ⟨⟨rfl, by decide⟩, ⟨rfl, by decide⟩, ⟨rfl, rfl⟩⟩
theorem wit_Calls_slide : SlideFree thr ∧ ¬ SlideFree { thr with absent := [.w (freshLo thr)] } :=
  ⟨fun _ h => by simp [thr, threadReset] at h, fun h => h (freshLo thr) (by decide) (by decide)⟩
theorem wit_Returns : CanTrap thr ∧ thr.depth = 0 ∧ ({ thr with depth := 1, lower := [Vector.replicate 32 0] } : Thread).depth ≠ 0 := ⟨wit_canTrap, rfl, by decide⟩
theorem wit_SoftwareTrap : AtTurn (alone thr) thr always ∧ CanTrap thr ∧ ¬ CanTrap { thr with scr := scrReset } := ⟨wit_turn, wit_canTrap, by simp [CanTrap, scrReset]⟩
theorem wit_TrapEntry : thread? (alone thr) ⟨0, 8⟩ = some thr ∧ thr.pops = [] ∧ forSteward (.reap always (.g 1) (.g 2)) = true ∧ (alone thr).cur.slot ≠ 0 := ⟨rfl, rfl, rfl, by decide⟩
theorem wit_TrapReturn : thr.fetchFault = none ∧ findLn (coreAt (onCore { coreReset with lines := [addLine] } thr) 0) 0 (lineVa 0x1004) = some addLine ∧
    lineParityBad addLine.data = false ∧ malformed addLine.data = none := by decide +kernel

/-! ### Class 4: memory -/

/-- A bank in scratch mode, and cluster 0 with bank 0 in this mode. -/
def inMode (m : BankMode) : Bank := { bankReset with mode := m }
def withBank (m : BankMode) (s : State) : State := { s with clusters := [(0, { clusterReset with banks := clusterReset.banks.set 0 (inMode m) })] }
def nearArg : MemArg := ⟨true, .g 1, .g 0, 0, 0x20⟩
def farArg : MemArg := ⟨false, .g 1, .g 0, 0, 0x20⟩
/-- LD.64.NEAR g3 and its access. -/
def ldNear : Instr := .ld always .b64 false (.g 3) nearArg
def ldAcc : Access := ⟨always, [.g 1, .g 0], true, 8, MemArg.at nearArg, fun _ _ _ => .load 8, some (.g 3), false, .ld, false, false, .thr, 20, true⟩
theorem wit_AddressTraps : anyRow ldNear = some ldAcc ∧ ldNear.wf = true ∧ CanTrap thr ∧
    ¬ (addr (alone (g12 1 0 thr)) (g12 1 0 thr) ldAcc).toNat % ldAcc.align = 0 ∧
    (addr (alone (g12 0x3FFFE0 0 thr)) (g12 0x3FFFE0 0 thr) ldAcc).toNat = 2 ^ 22 := ⟨rfl, rfl, wit_canTrap, by decide, by decide⟩
theorem wit_NearAccesses : NearOk (withBank .scratch (alone thr)) ldAcc (addr (alone thr) thr ldAcc) (request (alone thr) thr ldNear ldAcc (nearAt (alone thr) 0x20)) ∧
    Unheld (withBank .scratch (alone thr)) thr ldAcc (nearAt (alone thr) 0x20) ∧ AtTurn (withBank .scratch (alone thr)) thr always :=
  ⟨⟨rfl, by decide, by decide +kernel, by decide +kernel, by decide +kernel⟩, ⟨rfl, nofun⟩, ⟨rfl, rfl, rfl, rfl, rfl, rfl, rfl⟩⟩
/-- LDFE.NEAR g3 and its access. -/
def ldfeNear : Instr := .ldfe always .cl (.g 3) nearArg
theorem wit_NearParkRule : (parkRow ldfeNear).isSome = true ∧ ldfeNear.wf = true ∧
    nearFault (clusterAt (withBank .scratch (alone thr)) 0) 0x20 (nearKindOf { request (alone thr) thr ldNear ldAcc (nearAt (alone thr) 0x20) with op := .ldfe }) = none := ⟨rfl, rfl, by decide +kernel⟩
/-- Core 0's TLB maps page 0 of root 0 to HBM at 0x100000: readable and writable, with the MS bit as given. -/
def tlbCore (ms : Bool) : Core := { coreReset with tlb := [⟨0, 0, 16, if ms then 0x100017 else 0x100007, 0, 0⟩] }
def stFar : Instr := .st always .b64 (.g 2) farArg
def stAcc : Access := ⟨always, [.g 1, .g 0, .g 2], false, 8, MemArg.at farArg, fun _ _ v => .store 8 v, none, false, .st, false, false, .thr, 20, true⟩
def farSt (ms : Bool) : State := onCore (tlbCore ms) thr
theorem wit_FarAccesses : anyRow stFar = some stAcc ∧ AtTurn (farSt true) thr always ∧
    FarOk (farSt true) thr stFar stAcc (.hbm 0x100020) 0x100017 0 ∧ Unheld (farSt true) thr stAcc (.hbm 0x100020) :=
  ⟨rfl, ⟨rfl, rfl, rfl, rfl, rfl, rfl, rfl⟩, ⟨rfl, by decide, by decide +kernel, nofun, fun _ => by decide +kernel, by decide, nofun, nofun⟩, ⟨rfl, nofun⟩⟩
/-- What goes to a peer leaves by an open port with no key. -/
theorem wit_FarAccesses_peer : portOpen (alone thr) (extPort (alone thr) 0 2) = true ∧ (linkAt (alone thr) (extPort (alone thr) 0 2 * 2 + 1)).key = none := by decide +kernel
/-- A home operation, and an access that parks, with the line in the cache. -/
def amoFar : Instr := .amo always .add .b64 false .rlx .sys (.g 3) ⟨false, .g 1, 0x20⟩ (.g 2)
def amoAcc : Access := ⟨always, [.g 1, .g 2], false, 8, fun a _ => AMem.at ⟨false, .g 1, 0x20⟩ a, fun _ v _ => .amo .add 8 v, some (.g 3), false, .ld, false, false, .sys, 24, false⟩
def cachedLine : CacheLine := ⟨.hbm 0x100000, 0, 5, 1, 7⟩
def withLine (s : State) : State := { s with clusters := [(0, { clusterReset with cache := [cachedLine] })] }
theorem wit_FarAccesses_line : anyRow amoFar = some amoAcc ∧ FarOk (withLine (farSt false)) thr amoFar amoAcc (.hbm 0x100020) 0x100007 0 ∧
    findLine (clusterAt (withLine (farSt false)) 0) (.hbm 0x100020) = some cachedLine ∧ posts amoFar = false ∧ posts stFar = true :=
  ⟨rfl, ⟨rfl, by decide, by decide +kernel, nofun, nofun, by decide, nofun, nofun⟩, by decide +kernel, rfl, rfl⟩
theorem wit_CachedAccesses : usesCache stFar stAcc = true ∧ xlate (withLine (farSt false)) 0 (ask (withLine (farSt false)) thr stFar stAcc) = .ok (.hbm 0x100020) 0x100007 0 ∧
    cached (withLine (farSt false)) 0 (.hbm 0x100020) false = true ∧ entAp (0x100007 : Word) ≠ 1 ∧
    findLine (clusterAt (withLine (farSt false)) 0) (.hbm 0x100020) = some cachedLine ∧ usesCache (.ld always .b8 false (.g 3) farArg) ldAcc = true ∧
    (bankAt (clusterAt (withLine (farSt false)) 0) cachedLine.way).held = none :=
  ⟨rfl, by decide +kernel, by decide +kernel, by decide, by decide +kernel, rfl, by decide +kernel⟩

/-! ### Homes -/

/-- A far request of core 0's slot 8 to a place, and a near one. -/
def req (op : HomeOp) (pl : Place) : MemReq :=
  { src := ⟨0, 8⟩, uid := 1, opc := 0x201, op := op, dest := .reg (.g 3) 3 false, va := 0x20, place := pl, lanes := [], acq := false, scope := .thr
    data := false, wt := false, near := false, parked := true, tag := 0, opId := 0, total := 100, entry := 0, level := 0 }
def reqPeer : MemReq := req (.load 8) (.peer 2 0x40)
/-- The request stands at port `p` of bank 0 of cluster 0. -/
def atPort (p : Nat) (q : MemReq) (s : State) : State := modCluster s 0 (fun cl => { cl with ports := [⟨0, p, some 90, 86, .req q⟩] })
theorem wit_HomeService : TakenUp (alone thr) reqPeer (exec (reqEvent reqPeer) (alone thr)) ∧ OnePlace (alone thr) reqPeer ∧ Fresh (alone thr) reqPeer ∧
    (homeDone (alone thr) reqPeer).isSome = true :=
  ⟨⟨rfl, rfl⟩, ⟨⟨rfl, by decide, by decide +kernel, rfl, .inl rfl, nofun⟩, fun h => absurd h.2 (by decide +kernel)⟩, ⟨by decide +kernel, by
    rw [show unitEnt (alone thr) (homeOf (alone thr) reqPeer.place) reqPeer.src = none by decide +kernel]; decide +kernel⟩, by decide +kernel⟩
/-- The oldest request of HBM channel 0 of die 0, in the last cycle of a group of 32 that serves one. -/
def reqHbm : MemReq := req (.amo .add 8 1) (.hbm 0)
def atChannel : State := { alone thr with now := 56, channels := [⟨hbmUnit 0, .req reqHbm, 50⟩] }
theorem wit_HomeService_hbm : TakenUp atChannel reqHbm (exec (.hbmChannelAccess (hbmUnit 0)) atChannel) := ⟨rfl, rfl, by decide, 50, by decide +kernel⟩
/-- A read of an HBM line with an uncorrectable error. -/
theorem wit_HomeService_error : Admitted { atChannel with hbmErr := [0] } reqHbm ∧ ReadsError { atChannel with hbmErr := [0] } reqHbm :=
  ⟨⟨rfl, by decide, by decide +kernel, rfl, .inl rfl, nofun⟩, ⟨rfl, by decide +kernel⟩⟩
/-- A cell whose reserved bits are not zero. -/
def badCell : State := { alone thr with host := (List.range 32).map (fun j => (j, 0xFF)) }
def reqFradd : MemReq := req (.fradd .i64 3 false) (.host 0)
theorem wit_HomeService_fault : TakenUp badCell reqFradd (exec (reqEvent reqFradd) badCell) ∧ OnePlace badCell reqFradd ∧
    ∃ ti, homeDone badCell reqFradd = some (.error ti) :=
  ⟨⟨rfl, rfl⟩, ⟨⟨rfl, by decide, by decide +kernel, rfl, .inl rfl, nofun⟩, fun h => absurd h.2 (by decide +kernel)⟩, _, by simp only [homeDone, reqFradd, req]; rw [show parseCell (placeRead badCell (.host 0) 32) = none by decide +kernel]⟩
/-- A far LDFE of an empty word of a scratchpad bank waits, and one of a full word is served. -/
def reqLdfe : MemReq := req .ldfe (.near 0 0x20)
def ldfeAt : State := atPort 18 reqLdfe (withBank .scratch (alone thr))
theorem wit_HomeService_waits : (∃ o, TakenUp ldfeAt reqLdfe o) ∧ OnePlace ldfeAt reqLdfe ∧ homeDone ldfeAt reqLdfe = none :=
  ⟨⟨_, rfl, ⟨0, 18, some 90, 86, .req reqLdfe⟩, by decide +kernel, rfl, rfl⟩,
   ⟨⟨rfl, by decide, by decide +kernel, rfl, .inl rfl, fun _ => rfl⟩, fun h => absurd h.2 (by decide +kernel)⟩, by decide +kernel⟩
/-- The unit has executed the request. -/
def seenState : State := { alone thr with units := [⟨homeOf (alone thr) (.peer 2 0x40), ⟨0, 8⟩, some (false, 0, ⟨7, 0, none, false, []⟩), 0, [], 3⟩] }
theorem wit_HomeService_again : (unitEnt seenState (homeOf seenState (.peer 2 0x40)) ⟨0, 8⟩).bind (fun u => seenReply u reqPeer) = some ⟨7, 0, none, false, []⟩ ∧
    reqPeer.parked = true ∧ waitersOf seenState (homeOf seenState (.peer 2 0x40)) = [] := ⟨by decide +kernel, rfl, by decide +kernel⟩
/-- A bank that a BANKCFG holds until cycle 200. -/
def heldBank : State := { alone thr with clusters := [(0, { clusterReset with banks := clusterReset.banks.set 0 { inMode .scratch with held := some 200 } })] }
theorem wit_QueueRule : hbmDie 0 < 8 ∧ (∀ n ∈ [25, 31], 25 ≤ n % 32) ∧ reqHbm.src.core < 2048 ∧
    ({ atChannel with channels := [⟨hbmUnit 0, .host 0 [1], 50⟩] } : State).channels.find? (fun y => y.ch = hbmUnit 0) = some ⟨hbmUnit 0, .host 0 [1], 50⟩ := by decide +kernel
/-- Two ports have a request for bank 0 in cycle 100, whose pointer stands at port 0; the bank while a BANKCFG holds it. -/
def twoPorts : State := modCluster ldfeAt 0 (fun cl => { cl with ports := ⟨0, 3, some 90, 86, .req reqLdfe⟩ :: cl.ports })
theorem wit_PortRule : liveBank (clusterAt ldfeAt 0) 0 = some 0 ∧ bankNext twoPorts 0 0 = some ⟨0, 3, some 90, 86, .req reqLdfe⟩ ∧
    portHead twoPorts 0 0 18 ≠ none ∧ bankNext (modCluster twoPorts 0 (fun cl => { cl with banks := (clusterAt heldBank 0).banks })) 0 0 = none := by decide +kernel
/-- A near LDFE that stands at its bank, its thread parked for it. -/
def reqNear : MemReq := { reqLdfe with near := true, total := 16, opId := 5 }
def waitsNear (full : Bool) : State :=
  { alone { thr with park := some ⟨.homeWait reqNear, none, 90⟩ } with
    clusters := [(0, { clusterReset with banks := clusterReset.banks.set 0 (inMode .scratch), full := if full then [4] else [] })] }
theorem wit_NearService : (∃ o, AtBank (atPort 0 reqNear (waitsNear true)) reqNear o) ∧ awaits (waitsNear true) reqNear = true ∧ awaits (alone thr) reqNear = false ∧
    homeDone (waitsNear true) reqNear = some (.ok { full := some false, value := 0 }) ∧ homeDone (waitsNear false) reqNear = none ∧ isFe reqNear.op = true :=
  ⟨⟨_, rfl, ⟨⟨rfl, by decide, by decide +kernel, rfl, .inl rfl, fun _ => rfl⟩, fun h => absurd h.2 (by decide +kernel)⟩, 0, 0x20, rfl,
    ⟨0, 0, some 90, 86, .req reqNear⟩, by decide +kernel, rfl, rfl⟩, by decide +kernel, by decide +kernel, rfl, rfl, rfl⟩
/-- A near load that does not park. -/
def reqLd : MemReq := { reqNear with op := .load 4, parked := false }
def nearData : PendLoad := ⟨.reg (.g 3) 3 true, 0xFFFFFFFF, 0, none⟩
def nearOp : Op := ⟨5, 1, ⟨0, 8⟩, 0, .ld, some nearData, none, some reqLd, 0, 100⟩
theorem wit_NearService_load : (∃ o, AtBank { atPort 0 reqLd (waitsNear true) with ops := [nearOp] } reqLd o) ∧ nearOp.id = reqLd.opId ∧ reqLd.opId ≠ 0 ∧
    (homeDone { waitsNear true with ops := [nearOp] } reqLd).isSome = true :=
  ⟨⟨_, rfl, ⟨⟨rfl, by decide, by decide +kernel, rfl, .inl rfl, nofun⟩, fun h => absurd h.2 (by decide +kernel)⟩, 0, 0x20, rfl,
    ⟨0, 0, some 90, 86, .req reqLd⟩, by decide +kernel, rfl, rfl⟩, rfl, by decide, by decide +kernel⟩
def landing : State := { alone { thr with ld := 1 } with ops := [nearOp] }
theorem wit_Landings : landing.ops.find? (fun x => x.id = 5) = some nearOp ∧ findUid landing 1 = some (⟨0, 8⟩, { thr with ld := 1 }) ∧
    nearOp.load = some nearData ∧ nearOp.q = some reqLd := ⟨by decide +kernel, by decide +kernel, rfl, rfl⟩
/-- A thread parked for a far reply, and one whose reply has come. -/
def farQ : MemReq := req (.load 4) (.host 0x40)
def waitsFar : Thread := { thr with park := some ⟨.far farQ, none, 90⟩ }
theorem wit_AnswersLand : thread? (alone waitsFar) ⟨0, 8⟩ = some waitsFar ∧ farQ.tag = 0 ∧ farQ.tag ≠ 2 := ⟨rfl, rfl, by decide⟩
def postedOp : Op := ⟨6, 1, ⟨0, 8⟩, 0, .st, none, some 65, some { farQ with op := .store 8 3, parked := false, tag := 65 }, 1, 60⟩
def posted : State := { alone { thr with st := 1 } with ops := [postedOp] }
theorem wit_AnswersLand_ack : posted.ops.find? (fun x => x.t = ⟨0, 8⟩ && x.tag = some 65) = some postedOp ∧ findUid posted 1 = some (⟨0, 8⟩, { thr with st := 1 }) ∧
    posted.ops.find? (fun x => x.id = 6) = some postedOp ∧ 0 < postedOp.resends ∧ posted.ops.find? (fun x => x.t = ⟨0, 8⟩ && x.tag = some 66) = none := by decide +kernel
def answered (r : ReplyData) : Park := ⟨.replied farQ r, none, 90⟩
theorem wit_Wakes : thread? (alone { thr with park := some (answered ⟨7, 0, none, false, []⟩) }) ⟨0, 8⟩ = some { thr with park := some (answered ⟨7, 0, none, false, []⟩) } ∧
    takesDeferred { thr with park := some (answered ⟨7, 0, none, false, []⟩) } (answered ⟨7, 0, none, false, []⟩) = false ∧ CanTrap thr ∧ thr.pops = [] :=
  ⟨rfl, by decide, wit_canTrap, rfl⟩
/-- Two threads of one set in ALIGN, and an access of two requests of which one is answered. -/
def alignPark : Park := ⟨.align 3, some (.align always 3), 90⟩
theorem wit_Wakes_align : thread? (alone { thr with park := some alignPark }) ⟨0, 8⟩ = some { thr with park := some alignPark } ∧
    takesDeferred { thr with park := some alignPark } alignPark = false := ⟨rfl, by decide⟩
def gathered : State := { alone waitsFar with gathers := [⟨0, [{ farQ with tag := 1 }, { farQ with tag := 3 }], farQ, ⟨7, 0, none, false, []⟩⟩] }
theorem wit_AnswersLand_gather : (gatherOf gathered farQ.opId).isSome = true ∧ (gatherOf (alone waitsFar) farQ.opId).isSome = false ∧
    ([{ farQ with tag := 1 }, { farQ with tag := 3 }] : List MemReq).find? (fun y => y.tag = 3) = some { farQ with tag := 3 } := by decide +kernel
/-- A deferred fault taken at the end of a WAIT; an instruction tried again; an answer that a part of an instruction reads. -/
def waitPark : Park := ⟨.waitCnt 0 0 0 0, some (.wait always 0 0 0 0), 90⟩
theorem wit_Wakes_deferred : takesDeferred { thr with deferred := [⟨0x31, 0, 0⟩], park := some waitPark } waitPark = true ∧
    takesDeferred { thr with park := some waitPark } waitPark = false ∧ (∀ q r, waitPark.why ≠ .replied q r) ∧ (∀ f, waitPark.why ≠ .engineDone (some f)) ∧
    (∀ ti, waitPark.why ≠ .trapNow ti) ∧ takesDeferred thr { answered ⟨7, 0, none, false, []⟩ with retry := some ldNear } = false ∧ (∀ m, farQ.op ≠ .vload m) ∧ farQ.op ≠ .readFrame :=
  ⟨by decide, by decide, by simp [waitPark], by simp [waitPark], by simp [waitPark], by decide, by simp [farQ, req], by simp [farQ, req]⟩
/-- Two waiters of bank 0: the first cannot be served, the second can. -/
def reqStff : MemReq := { reqLdfe with op := .stff 9, tag := 1 }
def twoWait : State :=
  { alone thr with clusters := [(0, { clusterReset with banks := clusterReset.banks.set 0 (inMode .scratch), waiters := [⟨reqLdfe, 80, none⟩, ⟨reqStff, 81, none⟩] })] }
theorem wit_WaitersServed : inTable twoWait (homeOf twoWait (.near 0 0x20)) = [⟨reqLdfe, 80, none⟩] ++ ⟨reqStff, 81, none⟩ :: [] ∧
    OnePlace twoWait reqLdfe ∧ homeDone twoWait reqLdfe = none ∧ OnePlace twoWait reqStff ∧ reqStff.near = false ∧ (homeDone twoWait reqStff).isSome = true :=
  ⟨by decide +kernel, ⟨⟨rfl, by decide, by decide +kernel, rfl, .inl rfl, fun _ => rfl⟩, fun h => absurd h.2 (by decide +kernel)⟩, by decide +kernel, ⟨⟨rfl, by decide, by decide +kernel, rfl, .inl rfl, fun _ => rfl⟩, fun h => absurd h.2 (by decide +kernel)⟩, rfl, by decide +kernel⟩
/-- A refused waiter. -/
def refusedOne : State :=
  { alone thr with clusters := [(0, { clusterReset with banks := clusterReset.banks.set 0 (inMode .scratch), waiters := [⟨reqLdfe, 80, some 80⟩] })] }
theorem wit_WaitersServed_refused : refused refusedOne (homeOf refusedOne (.near 0 0x20)) = [⟨reqLdfe, 80, some 80⟩] ∧
    (inTable refusedOne (homeOf refusedOne (.near 0 0x20))).length < waiterCap (homeOf refusedOne (.near 0 0x20)) ∧
    (waitersOf refusedOne (homeOf refusedOne (.near 0 0x20))).find? (fun w => w.q = reqLdfe && w.refusedAt.isSome) = some ⟨reqLdfe, 80, some 80⟩ := by decide +kernel
/-- A full table. -/
def fullTable : State :=
  { refusedOne with clusters := [(0, { clusterReset with waiters := ⟨reqLdfe, 80, some 80⟩ :: List.replicate 64 ⟨reqStff, 70, none⟩ })] }
theorem wit_WaitersServed_full : (seats fullTable (homeOf fullTable (.near 0 0x20))).length = waiterCap (homeOf fullTable (.near 0 0x20)) := by decide +kernel
/-- A refused operation that its home can serve now, and one that finds a free place. -/
theorem wit_WaitersServed_resent : OnePlace refusedOne reqStff ∧ (homeDone refusedOne reqStff).isSome = true ∧ OnePlace refusedOne reqLdfe ∧ homeDone refusedOne reqLdfe = none ∧
    (seats refusedOne (homeOf refusedOne (.near 0 0x20))).length < waiterCap (homeOf refusedOne (.near 0 0x20)) :=
  ⟨⟨⟨rfl, by decide, by decide +kernel, rfl, .inl rfl, fun _ => rfl⟩, fun h => absurd h.2 (by decide +kernel)⟩, by decide +kernel, ⟨⟨rfl, by decide, by decide +kernel, rfl, .inl rfl, fun _ => rfl⟩, fun h => absurd h.2 (by decide +kernel)⟩, by decide +kernel, by decide +kernel⟩
theorem wit_Retries : (waitersOf twoWait (homeOf twoWait (.near 0 0x20))).find? (fun w => w.q.src = ⟨0, 8⟩ && w.q.uid = 1 && w.q.opId = 0) = some ⟨reqLdfe, 80, none⟩ ∧
    reqLdfe.near = false ∧ reqLdfe.parked = true ∧ farWaits (alone waitsFar) farQ = true ∧ farWaits (alone thr) farQ = false := by decide +kernel
theorem wit_Retries_posted : (65 : Nat) < 128 ∧ postedOp.kind ≠ .part ∧ ({ posted with now := 60 + timeoutOf (.host 0x40) } : State).ops.find? (fun x => x.t = ⟨0, 8⟩ && x.tag = some 65) = some postedOp ∧
    postedOp.lastSent + timeoutOf (.host 0x40) ≤ 60 + timeoutOf (.host 0x40) ∧ postedOp.resends < 3 ∧ ({ postedOp with resends := 3 } : Op).resends = 3 := by decide +kernel
/-- One and four timeouts after the request was sent (its `total`, 100, is the cycle of its sending). -/
theorem wit_Retries_parked : ((100 + timeoutOf farQ.place) - farQ.total) / timeoutOf farQ.place = 1 ∧ ((100 + 4 * timeoutOf farQ.place) - farQ.total) / timeoutOf farQ.place = 4 ∧
    waitersOf (alone waitsFar) (homeOf (alone waitsFar) farQ.place) = [] := by decide +kernel

/-! ### Fences, FIFO banks and vector memory -/

theorem wit_FlushRule : AtTurn (farSt false) thr always ∧ CanUse (farSt false) thr (.cflush always true farArg) [.g 1, .g 0] none ∧ NoChannel [.g 1, .g 0] ∧
    xlate (farSt false) 0 ⟨rootOf (farSt false) thr, 0x20, false, false, false, false, true, false, opOf (.cflush always true farArg)⟩ = .ok (.hbm 0x100020) 0x100007 0 ∧
    (clusterAt (withLine (farSt false)) 0).cache.find? (fun l => l.place = lineOf (.hbm 0x100020)) = some cachedLine ∧ isAperture (.hbm 0x100020) = false :=
  ⟨⟨rfl, rfl, rfl, rfl, rfl, rfl, rfl⟩, ⟨rfl, rfl⟩, by unfold NoChannel; decide, by decide +kernel, by decide +kernel, rfl⟩
theorem wit_Fences : AtTurn (alone thr) thr always ∧ InPart (alone { thr with cont := 2 }) { thr with cont := 2 } always 2 ∧
    InPart (alone { thr with cont := 1, release := some 100 }) { thr with cont := 1, release := some 100 } always 1 ∧ thr.st = 0 ∧
    InPart (alone { thr with cont := 3 }) { thr with cont := 3 } always 3 :=
  ⟨wit_turn, ⟨rfl, rfl, rfl, rfl⟩, ⟨rfl, rfl, rfl, rfl⟩, rfl, ⟨rfl, rfl, rfl, rfl⟩⟩
/-- Bank 0 a FIFO with these words; LD.64 at its pop address 8, ST.64 at its push address 0. -/
def fifoState (ws : List ChWord) : State := { withBank .fifo (alone thr) with clusters := [(0, { clusterReset with banks := clusterReset.banks.set 0 (inMode .fifo), fifo := [(0, ws)] })] }
def at0 : MemArg := ⟨true, .g 1, .g 0, 0, 0⟩
def at8 : MemArg := ⟨true, .g 1, .g 0, 0, 8⟩
theorem wit_FifoBanks : CanUse (fifoState [⟨0, [], 42⟩]) thr (.ld always .b64 false (.g 3) at8) [.g 1, .g 0] none ∧ NoChannel [.g 1, .g 0] ∧
    isFifo (clusterAt (fifoState [⟨0, [], 42⟩]) 0) 8 = some 0 ∧ readyWords (fifoState [⟨0, [], 42⟩]) (.fifo 0 0) = [⟨0, [], 42⟩] ∧ readyWords (fifoState []) (.fifo 0 0) = [] :=
  ⟨⟨rfl, rfl⟩, by unfold NoChannel; decide, by decide +kernel, by decide +kernel, by decide +kernel⟩
/-- A pop of core 0's slot 8 that stands at bank 0's port, its thread parked for it; the same behind another that waits there. -/
def reqPop : MemReq := { reqNear with op := .fifoPop, place := .near 0 8, va := 8 }
def popAt (ws : List ChWord) (wait : List Waiter) : State :=
  { alone { thr with park := some ⟨.homeWait reqPop, none, 90⟩ } with clusters := [(0, { clusterReset with
    banks := clusterReset.banks.set 0 (inMode .fifo), fifo := [(0, ws)], waiters := wait, ports := [⟨0, 0, some 90, 86, .req reqPop⟩] })] }
theorem wit_FifoBanks_bank : (∃ o, BankServes (popAt [⟨0, [], 42⟩] []) 0 (.req reqPop) o) ∧ awaits (popAt [⟨0, [], 42⟩] []) reqPop = true ∧
    fifoBehind (popAt [⟨0, [], 42⟩] []) reqPop = false ∧ fifoBehind (popAt [⟨0, [], 42⟩] [⟨{ reqPop with src := ⟨1, 8⟩ }, 80, none⟩]) reqPop = true ∧
    isFifo (clusterAt (popAt [] []) 0) 8 = some 0 :=
  ⟨⟨_, ⟨0, 0, some 90, 86, .req reqPop⟩, by decide +kernel, rfl, rfl⟩, by decide +kernel, by decide +kernel, by decide +kernel, by decide +kernel⟩
theorem wit_FifoBanks_push : CanUse (fifoState []) thr (.st always .b64 (.g 2) at0) [.g 1, .g 0, .g 2] none ∧ isFifo (clusterAt (fifoState []) 0) 0 = some 0 ∧
    (chWords (fifoState (List.replicate 16384 ⟨0, [], 0⟩)) (.fifo 0 0)).length = 16384 := ⟨⟨rfl, rfl⟩, by decide +kernel, List.length_replicate⟩

def rowArg (near : Bool) : VMem := ⟨0, false, near, 0, .g 1, .g 0, 0⟩
/-- Lane 15 alone is active; every lane; none. -/
def masked (m : Word) : Thread := { thr with m := thr.m.set 1 m }
def lanes15 : VMem := { rowArg true with m := 1 }
def vldRow (m : VMem) : VAccess := ⟨always, [.g 1, .g 0], m, false, .v 2, fun _ => rowLane m⟩
theorem wit_VectorMemory : vecRow (.vld always (.v 2) lanes15) = some (vldRow lanes15) ∧ (Instr.vld always (.v 2) lanes15).wf = true ∧
    AtTurn (withBank .scratch (alone (masked 0x8000))) (masked 0x8000) always ∧ CanUse (alone (masked 0x8000)) (masked 0x8000) (.vld always (.v 2) lanes15) [.g 1, .g 0] none ∧
    vLanes (withBank .scratch (alone (masked 0x8000))) (masked 0x8000) (vldRow lanes15) = [15] ∧
    vLanes (alone (masked 0)) (masked 0) (vldRow lanes15) = [] ∧ LaneOk (withBank .scratch (alone (masked 0x8000))) 60 ∧
    (vAddr (alone (g12 2 0 thr)) (g12 2 0 thr) (vldRow (rowArg true)) 0).toNat % 4 ≠ 0 :=
  ⟨rfl, by decide, ⟨rfl, rfl, rfl, rfl, rfl, rfl, rfl⟩, ⟨rfl, rfl⟩, by decide +kernel, by decide +kernel, ⟨by decide, by decide +kernel, by decide +kernel⟩, by decide +kernel⟩
def vstRow : VAccess := ⟨always, [.g 1, .g 0], { rowArg false with m := 1 }, true, .v 2, fun _ => rowLane { rowArg false with m := 1 }⟩
def vstState : State := onCore (tlbCore true) (masked 0x8000)
theorem wit_VectorMemory_far : vLanes vstState (masked 0x8000) vstRow = [15] ∧
    xlate vstState 0 ⟨rootOf vstState (masked 0x8000), vAddr vstState (masked 0x8000) vstRow 15, false, true, false, false, false, true, 0x283⟩ = .ok (.hbm 0x10003C) 0x100017 0 ∧
    cached vstState 0 (.hbm 0x10003C) true = false := by decide +kernel
/-- A far row's request at a peer's home, and a near one at its bank. -/
def reqRow : MemReq := { req (.vload 0x8001) (.peer 2 0x40) with lanes := [⟨0, .peer 2 0x40, 0x20, false, 0, 0⟩, ⟨15, .peer 2 0x7C, 0x5C, false, 0, 0⟩] }
def reqRowNear : MemReq := { req (.vload 0x8000) (.near 0 60) with lanes := [⟨15, .near 0 60, 60, false, 0, 0⟩], near := true, parked := false, opId := 7 }
def rowAt : State := { withBank .scratch (alone thr) with
  clusters := [(0, { clusterReset with banks := clusterReset.banks.set 0 (inMode .scratch), ports := [⟨0, 0, some 90, 86, .piece reqRowNear⟩] })]
  gathers := [⟨7, [reqRowNear, { reqRowNear with tag := 1 }], reqRowNear, ⟨0, 0, none, false, []⟩⟩] }
theorem wit_VectorMemory_home : TakenUp (alone thr) reqRow (exec (reqEvent reqRow) (alone thr)) ∧
    (∀ x ∈ reqRow.lanes, x.n < 16 ∧ placeFault (alone thr) reqRow x = none) ∧ (∀ x ∈ reqRow.lanes, placeErr (alone thr) x.place 4 = false) ∧
    (∃ o, BankServes rowAt 0 (.piece reqRowNear) o) ∧ (gatherOf rowAt 7).isSome = true ∧ (∀ x ∈ reqRowNear.lanes, placeFault rowAt reqRowNear x = none) :=
  ⟨⟨rfl, rfl⟩, by decide +kernel, by decide +kernel, ⟨_, ⟨0, 0, some 90, 86, .piece reqRowNear⟩, by decide +kernel, rfl, rfl⟩, by decide +kernel, by decide +kernel⟩

/-! ### Groups and channels -/

def grp0 : GroupArg := ⟨false, 5⟩
/-- Die group 5 with the thread as a member at a phase and one other, behind. -/
def group5 (ph rep : BitVec 32) : Group := ⟨false, 0, 5, [⟨1, ph, ph, ph⟩, ⟨2, 0, 0, 0⟩], 0, [], 0, rep, []⟩
def member1 (ph : BitVec 32) : Member := ⟨1, ph, ph, ph⟩
def inGroup (ph rep : BitVec 32) (th : Thread) : State := { alone th with groups := [group5 ph rep] }
theorem wit_Arrivals : IsMember (inGroup 2 1 thr) thr grp0 (group5 2 1) (member1 2) ∧ lead (inGroup 2 1 thr) (group5 2 1) (member1 2) = 2 ∧
    lead (inGroup 3 1 thr) (group5 3 1) (member1 3) = 3 ∧ (Instr.arrive always (.g 3) grp0).wf = true ∧ (∀ gr, myGroup (alone thr) grp0 = some gr → member? gr 1 = none) ∧
    phaseLe 2 (group5 2 2).reported = true ∧ phaseLe 2 (group5 2 1).reported = false :=
  ⟨⟨by decide +kernel, by decide +kernel⟩, by decide +kernel, by decide +kernel, by decide, by simp [myGroup, findGroup, alone, onCore, State.reset], by decide +kernel, by decide +kernel⟩
theorem wit_BwaitRule : CanUse (inGroup 2 1 thr) thr (.bwait always grp0 (.g 1)) [.g 1] none ∧ NoChannel [.g 1] ∧
    0 < ((3 : BitVec 32) - 2).toNat ∧ ((3 : BitVec 32) - 2).toNat < 2 ^ 31 ∧ 2 ^ 31 ≤ ((1 : BitVec 32) - 2).toNat ∧ ((0x80000001 : BitVec 32) - 2).toNat = 2 ^ 31 - 1 :=
  ⟨⟨rfl, rfl⟩, by unfold NoChannel; decide, by decide, by decide, by decide, by decide⟩
/-- The thread as a member of four groups, and a group of 65,535 members. -/
def inFour : State := { alone thr with groups := [0, 1, 2, 3].map (fun g => ⟨false, 0, g, [⟨1, 0, 0, 0⟩], 0, [], 0, 0, []⟩) }
def fullGroup : Group := ⟨false, 0, 5, List.replicate 65535 ⟨2, 0, 0, 0⟩, 0, [], 0, 0, []⟩
theorem wit_GroupMemberRule : (inFour.groups.filter (fun x => (member? x 1).isSome)).length = 4 ∧ myGroup inFour grp0 = none ∧
    (∀ gr, myGroup inFour grp0 = some gr → member? gr thr.uid = none) :=
  ⟨by decide +kernel, by decide +kernel, fun _ h => by simp [show myGroup inFour grp0 = none by decide +kernel] at h⟩
theorem wit_GroupMemberRule_full : member? fullGroup 1 = none ∧ 65535 ≤ fullGroup.members.length :=
  ⟨List.find?_eq_none.2 fun x h => by rw [List.eq_of_mem_replicate h]; decide, Nat.le_of_eq List.length_replicate.symm⟩
theorem wit_BarrierEvents : findGroup (inGroup 1 0 thr) false 0 5 = some (group5 1 0) ∧ member? (group5 1 0) 2 = some ⟨2, 0, 0, 0⟩ ∧ phaseLe 0 1 = true ∧
    groupRec (withMember (group5 1 0) ⟨2, 0, 0, 1⟩) = 1 ∧ watchHomes (inGroup 1 0 thr) (group5 1 0) = [] ∧ (group5 1 0).sweeping = [] := by decide +kernel
/-- A bank of cluster 0 that group 5 watches, and a group whose sweep it has still to finish. -/
def watched : State :=
  { inGroup 1 0 thr with clusters := [(0, { clusterReset with banks := clusterReset.banks.set 3 { inMode .watch with watch := 5 } })]
                         groups := [{ group5 1 0 with sweeping := [(.bank 0 3, 1)], announced := 1 }] }
theorem wit_BarrierEvents_watched : watchHomes watched (group5 1 0) = [.bank 0 3] ∧
    ({ group5 1 0 with sweeping := [(.bank 0 3, 1)], announced := 1 } : Group).sweeping.filter (· ≠ (HomeId.bank 0 3, 1)) = [] ∧
    ([(.bank 0 3, 2), (.channel 4, 2)] : List (HomeId × BitVec 32)).find? (fun x => x.1 = HomeId.bank 0 3) = some (.bank 0 3, 2) := by decide +kernel
theorem wit_BarrierEvents_complete : ({ group5 1 0 with reports := [(100, 1)] } : Group).reports.filter (fun x => x.1 ≤ (alone thr).now) = [(100, 1)] := by decide +kernel
theorem wit_ChannelBindings : AtTurn (alone thr) thr always ∧ (Instr.chbind always .nbr (.ch 2) 0).wf = true ∧ (alone thr).cur.core % 16 / 4 = 0 ∧
    (Instr.chstat always (.g 3) (.ch 2)).wf = true ∧ viewOf (alone thr) ⟨0, 8⟩ thr = thr ∧
    chQueue (alone chThread) ⟨0, 8⟩ chThread 2 true = some (.slot 0 26) := ⟨wit_turn, by decide, by decide, by decide, rfl, by decide +kernel⟩

/-! ### Class 5: vectors -/

def vm0 : VMod := ⟨0, .rne, false⟩
def vaddI : Instr := .vadd always .f32 false vm0 (.v 3) (.v 1) (.vec (.v 2))
/-- Lane 2 of v1 and of v2 hold 1.0. -/
def lane2 : Thread := { thr with v := (thr.v.set 1 (0x3F800000 <<< 64)).set 2 (0x3F800000 <<< 64) }
theorem wit_VectorElements : (vRow vaddI).isSome = true ∧ vaddI.wf = true ∧ AtTurn (alone lane2) lane2 always ∧
    CanUse (alone lane2) lane2 vaddI [] none ∧ vIllegal lane2 vaddI = none ∧ vIllegal lane2 (.vdeq always 0 vm0 (.v 3) (.v 1) false) = some 2 :=
  ⟨rfl, by decide, ⟨rfl, rfl, rfl, rfl, rfl, rfl, rfl⟩, ⟨rfl, rfl⟩, rfl, by decide +kernel⟩
/-- A signalling NaN in lane 2 raises invalid. -/
def lane2Nan : Thread := { lane2 with v := lane2.v.set 1 (0x7FA00000 <<< 64), scr := { lane2.scr with fctl := 0x80 } }
theorem wit_VectorElements_trap : ∀ a, vRow vaddI = some a → enabled lane2Nan (outFlags (outs (alone lane2Nan) lane2Nan a 0)) = fNV ∧
    enabled lane2 (outFlags (outs (alone lane2) lane2 a 0)) = 0 ∧ (outs (alone lane2Nan) lane2Nan a 0).map Prod.fst = List.range 16 := by
  intro a h; cases h; decide +kernel
theorem wit_VectorOthers : (Instr.vcmp always .lt .f32 ⟨0, .dyn, false⟩ (.m 1) (.v 1) (.vec (.v 2))).wf = true ∧ (Instr.vins always .i8 (.v 3) (.g 1) 63).wf = true ∧
    (Instr.vext always .i8 (.g 3) (.v 1) 63).wf = true ∧ (Instr.vred always .add .f32 false vm0 (.v 3) (.v 1)).wf = true ∧
    (Instr.vquant always 2 vm0 (.v 3) (.v 1) (.v 2) (.g 0)).wf = true ∧ vIllegal lane2 (.vquant always 2 vm0 (.v 3) (.v 1) (.v 2) (.g 0)) = some 2 := by decide +kernel

/-! ### Class 6: the matrix engine -/

def i8Arg : MmaArg := ⟨.i8, false, false, false, false, 0, 0, .acc 2, .v 1, .v 2, none⟩
def mmaI : Instr := .mma always i8Arg
theorem wit_MatrixIssue : (waitRow (alone thr) thr mmaI).isSome = true ∧ operandDesc .i8 false thr.v[1] ∧ ¬ operandDesc .i8 false (BitVec.allOnes 512) ∧
    usable .i8 0 ∧ CanUse (alone thr) thr mmaI [] none ∧ ¬ QueueFull (alone thr) :=
  ⟨rfl, by unfold operandDesc; decide +kernel, by unfold operandDesc; decide +kernel, nofun, ⟨rfl, rfl⟩, by unfold QueueFull; decide +kernel⟩
def mxArg : MmaArg := { i8Arg with ty := .mx }
theorem wit_MatrixIssue_format : ¬ usable .mx (fmtFor (alone thr) thr .mx 0) := fun h => absurd (h rfl) (by decide +kernel)
/-- Eight entries in the queue. -/
def accmvEnt (n : Nat) : EngEntry := ⟨n, ⟨0, 8⟩, 1, .accmv 1 2, 90, false, 0, none, none, none, [], 0, [], 0, 0, none, [], []⟩
def engineWith (l act : List EngEntry) : Core := { coreReset with engine := { engineReset with queue := l, active := act } }
theorem wit_MatrixIssue_full : QueueFull (onCore (engineWith ((List.range 8).map accmvEnt) []) thr) := by unfold QueueFull; decide +kernel
/-- ACCST of every cell with base 4 and row stride 64 from a SCRATCH bank 0; with base 2; with row stride 62; with a byte that is not there. -/
def accstI : Instr := .accst always .f32 .rne 0 (.v 1) (.acc 2) none
def descOf (base step : BitVec 32) : Line := (base.setWidth 512) ||| (step.setWidth 512 <<< 32)
def withDesc (d : Line) : Thread := { thr with v := thr.v.set 1 d }
theorem wit_MatrixIssue_cells : (cellRow (alone (withDesc (descOf 4 64))) (withDesc (descOf 4 64)) accstI).isSome = true ∧ storeDesc false (descOf 4 64) ∧
    (laneOf (descOf 4 64) 0).toNat % 4 = 0 ∧ (laneOf (descOf 2 64) 0).toNat % 4 ≠ 0 ∧ (laneOf (descOf 4 62) 1).toNat % 4 ≠ 0 ∧
    engineTrap (withBank .scratch (alone thr)) 0x303 0x40 = none ∧ (engineTrap (alone thr) 0x303 0x40).isSome = true :=
  ⟨rfl, by unfold storeDesc; decide +kernel, by decide +kernel, by decide +kernel, by decide +kernel, by decide +kernel, by decide +kernel⟩
theorem wit_MatrixIssue_frsend : CanUse (alone thr) thr (.frsend always (.g 1) (.acc 2) 5 none) [.g 1] none ∧
    (val (alone (g12 2047 0 thr)) (g12 2047 0 thr) [.g 1] 0).toNat < 2048 ∧ 2048 ≤ (val (alone (g12 2048 0 thr)) (g12 2048 0 thr) [.g 1] 0).toNat :=
  ⟨⟨rfl, rfl⟩, by decide, by decide⟩
/-- The head of the queue: ACCMV, whose source tile holds a cell out of range. -/
def bigCell : Cell := ⟨2 ^ 191, .fin⟩
def headState (op : EngOp) (fov : Bool) (cells : List (Nat × Cell)) : State :=
  onCore { engineWith [{ accmvEnt 5 with op := op, fov := fov }] [] with tiles := [(2, { tileReset with cells := cells })] } thr
/-- The engine is busy until cycle 101. -/
def engineBusy (s : State) : State := modCore s 0 (fun k => { k with engine := { k.engine with freeAt := 101 } })
theorem wit_EngineStarts : MayStart (headState (.accmv 1 2) false [(7, bigCell)]) 0 (accmvEnt 5) ∧
    (coreAt (headState (.accmv 1 2) false [(7, bigCell)]) 0).engine.queue = [accmvEnt 5] ∧ CellOut bigCell ∧
    ¬ MayStart (engineBusy (headState (.accmv 1 2) false [])) 0 (accmvEnt 5) := by
  refine ⟨⟨by decide +kernel, fun x h => ?_, fun x h => ?_, by decide +kernel, fun x h => ?_, by decide +kernel, by decide +kernel⟩,
    by decide +kernel, by unfold CellOut Fits; decide +kernel, fun h => absurd h.1 (by decide +kernel)⟩
  · exact absurd (show x ∈ ([] : List (Bool × Nat × Nat)) from h) (by simp)
  · exact absurd (show x ∈ ([] : List (Bool × Nat × Nat)) from h) (by simp)
  · exact absurd (show x ∈ ([] : List EngEntry) from h) (by simp)
/-- An operation of whose issuer a deferred fault waits. -/
theorem wit_EngineStarts_deferred : parksIssuer (.accmv 1 2) = true ∧ faultWaits (alone { thr with deferred := [⟨0x31, 0, 0⟩] }) 1 = true ∧
    faultWaits (alone thr) 1 = false := by decide +kernel
/-- A latch of row 0 of an INT8 A side, filled from a SCRATCH bank and from none; the entry with its one read still to come. -/
def latchEnt : EngEntry := { accmvEnt 6 with op := .latch false false .i8 0 0 1 }
def fillState (bank : BankMode) (e : EngEntry) : State := withBank bank (onCore (engineWith [e] []) thr)
def latchSide : SideFill := ⟨0x307, .i8, 0, 0, 1, none⟩
theorem wit_EngineStarts_fill : fillNext (fillState .scratch latchEnt) 0 false = some latchEnt ∧ ((coreAt (fillState .scratch latchEnt) 0).engine.queue.map EngEntry.id).Nodup ∧
    fillFault (fillState .scratch latchEnt) 0 0x307 0 (sideRanges latchSide false) = none ∧ (fillFault (fillState .cache latchEnt) 0 0x307 0 (sideRanges latchSide false)).isSome = true ∧
    (fillGroups (fillState .scratch latchEnt) 0 latchSide false).length = 1 := by decide +kernel
theorem wit_EngineStarts_side : sideOf latchEnt.op false = some latchSide := rfl
def fillingEnt : EngEntry := { latchEnt with fillA := some ⟨1, 105, [], none⟩ }
theorem wit_EngineStarts_served : sideFillOf fillingEnt false = some ⟨1, 105, [], none⟩ ∧
    (coreAt (fillState .scratch fillingEnt) 0).engine.queue.find? (fun y => y.id = 6) = some fillingEnt ∧
    (∀ a < 32, nearFault (clusterAt (fillState .scratch fillingEnt) 0) a .engine = none ∧ nearArea (clusterAt (fillState .scratch fillingEnt) 0) a = none) ∧
    placeErr (fillState .scratch fillingEnt) (.near 0 0) 32 = false := by decide +kernel
def i8Latch : Latch := ⟨8, .i8, 0, List.replicate 16 1, []⟩
theorem wit_EngineStarts_sum : i8Latch.ty = .i8 ∧ (∃ k < 32, ((1 : Word) <<< 32).getLsbD (32 + k) = true) ∧ (0, Contrib.int 1) ∈ mmaContribs i8Latch i8Latch (0x100010001 : Word) 0 :=
  ⟨rfl, ⟨0, by decide, by decide⟩, by decide +kernel⟩
/-- Entries in service. -/
def inService (op : EngOp) (fault : Option TrapInfo) : State := onCore (engineWith [] [{ accmvEnt 5 with op := op, fault := fault, started := some 90 }]) { thr with tl := 1 }
theorem wit_EngineEnds : InService (inService (.accmv 1 2) none) 0 5 { accmvEnt 5 with started := some 90 } ∧
    Only (inService (.accmv 1 2) none) 1 ⟨0, 8⟩ { thr with tl := 1 } ∧ occupancy (.accz 1 0) ≠ 2 ∧ parksIssuer (.accmv 1 2) = true ∧
    ([(1, tileReset, { tileReset with floor := 1 })] : List (Nat × Tile × Tile)).map Prod.fst = [1] ∧
    (coreAt (inService (.accmv 1 2) none) 0).engine.active.find? (fun x => x.id = 6) = none :=
  ⟨by unfold InService; decide +kernel, ⟨rfl, by decide +kernel, by decide +kernel⟩, by decide, rfl, rfl, by decide +kernel⟩
/-- An ACCLD of cell 0 whose access stands at its bank's port. -/
def cellPort : PortReq := ⟨0, 0, some 95, 80, .beat 5 [0]⟩
def cellEnt : EngEntry := { accmvEnt 5 with op := .accld .f32 2 0 0x10001, started := some 90, beats := [⟨0, 0, [], false⟩] }
def cellState : State := { onCore (engineWith [] [cellEnt]) thr with
  clusters := [(0, { clusterReset with banks := clusterReset.banks.set 0 (inMode .scratch), ports := [cellPort] })] }
theorem wit_EngineEnds_cells : InService cellState 0 5 cellEnt ∧ bankNext cellState 0 0 = some cellPort ∧ entryCells cellEnt.op = [(0, 0, 4)] ∧
    (∀ a < 4, nearFault (clusterAt cellState 0) a .engine = none ∧ nearArea (clusterAt cellState 0) a = none) ∧
    placeErr cellState (.near 0 0) 4 = false ∧ storesTile cellEnt.op = false := by unfold InService; decide +kernel
/-- ACCLD of one cell, its bytes read, with tl raised; a .RAW image with a code of state above 3. -/
def loadBeat (bs : List Byte) : Beat := ⟨0, 0, bs, true⟩
def tlOp : Op := ⟨5, 1, ⟨0, 8⟩, 0, .tl, none, none, none, 0, 0⟩
theorem wit_EngineEnds_load : HoldsOp { alone thr with ops := [tlOp] } 5 1 .tl ∧ ([loadBeat (bytesLE 0 32)].map Beat.cell).Nodup ∧
    ¬ RawBad 0 (bytesLE 0 32) ∧ RawBad 0 (bytesLE (9 * 2 ^ 208) 32) :=
  ⟨⟨tlOp, by decide +kernel, rfl, rfl⟩, by decide, fun h => h 0 .fin (by decide +kernel),
    fun n st h => by rw [show parseCell (bytesLE (9 * 2 ^ 208) 32) = none by decide +kernel] at h; cases h⟩
def msg0 : FurrowMsg := ⟨0, 5, 0, false, 1, .fin, true, 2, 9, 0, 0, 0, 0⟩
theorem wit_EngineEnds_message : (∃ x ∈ coreThreads 0 (coreAt (alone thr) 0), x.2.launch = msg0.launch) ∧ (∀ x ∈ coreThreads 0 (coreAt State.reset 0), x.2.launch ≠ msg0.launch) ∧
    (∀ x ∈ coreThreads 0 (coreAt (alone thr) 0), x.2.launch ≠ ({ msg0 with launch := 3, entry := 5 } : FurrowMsg).launch) ∧ ({ accmvEnt 5 with msgs := [msg0] } : EngEntry).nextInj ≤ 100 := by decide +kernel

/-! ### Control and format registers, window frames -/

theorem wit_Registers : CanUse (alone thr) thr (.srd always (.g 3) .cycle) [] (some (.g 3)) ∧ CanUse (alone thr) thr (.swr always .fctl (.g 1)) [.g 1] none ∧
    ScrLegal .fctl 0x3FC ∧ ¬ ScrLegal .fctl 5 ∧ ¬ ScrLegal .ecause 0x200 ∧ FmtLegal 0x20739 ∧ ¬ FmtLegal 0x30739 ∧ FmtLegal 0 :=
  ⟨⟨rfl, rfl⟩, ⟨rfl, rfl⟩, ⟨by decide, by decide⟩, fun h => absurd h.2 (by decide), fun h => absurd (show (0x200 : Word).extractLsb' 9 55 = 0 from h) (by decide),
    by unfold FmtLegal; decide, by unfold FmtLegal; decide, by unfold FmtLegal; decide⟩
theorem wit_Registers_reserved : (mkF 0x392 always 0x22 0 1 0 0 0).op = 0x392 := by decide
def withTile2 (t : Tile) : State := onCore { coreReset with tiles := [(2, t)] } thr
theorem wit_Registers_frwait : CanUse (alone thr) thr (.frwait always (.acc 2) (.g 1)) [.g 1] none ∧ (tileOf (withTile2 { tileReset with sends := 256 }) 0 2).sends = 256 ∧
    (∃ x, (tileOf (withTile2 { tileReset with mism := some (1, 2, 3) }) 0 2).mism = some x) ∧
    Lowest (fun c => c < 256 ∧ CellOut (cellAt { tileReset with cells := [(255, bigCell)] } c)) 255 :=
  ⟨⟨rfl, rfl⟩, by decide +kernel, ⟨_, rfl⟩, by unfold Lowest CellOut Fits; decide +kernel⟩

def frame0 : Vector Word 32 := Vector.replicate 32 7
/-- One older frame resident, and one frame spilled. -/
def framed (wsp : Word) : Thread := { thr with depth := 1, lower := [frame0], scr := { thr.scr with wsp := wsp } }
def spilled (wsp : Word) : Thread := { thr with depth := 1, scr := { thr.scr with wsp := wsp } }
theorem wit_WindowFrames : (framed 0x100).lower ≠ [] ∧ (framed 0x100).lower.getLast? = some frame0 ∧ (framed 0x104).scr.wsp.toNat % 8 ≠ 0 ∧
    (spilled 0x100).lower.length ≠ 5 ∧ (spilled 0x100).depth ≠ (spilled 0x100).lower.length ∧ FrameOk (withBank .scratch (alone thr)) thr 0x1FF00 ∧
    ¬ (∃ a, RegId.w a ∈ (framed 0x100).absent ∧ 0 ≤ a ∧ a < 32) :=
  ⟨by decide, by decide +kernel, by decide, by decide, by decide, by unfold FrameOk; decide +kernel, fun ⟨_, h, _⟩ => by simp [framed, thr, threadReset] at h⟩
def reqFrame : MemReq := { req .readFrame (.peer 2 0x40) with lanes := (List.range 32).map (fun j => ⟨j, .peer 2 (0x40 + 8 * j), BitVec.ofNat 64 (8 * j), false, 0, 0⟩) }
theorem wit_WindowFrames_home : TakenUp (alone thr) reqFrame (exec (reqEvent reqFrame) (alone thr)) ∧ (∀ x ∈ reqFrame.lanes, placeFault (alone thr) reqFrame x = none) ∧
    reqFrame.parked = true ∧ (∀ x ∈ reqFrame.lanes, placeErr (alone thr) x.place 8 = false) :=
  ⟨⟨rfl, rfl⟩, by decide +kernel, rfl, by decide +kernel⟩
/-- Word 0 of a near frame image at its bank's port, the last of its access. -/
def wordReq : MemReq := { req .readFrame (.near 0 0x100) with lanes := [⟨0, .near 0 0x100, 0x100, false, 0, 0⟩], near := true, opId := 7 }
def wordState : State := { alone { thr with park := some ⟨.homeWait wordReq, none, 60⟩ } with
  clusters := [(0, { clusterReset with banks := clusterReset.banks.set 0 (inMode .scratch), ports := [⟨0, 0, some 90, 86, .piece wordReq⟩] })]
  gathers := [⟨7, [wordReq], wordReq, ⟨0, 0, none, false, []⟩⟩] }
theorem wit_WindowFrames_word : (∃ o, BankServes wordState 0 (.piece wordReq) o) ∧ (gatherOf wordState 7).isSome = true ∧ awaits wordState wordReq = true ∧
    (∀ y ∈ wordReq.lanes, placeFault wordState wordReq y = none ∧ placeErr wordState y.place 8 = false) :=
  ⟨⟨_, ⟨0, 0, some 90, 86, .piece wordReq⟩, by decide +kernel, rfl, rfl⟩, by decide +kernel, by decide +kernel, by decide +kernel⟩
theorem wit_WindowFrames_far : FarFrame { farSt true with cur := ⟨0, 8⟩ } (framed 0x100) (.wspill always false) 0x100 true (fun j => (.hbm (0x100100 + 8 * j), 0x100017, 0)) := by
  intro j hj
  refine ⟨rfl, ?_, nofun, ?_⟩
  · revert j; decide +kernel
  · revert j; decide +kernel

/-! ### Reductions, digests -/

/-- Group 7: two members, valid, its root core 0 of this package; core 0 is member 1. -/
def groupSt (s : State) : State := { s with trust := { s.trust with groups := [(7, 0x10002)], members := [(7, [(0, 1)])] } }
theorem wit_Reductions : memberIndex (groupSt (alone thr)) 7 0 = some 1 ∧ memberIndex (alone thr) 7 0 = none ∧ gRootPkg (groupLine (groupSt (alone thr)) 7) = 0 ∧
    gNmemb (groupLine (groupSt (alone thr)) 7) = 2 ∧ (val (alone (g12 4095 0 thr)) (g12 4095 0 thr) [.g 1] 0).toNat < 4096 := by decide +kernel
def nredEnt : EngEntry := { accmvEnt 5 with op := .nred 7 0 2 9 (BitVec.allOnes 64) 0 }
theorem wit_Reductions_start : MayStart (groupSt (headState nredEnt.op false [])) 0 nredEnt ∧ Sound false (tileOf (groupSt (headState nredEnt.op false [])) 0 2) (Selected (BitVec.allOnes 64)) := by
  refine ⟨⟨by decide +kernel, fun x h => ?_, fun x h => ?_, by decide +kernel, fun x h => ?_, by decide +kernel, by decide +kernel⟩, fun cause c h => ?_⟩
  · exact absurd (show x ∈ ([] : List (Bool × Nat × Nat)) from h) (by simp)
  · exact absurd (show x ∈ ([] : List (Bool × Nat × Nat)) from h) (by simp)
  · exact absurd (show x ∈ ([] : List EngEntry) from h) (by simp)
  · rcases h with ⟨_, h, _⟩ | ⟨_, _, h, _⟩
    · exact absurd (show c ∈ ([] : List Nat) from h.2) (by simp)
    · exact h.2.2.2 (by unfold Fits; rw [show cellAt (tileOf (groupSt (headState nredEnt.op false [])) 0 2) c = cellReset from rfl]; decide)
def nredM (minm : Nat) (f : BitVec 16) : NredMsg := ⟨7, 0, 0, minm, false, f, 9, [(0, .fin, 3)]⟩
theorem wit_Reductions_rounds : ((roundOf (groupSt (alone thr)) 7 0 false).arrivals ++ [nredM 1 0]).length = 1 ∧ FloorOf [nredM 1 0, nredM 0 5] 0 true ∧ FloorOf [nredM 1 5, nredM 0 5] 5 false := by
  refine ⟨by decide +kernel, ⟨fun f0 h => ?_, ?_⟩, ⟨fun f0 h => ?_, ?_⟩⟩
  · exact absurd ((h (nredM 1 0) (by simp)).trans (h (nredM 0 5) (by simp)).symm) (by decide)
  · decide
  · exact ⟨h (nredM 1 5) (by simp), rfl⟩
  · decide
def waitsVerdict : State := { alone { thr with park := some ⟨.event, none, 90⟩ } with trust := { trustReset with inflight := [⟨7, 0, true, ⟨0, 8⟩, 1, 0, 9⟩] } }
theorem wit_Reductions_verdict : flights waitsVerdict 7 0 true = [⟨7, 0, true, ⟨0, 8⟩, 1, 0, 9⟩] ∧ ((flights waitsVerdict 7 0 true).map InFlight.uid).Nodup ∧
    Only waitsVerdict 1 ⟨0, 8⟩ { thr with park := some ⟨.event, none, 90⟩ } := ⟨by decide +kernel, by decide +kernel, ⟨rfl, by decide +kernel, by decide +kernel⟩⟩
/-- A DIGEST.N of the last 64 bytes of bank 0; its one block at the bank's port. -/
theorem wit_Reductions_digest : CanUse (alone thr) thr (.digestN always (.g 3) (.g 1) (.g 2)) [.g 1, .g 2] none ∧ (engineTrap (alone thr) 0x397 0).isSome = true ∧
    (∀ x < 64, engineTrap (withBank .scratch (alone thr)) 0x397 (0x1FFC0 + x) = none) ∧ engineBlockers (alone thr) 1 = [] := by
  refine ⟨⟨rfl, rfl⟩, by decide +kernel, by decide +kernel, by decide +kernel⟩
def digesting : Thread := { thr with cont := 1, park := some ⟨.event, some (.digestN always (.g 3) (.g 1) (.g 2)), 80⟩, latch := some ([0x1FFC0, 64] ++ List.replicate 8 0) }
def blockState : State := modCluster (withBank .scratch (alone digesting)) 0 (fun cl => { cl with ports := [⟨0, 0, some 90, 86, .block ⟨0, 8⟩ 1 0⟩] })
theorem wit_Reductions_block : (∃ o, BankServes blockState 0 (.block ⟨0, 8⟩ 1 0) o) ∧ Only blockState 1 ⟨0, 8⟩ digesting ∧
    (∀ x < 64, nearFault (clusterAt blockState 0) (0x1FFC0 + x) .engine = none ∧ nearArea (clusterAt blockState 0) (0x1FFC0 + x) = none ∧ placeErr blockState (.near 0 (0x1FFC0 + x)) 1 = false) :=
  ⟨⟨_, ⟨0, 0, some 90, 86, .block ⟨0, 8⟩ 1 0⟩, by decide +kernel, rfl, rfl⟩, ⟨rfl, by decide +kernel, by decide +kernel⟩, by decide +kernel⟩
theorem wit_Reductions_parts : InPart (alone { thr with cont := 1, latch := some [0, 65] }) { thr with cont := 1, latch := some [0, 65] } always 1 ∧
    InPart (alone { thr with cont := 2, latch := some [9] }) { thr with cont := 2, latch := some [9] } always 2 ∧ CanUse (alone thr) thr (.digestT always (.g 3) (.acc 2)) [] (some (.g 3)) :=
  ⟨⟨rfl, rfl, rfl, rfl⟩, ⟨rfl, rfl, rfl, rfl⟩, ⟨rfl, rfl⟩⟩
/-- A request of the thread in the queue of its die's SHA-256 engine. -/
def shaState : State := { alone digesting with shaQ := [⟨0, 0, 90, 2, .thread 1⟩] }
theorem wit_Reductions_sha : (∀ x ∈ shaState.shaQ, x.cluster < 128) ∧ shaNext shaState 0 = some ⟨0, 0, 90, 2, .thread 1⟩ ∧ Only shaState 1 ⟨0, 8⟩ digesting :=
  ⟨by decide +kernel, by decide +kernel, ⟨rfl, by decide +kernel, by decide +kernel⟩⟩

/-! ### Class 7: copies -/

/-- A copy of 64 bytes near to near, its record arrived: one dimension of 64 one-byte elements (R359). -/
def rec64 : Line := (0x1000 : Line) ||| (0x2000 <<< 64) ||| ((0x1030 : Line) <<< 192) ||| ((64 : Line) <<< 224)
def copy1 : CopyEnt :=
  { token := 9, t := ⟨0, 8⟩, op := 5, root := 0, launch := 0, addr := 0, near := true, shape := some rec64, arrived := true, back := false, sb := none, db := none
    sh := false, before := [], ready := 0, engine := none, cycle := 0, beat := 0, elem := 0, reads := [], waiting := [], sent := [], pages := [], aux := none, wrote := [], lastAck := 0, endAt := 0
    cancelled := false, ending := false, fault := none, bytes := [], digest := 0 }
def cpOp : Op := ⟨5, 1, ⟨0, 8⟩, 0, .cp, none, none, none, 0, 0⟩
def withCopy (l : List CopyEnt) (toks : List (Nat × TokenEnt)) : State :=
  { withBank .scratch (alone { thr with cp := 1 }) with ops := [cpOp], clusters := [(0, { clusterReset with banks := clusterReset.banks.set 0 (inMode .scratch), copies := l, tokens := toks })] }
theorem wit_CopyInstructions : CanUse (alone thr) thr (.cpy always true false (.g 3) (.g 1) (some (.g 2)) none) [.g 1, .g 2] (some (.g 3)) ∧
    ((clusterAt (withCopy (List.replicate 64 copy1) []) 0).copies.filter (fun x => x.engine = none)).length = 64 ∧
    (∀ x ∈ (clusterAt (alone thr) 0).copies, x.token ≠ 1) ∧ KindsOk (alone thr) 0 ∧ tokState (alone thr) 0 0 = 4 ∧
    tokOf (withCopy [] [(9, ⟨9, 2, some (3, 0x10, 0x40), 0⟩)]) 0 9 = some ⟨9, 2, some (3, 0x10, 0x40), 0⟩ ∧ tokState (withCopy [] [(9, ⟨9, 0, none, 0⟩)]) 0 9 = 0 :=
  ⟨⟨rfl, rfl⟩, by decide +kernel, by decide +kernel, fun x h => absurd (show x ∈ ([] : List _) from h) (by simp), by decide +kernel, by decide +kernel, by decide +kernel⟩
theorem wit_CopyInstructions_cancel : CopyIs (withCopy [copy1] [(9, ⟨9, 0, none, 0⟩)]) 0 9 copy1 ∧ HoldsOp (withCopy [copy1] []) 5 1 .cp ∧
    Only (withCopy [copy1] []) 1 ⟨0, 8⟩ { thr with cp := 1 } ∧ ¬ WritesOut { copy1 with engine := some 0 } ∧
    WritesOut { copy1 with engine := some 0, fault := some ⟨3, 2, 0x10, 0⟩ } :=
  ⟨⟨rfl, by decide +kernel, by decide +kernel⟩, ⟨cpOp, by decide +kernel, rfl, rfl⟩, ⟨rfl, by decide +kernel, by decide +kernel⟩,
    fun ⟨_, _, _, _, _, _, h⟩ => h rfl, fun b h => absurd (show b ∈ ([] : List CopyBeat) from h) (by simp)⟩
def copyBack : CopyEnt := { copy1 with back := true }
theorem wit_CopyEngines : (clusterAt (withCopy [copyBack] []) 0).copies.find? (fun x => x.engine = none) = some copyBack ∧ (∀ x ∈ (clusterAt (withCopy [copyBack] []) 0).copies, x.engine ≠ some 0) ∧
    (look 0 (clusterAt (withCopy [copyBack] []) 0).engFree).getD 0 ≤ 100 ∧ copyBack.back = true ∧ copyBack.ready ≤ 100 ∧ (∀ o ∈ (withCopy [copyBack] []).ops, o.id ∉ copyBack.before) ∧
    CopyIs (withCopy [copyBack] []) 0 9 copyBack := ⟨by decide +kernel, by decide +kernel, by decide +kernel, rfl, by decide, by decide +kernel, ⟨rfl, by decide +kernel, by decide +kernel⟩⟩
/-- A near record on its way, and a far one, whose page the cluster's TLB holds. -/
def farCopy : CopyEnt := { copy1 with near := false, shape := none, arrived := false }
def farCopySt : State := { alone thr with clusters := [(0, { clusterReset with copies := [farCopy], tlb := [⟨0, 0, 16, 0x100017, 0, 0⟩] })] }
theorem wit_CopyEngines_record : CopyIs (withCopy [{ copy1 with arrived := false }] []) 0 9 { copy1 with arrived := false } ∧
    (∀ l ∈ (clusterAt (withCopy [copy1] []) 0).cache, l.dirty = 0) ∧ CopyIs farCopySt 0 9 farCopy ∧
    (∃ s1 d, clusterPlace farCopySt 0 { copyXl 0 0 false with opc := 0x380 } = (s1, d, .ok (.hbm 0x100000, 0x100017, 0, 0))) ∧
    cached farCopySt 0 (.hbm 0x100000) true = false ∧ apertureFault farCopySt (.hbm 0x100000) = none ∧ placeErr farCopySt (.hbm 0x100000) 64 = false :=
  ⟨⟨rfl, by decide +kernel, by decide +kernel⟩, by decide +kernel, ⟨rfl, by decide +kernel, by decide +kernel⟩, ⟨_, _, rfl⟩, by decide +kernel, by decide +kernel, by decide +kernel⟩
/-- A beat of eight elements from a near buffer to another; its read and its write at the bank. -/
def beat8 : CopyBeat := ⟨0, 0, 8, [(.near 0 0x1000, 8)], [(.near 0 0x2000, 8)], 100, 100, 1, [], none⟩
def beating : CopyEnt := { copy1 with engine := some 0, reads := [beat8] }
def beatSent : CopyEnt := { copy1 with engine := some 0, sent := [beat8] }
def copyAtPort (c : CopyEnt) (act : PortAct) : State :=
  { alone thr with clusters := [(0, { clusterReset with banks := clusterReset.banks.set 0 (inMode .scratch), copies := [c], ports := [⟨0, 16, some 100, 95, act⟩] })] }
theorem wit_CopyEngines_beat : (∃ o, BankServes (copyAtPort beating (.copyRead 0 9 0)) 0 (.copyRead 0 9 0) o) ∧ CopyIs (copyAtPort beating (.copyRead 0 9 0)) 0 9 beating ∧
    (∃ o, BankServes (copyAtPort beatSent (.copyWrite 0 9 0)) 0 (.copyWrite 0 9 0) o) ∧ CopyIs (copyAtPort beatSent (.copyWrite 0 9 0)) 0 9 beatSent ∧
    beating.reads.find? (fun x => x.n = 0) = some beat8 ∧ beatSent.sent.find? (fun x => x.n = 0) = some beat8 ∧ shSnear rec64 = true ∧ shDnear rec64 = true ∧ copyShadow beating = false ∧
    elemBytes beating rec64 0 8 false = (List.range 8).map (fun k => 0x1000 + BitVec.ofNat 64 k) ∧ elemBytes beating rec64 0 8 true = (List.range 8).map (fun k => 0x2000 + BitVec.ofNat 64 k) ∧
    (∀ k < 8, nearFault (clusterAt (withCopy [beating] []) 0) (0x1000 + k) .copy = none ∧ nearFault (clusterAt (withCopy [beating] []) 0) (0x2000 + k) .copy = none) ∧
    (∀ p ∈ eachByte beat8.src, placeErr (copyAtPort beating (.copyRead 0 9 0)) p 1 = false) :=
  ⟨⟨_, ⟨0, 16, some 100, 95, .copyRead 0 9 0⟩, by decide +kernel, rfl, rfl⟩, ⟨rfl, by decide +kernel, by decide +kernel⟩, ⟨_, ⟨0, 16, some 100, 95, .copyWrite 0 9 0⟩, by decide +kernel, rfl, rfl⟩,
    ⟨rfl, by decide +kernel, by decide +kernel⟩, by decide +kernel, by decide +kernel, by decide +kernel, by decide +kernel, by decide +kernel, by decide +kernel, by decide +kernel, by decide +kernel, by decide +kernel⟩
theorem wit_CopyEngines_sides : SideOk (copyAtPort beating (.copyRead 0 9 0)) 0 true (elemBytes beating rec64 0 8 false) (eachByte beat8.src) ∧
    SideOk (copyAtPort beatSent (.copyWrite 0 9 0)) 0 true (elemBytes beatSent rec64 0 8 true) (eachByte beat8.dst) := by
  have ok (c : CopyEnt) (act : PortAct) (as : List Word) (ps : List Place) (h : as.map BitVec.toNat = (List.range 8).map (0x1000 + ·) ∨ as.map BitVec.toNat = (List.range 8).map (0x2000 + ·))
      (hp : ps = as.map (fun a => .near 0 a.toNat)) (hb : (clusterAt (copyAtPort c act) 0).banks = clusterReset.banks.set 0 (inMode .scratch)) : SideOk (copyAtPort c act) 0 true as ps := by
    refine ⟨hp, fun a ha => ?_⟩
    have hm := List.mem_map_of_mem (f := BitVec.toNat) ha
    have : ∀ n, n ∈ (List.range 8).map (0x1000 + ·) ∨ n ∈ (List.range 8).map (0x2000 + ·) → nearFault (clusterAt (copyAtPort copy1 (.copyRead 0 9 0)) 0) n .copy = none := by
      intro n hn
      simp only [List.mem_map, List.mem_range] at hn
      obtain ⟨k, hk, rfl⟩ | ⟨k, hk, rfl⟩ := hn <;> revert k <;> decide +kernel
    have hn := this a.toNat (h.imp (fun e => by rwa [e] at hm) (fun e => by rwa [e] at hm))
    rw [← hn]; rfl
  exact ⟨ok _ _ _ _ (.inl (by decide +kernel)) (by decide +kernel) rfl, ok _ _ _ _ (.inr (by decide +kernel)) (by decide +kernel) rfl⟩
/-- The write of a beat to a global destination, and to a far near-memory bank through its aperture. -/
def recFar : Line := (0x1000 : Line) ||| (0x2000 <<< 64) ||| ((0x1010 : Line) <<< 192) ||| ((64 : Line) <<< 224)
def farDest : CopyEnt := { copy1 with engine := some 0, shape := some recFar, reads := [{ beat8 with dst := [(.hbm 0x102000, 8)] }], pages := [⟨0, 16, true, false, 100, 0x100017, 0, 0, none, true, false⟩] }
theorem wit_CopyEngines_write : shDnear recFar = false ∧ pageFault farDest true (elemBytes farDest recFar 0 8 true) = none ∧ CopyIs (withCopy [farDest] []) 0 9 farDest ∧
    farDest.waiting = [] ∧ beat8.dstAt ≤ 100 ∧ (∀ p ∈ eachByte [((.hbm 0x102000 : Place), 8)], ∀ g' off, p ≠ .near g' off) ∧
    liveBank (clusterAt (withCopy [farDest] []) 0) (0x2000 / 2 ^ 17) = some 0 :=
  ⟨by decide +kernel, by decide +kernel, ⟨rfl, by decide +kernel, by decide +kernel⟩, rfl, by decide, fun p h g' off e => by subst e; revert h; simp [eachByte, placeAdd], by decide +kernel⟩
/-- A record with a near completion word at offset 0x3000, and one at 0x3004. -/
def recCw (a : Line) : Line := rec64 ||| (0x8002 <<< 192) ||| (a <<< 128)
theorem wit_CopyEngines_end : ctlBit rec64 2 = false ∧ ctlBit rec64 1 = false ∧ ctlBit (recCw 0x3000) 1 = true ∧ ctlBit (recCw 0x3000) 2 = false ∧ shAnear (recCw 0x3000) = true ∧
    (recCw 0x3000).extractLsb' 128 64 = 0x3000 ∧ nearFault (clusterAt (withCopy [] []) 0) 0x3000 .copy = none ∧ ((recCw 0x3004).extractLsb' 128 64).toNat % 8 ≠ 0 := by decide +kernel

/-! ### Banks, publishing -/

def bankState (m0 m1 : BankMode) (slot1 : Nat) : State :=
  { alone thr with clusters := [(0, { clusterReset with banks := (clusterReset.banks.set 0 (inMode m0)).set 1 { inMode m1 with slot := slot1 } })] }
/-- A launch of the thread that permits BANKCFG. -/
def permits (fl : Byte) (s : State) : State :=
  { s with launches := [⟨1, 1, 0, 0, { parseLaunch [] with flags := fl }, [], [], [], false, false, false⟩] }
theorem wit_BankChanges : HasBankPerm (permits 8 (alone thr)) thr ∧ ¬ HasBankPerm (alone thr) thr ∧ namedMode 0x2000 = some .scratch ∧ namedMode 0xA000 = none ∧
    Clash (bankState .scratch .cache 0) 0 1 .scratch 0 ∧ Twinless (bankState .scratch .cache 0) 0 1 .shadow 3 ∧
    (bankOf (alone thr) 0 31).waitStart = none ∧ CanUse (alone thr) thr (.bankcfg always (.g 1)) [.g 1] none ∧ NoChannel [.g 1] :=
  ⟨⟨_, rfl, by decide +kernel⟩, (fun h => h.elim fun _ h => nomatch h.1), by decide, by decide, ⟨.inl rfl, 0, by decide, by decide, .inl (by decide +kernel), by decide +kernel⟩,
    ⟨1, by decide, by decide +kernel, by unfold twinned newMap; decide +kernel⟩, by decide +kernel, ⟨rfl, rfl⟩, by unfold NoChannel; decide⟩
theorem wit_BankChanges_free : ∀ r, ¬ Refused (permits 8 (alone thr)) 0 thr 0 (some .scratch) 0 r := by
  intro r h
  have nc : ¬ Clash (permits 8 (alone thr)) 0 0 .scratch 0 := by unfold Clash serves; decide +kernel
  have nt : ¬ ((bankOf (permits 8 (alone thr)) 0 0).mode = .off ∨ Twinless (permits 8 (alone thr)) 0 0 .scratch 0) := by unfold Twinless twinned newMap; decide +kernel
  have := (((h.2 nc).2 nt).2 ⟨_, rfl, by decide +kernel⟩).2
  exact absurd this (by decide +kernel)
/-- A BANKCFG of bank 3 that waits to start. -/
def starting : State :=
  { alone { thr with park := some ⟨.event, some (.bankcfg always (.g 1)), 90⟩ } with
    clusters := [(0, { clusterReset with banks := clusterReset.banks.set 3 { bankReset with waitStart := some (⟨0, 8⟩, .watch, 3) } })] }
theorem wit_BankChanges_start : (bankOf starting 0 3).waitStart = some (⟨0, 8⟩, .watch, 3) ∧ bankQuiet starting 0 3 = true ∧ bankWaiters starting 0 3 = [] ∧ fifoParked starting 0 3 = [] ∧
    (∀ l ∈ (clusterAt starting 0).cache, l.way = 3 → l.dirty = 0) ∧ Blanked .cache .watch ∧ TopCleared .scratch .watch ∧ ¬ Blanked .shadow .scratch ∧ ¬ TopCleared .shadow .scratch := by
  unfold TopCleared Blanked; decide +kernel
/-- Its start finds it allowed to a launch with the permission, and refused to a thread of none. -/
theorem wit_BankChanges_judged : (∀ r, ¬ Refused (permits 8 starting) 0 thr 3 (some .watch) 3 r) ∧ Refused starting 0 thr 3 (some .watch) 3 8 := by
  have nc : ∀ s ∈ [starting, permits 8 starting], ¬ Clash s 0 3 .watch 3 := by unfold Clash serves; decide +kernel
  have nt : ∀ s ∈ [starting, permits 8 starting], ¬ ((bankOf s 0 3).mode = .off ∨ Twinless s 0 3 .watch 3) := by unfold Twinless twinned newMap; decide +kernel
  refine ⟨fun r h => ?_, fun h => absurd h (nc _ (by simp)), fun _ => ⟨fun h => absurd h (nt _ (by simp)), fun _ => ⟨fun _ => rfl, fun h => h.elim fun _ h => nomatch h.1⟩⟩⟩
  exact absurd (((h.2 (nc _ (by simp))).2 (nt _ (by simp))).2 ⟨_, rfl, by decide +kernel⟩).2 (by decide +kernel)
theorem wit_Publishing : tokState (withCopy [] [(9, ⟨9, 3, none, 0⟩)]) 0 9 = 3 ∧ (3, 1) ∈ [(2, 0), (3, 1), (4, 2)] ∧ earlier (alone thr) 1 = [] ∧ (earlier posted 1).length = 1 ∧
    LiveAt (bankState .scratch .shadow 0) 0 0 0 ∧ TwinAt (bankState .scratch .shadow 0) 0 0 1 ∧ (∀ w, ¬ TwinAt (bankState .scratch .cache 0) 0 0 w) ∧ (∀ b, ¬ LiveAt (alone thr) 0 0 b) :=
  ⟨by decide +kernel, by decide, by decide +kernel, by decide +kernel, by unfold LiveAt; decide +kernel, by unfold TwinAt; decide +kernel,
    fun w h => absurd (h.symm.trans (show twinBank (clusterAt (bankState .scratch .cache 0) 0) 0 = none by decide +kernel)) (by simp),
    fun b h => absurd (h.symm.trans (show bankWhere (clusterAt (alone thr) 0) (fun x => x.slot = 0 && (x.mode = .scratch || x.mode = .watch)) = none by decide +kernel)) (by simp)⟩
theorem wit_Publishing_swap : PublishWaits (alone { thr with park := some ⟨.event, none, 90⟩, latch := some [1, 0] }) ⟨0, 8⟩ { thr with park := some ⟨.event, none, 90⟩, latch := some [1, 0] } ⟨.event, none, 90⟩ 1 0 :=
  ⟨rfl, rfl, rfl, fun e h => absurd (show e ∈ ([] : List _) from h) (by simp)⟩
/-- A page with twin frames, in the cluster's TLB. -/
def twinState : State := { alone { thr with park := some ⟨.event, none, 90⟩, latch := some [0, 65536, 0] } with clusters := [(0, { clusterReset with tlb := [⟨0, 0, 16, 0x100047, 0, 0⟩] })] }
theorem wit_Publishing_point : (∃ s' d, publishPages twinState 0 0 0 (min (2 ^ 57) 65536) 1024 0 0 = (s', d, .ok [(0, 0x100047, 0)])) ∧ inFlightTo twinState [(0, 0x100047, 0)] = false ∧
    twinLeaf 0x100047 0 = some 0x110047 ∧ twinState.holders = [] ∧ thr.cont ≠ 4 ∧ (∀ x ∈ twinState.clusters, ∀ l ∈ x.2.cache, l.dirty = 0) :=
  ⟨⟨_, _, rfl⟩, by decide +kernel, by decide +kernel, rfl, by decide, by decide +kernel⟩
/-- The publish point waits for an access to the page, and for a peer that holds a window frame whose export entry names it. -/
def publishBusy : State := { twinState with ops := [⟨3, 1, ⟨0, 8⟩, 0, .st, none, none, some (req .ldfe (.hbm 0x100000)), 0, 0⟩] }
def publishHeld : State := { twinState with holders := [⟨1, 0, 5, 40⟩], hbm := memPutBytes [] 40 (leBytes 8 0x100000) }
theorem wit_Publishing_waits : inFlightTo publishBusy [(0, 0x100047, 0)] = true ∧ (∃ h ∈ publishHeld.holders, inFrames 0x100047 0 (.hbm (frameOfExport publishHeld h.frame * 65536)) = true) ∧
    ¬ (∃ h ∈ twinState.holders, inFrames 0x100047 0 (.hbm (frameOfExport twinState h.frame * 65536)) = true) := by decide +kernel
/-- Its parts: the release that is complete, with a page to translate, and one that names none. -/
def releasedPub : Thread := { thr with cont := 2, latch := some [0, 65536, 0], release := some 90 }
theorem wit_Publishing_parts : InPart (alone releasedPub) releasedPub always 2 ∧ releasedPub.st = 0 ∧ releasedPub.release.getD 0 ≤ 100 ∧
    (∃ s' d, publishPages { twinState with cores := (alone releasedPub).cores } 0 0 0 (min (2 ^ 57) 65536) 1024 0 0 = (s', d, .ok [(0, 0x100047, 0)])) ∧
    (∃ ti, (publishPages (alone releasedPub) 0 0 0 (min (2 ^ 57) 65536) 1024 0 0).2.2 = .error ti) := ⟨⟨rfl, rfl, rfl, rfl⟩, rfl, by decide, ⟨_, _, rfl⟩, ⟨_, rfl⟩⟩

/-! ### Translation -/

theorem wit_Translation : tlbRow (.tlbinv always .die (.g 1) (.g 2)) = some (always, .die, [.g 1, .g 2]) ∧ tlbRow (.tlbinvAll always .core) = some (always, .core, []) ∧
    CanUse (alone thr) thr (.tlbinv always .die (.g 1) (.g 2)) [.g 1, .g 2] none ∧
    Course { thr with latch := some [0x10000, 0x10000] } (.tlbinv always .die (.g 1) (.g 2)) always .die (some (0x10000, 0x20000)) ∧ Course thr (.tlbinvAll always .core) always .core none :=
  ⟨rfl, rfl, ⟨rfl, rfl⟩, .inl ⟨_, _, _, _, rfl, rfl, by decide +kernel⟩, .inr ⟨rfl, rfl⟩⟩
/-- Three tables and a leaf at level 0: root 0x4000, PAGE's L2 index 0x070 (R377's example). -/
def tables : List Host.Cell :=
  memPutBytes (memPutBytes (memPutBytes (memPutBytes [] 0x4000 (leBytes 8 0x8C01)) 0x8380 (leBytes 8 0xAC01)) 0xA000 (leBytes 8 0xCC01)) 0xC000 (leBytes 8 0x00712000_00120107)
theorem wit_Translation_walk : walk { State.reset with hbm := tables } 0x4000 0x0000_0700_0000_0000 = .leaf 0x00712000_00120107 0 ∧
    walk { State.reset with hbm := tables } 0x4000 0 = .bad 0 0 2 := by decide +kernel
def xl (w : Bool) : Xl := ⟨0x4000, 0x0000_0700_0000_0000, true, w, false, false, false, true, 0x201⟩
def translating (w : Bool) : Thread := { thr with park := some ⟨.translation (xl w) none, none, 90⟩ }
def walking (w : Bool) (leaf : Word) : State :=
  { alone (translating w) with hbm := memPutBytes tables 0xC000 (leBytes 8 leaf) }
theorem wit_Translation_ends : Translating (walking false 0x100017) ⟨0, 8⟩ (translating false) ⟨.translation (xl false) none, none, 90⟩ (xl false) none ∧
    LeafFor (walking false 0x100017) ⟨0, 8⟩ (xl false) 0x100017 0 ∧ refusalOf (xl false) 0x100017 0 = none ∧ apOf 0x100017 = 0 ∧ refusalOf (xl true) 0x100013 0 = some (0x11, 4) ∧
    refusalOf (xl false) 0x00712000_00120107 0 = none ∧ apOf 0x00712000_00120107 = 1 ∧ exportRefusal (xl false) 0 = some (0x10, 6) ∧ exportRefusal (xl false) 3 = none ∧
    walk (walking false 0) 0x4000 (xl false).va = .bad 0 0 0 :=
  ⟨⟨rfl, rfl, rfl⟩, .inr ⟨by decide +kernel, by decide +kernel⟩, by decide +kernel, by decide, by decide +kernel, by decide +kernel, by decide, by decide, by decide, by decide +kernel⟩
/-- No port has a key; what leaves goes by one. -/
theorem wit_Translation_ports : Unkeyed (alone thr) ∧ Leaves (alone thr) 0 (.peer 0xE24 0) := ⟨fun _ => ⟨rfl, rfl⟩, fun _ _ _ => ⟨rfl, .inl rfl⟩⟩
/-- Peer package 0xE2's frame 0x12 has no entry in the cluster's TLB; it has one; and the answer is waited for, 1 and 4 timeouts long. -/
def peerEnt (dead : Bool) : PeerTlbEnt := ⟨0x4000, 0xE24, 0x12, 0x50003, [0x0700_0000], 0, dead⟩
def askingPeer (n : Nat) (e : List PeerTlbEnt) : State :=
  { alone { thr with park := some ⟨.translation (xl false) (some (0x00712000_00120107, 0)), none, 90⟩ } with now := n, clusters := [(0, { clusterReset with peerTlb := e })] }
theorem wit_Translation_peer : peerHit (clusterAt (walking false 0) 0) 0x4000 0xE24 0x12 = none ∧ peerHit (clusterAt (askingPeer 100 [peerEnt false]) 0) 0x4000 0xE24 0x12 = some (peerEnt false) ∧
    (peerEnt false).entry.getLsbD 0 = true ∧ ((0x00712000_00120107 : Word).extractLsb' 43 21).toNat = 0xE24 ∧ pageAddr 0x00712000_00120107 0 (xl false).va / 65536 = 0x12 ∧
    ((askingPeer 131200 []).now - 90) / 131072 = 1 ∧ ((askingPeer 524400 []).now - 90) / 131072 = 4 ∧
    (∃ th pk, Translating (askingPeer 131200 []) ⟨0, 8⟩ th pk (xl false) (some (0x00712000_00120107, 0))) :=
  ⟨by decide +kernel, by decide +kernel, by decide, by decide, by decide, by decide, by decide, _, _, rfl, rfl, rfl⟩
/-- A TLBINV.DIE of pages 1 with a walk, an access and a peer's translation that it finds. -/
def invalTh (n : Nat) : Thread := { thr with cont := n, latch := some [0x10000, 0x10000], release := some 100 }
def invalSt (n : Nat) (w : Option Why) : State :=
  { State.reset with now := 100, cur := ⟨0, 8⟩, nextUid := 9, nextId := 9, cores := [(0, { coreReset with
      slots := [(8, { slotReset with occ := .busy (invalTh n) }), (9, { slotReset with occ := .busy { thr with uid := 2, park := w.map (fun y => ⟨y, none, 50⟩) } })] })] }
def farPage1 : MemReq := { req (.load 8) (.hbm 0x100000) with va := 0x10000, lanes := [⟨0, .hbm 0x100000, 0x10000, false, 0, 0⟩] }
theorem wit_Translation_waits : InPart (invalSt 2 none) (invalTh 2) always 2 ∧ WalkOpen (invalSt 2 (some (.translation { xl false with root := 0, va := 0x10008 } none))) 0 .die 0 (some (0x10000, 0x20000)) ∧
    AccessOpen (invalSt 3 (some (.far farPage1))) 0 .die 0 (some (0x10000, 0x20000)) 100 ∧ ¬ WalkOpen (invalSt 2 none) 0 .die 0 (some (0x10000, 0x20000)) ∧
    (invalTh 1).st = 0 ∧ (0x10000, 0x20000) ≠ ((0x10000, 0x10000) : Nat × Nat) := by
  have ov (n : Nat) : Overlaps (some (0x10000, 0x20000)) 0x10000 (n + 1) := by rintro a b ⟨⟩; omega
  refine ⟨⟨rfl, rfl, rfl, rfl⟩, .inl ⟨⟨0, 9⟩, _, _, _, none, by simp [allThreads, coreThreads, invalSt]; rfl, rfl, rfl, rfl, rfl, by rintro a b ⟨⟩; decide⟩,
    .inl ⟨⟨0, 9⟩, _, _, _, by simp [allThreads, coreThreads, invalSt]; rfl, rfl, rfl, rfl, rfl, by decide, by decide, rfl, ⟨0, .hbm 0x100000, 0x10000, false, 0, 0⟩, by decide +kernel, by rintro a b ⟨⟩; decide⟩,
    fun h => ?_, rfl, by decide⟩
  obtain ⟨u, th, pk, x, leaf, h, _, hp, _⟩ | ⟨w, h, _⟩ := h
  · have : ∀ y ∈ allThreads (invalSt 2 none), y.2.park = none := by decide +kernel
    rw [this _ h] at hp; cases hp
  · exact absurd (show w ∈ ([] : List Walk) from h) (by simp)
/-- Invalidations: of an entry whose frame an access of the cluster still uses, and of one that none does. -/
def usesPeer : State := { askingPeer 100 [peerEnt false] with ops := [⟨3, 1, ⟨0, 8⟩, 0, .st, none, none, some (req (.load 8) (.peer 0xE24 0x50008)), 0, 0⟩] }
theorem wit_Translation_invalidation : PeerAccess usesPeer 0xE24 0 (frameOf (peerEnt false).entry) ∧ ¬ PeerAccess (askingPeer 100 [peerEnt false]) 0xE24 0 (frameOf (peerEnt false).entry) := by
  refine ⟨.inl ⟨_, List.mem_singleton.2 rfl, _, rfl, rfl, _, List.mem_singleton.2 rfl, 0x50008, rfl, by decide⟩, fun h => ?_⟩
  obtain ⟨o, h, _⟩ | ⟨u, th, pk, q, h, hp, hw, _⟩ | ⟨c, h, _⟩ := h
  · exact absurd (show o ∈ ([] : List Op) from h) (by simp)
  · have : ∀ y ∈ allThreads (askingPeer 100 [peerEnt false]), y.2.park = some ⟨.translation (xl false) (some (0x00712000_00120107, 0)), none, 90⟩ := by decide +kernel
    rw [this _ h] at hp; cases hp; cases hw
  · exact absurd (show c ∈ ([] : List CopyEnt) from h) (by simp)
def mailReady (h : List Holder) : State := { State.reset with boot := { bootReset with ready := true }, holders := h }
theorem wit_Translation_agent : MailFree (mailReady []) ∧ ¬ MailFree State.reset ∧ (∃ h ∈ (mailReady [⟨1, 0, 5, 40⟩]).holders, 4 ≤ h.frame ∧ h.frame < 4 + 2) ∧
    ({ mailReady [⟨1, 0, 5, 40⟩] with inval := some (4, 2) } : State).inval = some (4, 2) ∧ (mailReady [⟨1, 0, 5, 40⟩]).holders.length < 65536 :=
  ⟨⟨rfl, rfl⟩, fun h => absurd h.1 (by decide), ⟨_, List.mem_singleton.2 rfl, by decide, by decide⟩, rfl, by decide⟩
/-- A line of the firmware that has been downloaded, for the steward. -/
def firmSt : State := { stewardOf { thr with pc := Config.stewardBase + 4 } with boot := { bootReset with step := 4, imageLen := some 64 } }
theorem wit_Translation_firm : 4 ≤ firmSt.boot.step ∧ (Config.stewardBase - Config.stewardBase).toNat + 64 ≤ firmSt.boot.imageLen.getD 0 ∧
    thread? firmSt ⟨0, 0⟩ = some { thr with pc := Config.stewardBase + 4 } := ⟨by decide, by rw [BitVec.sub_self]; decide, rfl⟩
/-- The line at 0x1000 can be fetched; and it cannot. -/
def fetchState (x : Bool) : State := onCore { coreReset with tlb := [⟨0, 0, 16, if x then 0x10001F else 0x100017, 0, 0⟩] } thr
theorem wit_Translation_fetch : xlate (fetchState true) 0 ⟨0, 0x1000, false, false, false, true, false, false, 0⟩ = .ok (.hbm 0x101000) 0x10001F 0 ∧
    findLn (coreAt (fetchState true) 0) 0 0x1000 = none ∧ (∃ ti, xlate (fetchState false) 0 ⟨0, 0x1000, false, false, false, true, false, false, 0⟩ = .refuse ti) ∧ lineVa thr.pc = 0x1000 :=
  ⟨by decide +kernel, by decide +kernel, ⟨⟨0x06, 0x1000, _⟩, rfl⟩, by decide +kernel⟩

/-! ### The fabric -/

def flit (id inPort waiting : Nat) : Flit := ⟨id, false, ⟨5, 3, 0, 16, 0, 8, 0, 1, 0, false⟩, 0, inPort, 90, waiting, .reply ⟨0, 8⟩ 0 ⟨7, 0, none, false, []⟩, 2⟩
def withFlits (l : List Flit) : State := { alone thr with flits := l }
theorem wit_Fabric : AtInput (withFlits [flit 1 0 0]) false 0 (flit 1 0 0) ∧ OneFlit (withFlits [flit 1 0 0]) (flit 1 0 0) ∧
    AtInjection (withFlits [flit 1 4 0]) false 0 (flit 1 4 0) ∧ ¬ Stopped (alone thr) ∧ BestPort 0 3 1 ∧ BestPort 0 16 2 :=
  ⟨⟨by decide +kernel, rfl, rfl, by decide, by decide⟩, by unfold OneFlit; decide +kernel, ⟨by decide +kernel, rfl, rfl, rfl, by decide⟩, by unfold Stopped; decide +kernel,
    by unfold BestPort; decide, by unfold BestPort; decide⟩
/-- A flit at the router of its bank, whose port queue is empty; and as long as the unit's queue can be. -/
def crowded : State := { alone thr with clusters := [(0, { clusterReset with ports := List.replicate (Config.unitQueue 16 + 1) ⟨0, 18, some 100, 90, .copyRecord 1⟩ })] }
def arrived0 : Flit := { flit 1 0 0 with hdr := { (flit 1 0 0).hdr with drouter := 0 } }
theorem wit_Fabric_accepts : Accepts (withFlits [arrived0]) arrived0 ∧ ¬ Accepts crowded arrived0 := by
  have h : unitWaiting crowded arrived0 = Config.unitQueue 16 + 1 := by
    show ((List.replicate (Config.unitQueue 16 + 1) (⟨0, 18, some 100, 90, .copyRecord 1⟩ : PortReq)).filter (fun r => r.port = 18)).length = _
    simp
  refine ⟨.inr (.inl (by decide +kernel)), fun a => ?_⟩
  rcases a with a | a | a
  · cases a
  · omega
  · rw [h] at a; exact absurd a (by show ¬ Config.unitQueue 16 + 1 < Config.unitQueue 16; omega)
/-- The header of a flit; the port for a package east of this one, and for one of another field; a port with a key. -/
theorem wit_Fabric_wire : hdrFits (flit 1 0 0).hdr = true ∧ ([1, 2] : List Byte).length ≤ 48 ∧ 1 / 1024 = (alone thr).pkg / 1024 ∧ 1 ≠ (alone thr).pkg ∧ 2048 / 1024 ≠ (alone thr).pkg / 1024 ∧
    BestMesh (alone thr).pkg 1 1 := ⟨by decide, by decide, by decide, by decide, by decide, by unfold BestMesh; decide +kernel⟩
def keyedOut (c : Nat) : State := { alone thr with trust := { trustReset with links := [(2 * extPort (alone thr) 0 1 + 1, ⟨some 1, c, 0, false⟩)] } }
theorem wit_Fabric_out : (look (2 * extPort (keyedOut 5) 0 1 + 1) (keyedOut 5).trust.links) = some ⟨some 1, 5, 0, false⟩ ∧ (linkOf (keyedOut 5) (extPort (keyedOut 5) 0 1)).down = false ∧
    (look (2 * extPort (keyedOut 5) 0 1 + 1) (keyedOut (2 ^ 54 - 1)).trust.links) = some ⟨some 1, 2 ^ 54 - 1, 0, false⟩ ∧ (keyedOut 5).holders.length < 65536 := by decide +kernel
theorem wit_Fabric_starved : (∃ f ∈ (withFlits [flit 1 4 128]).flits, f.router = 0 ∧ f.inPort = 4 ∧ 128 ≤ f.waiting) ∧ (withFlits [flit 1 4 128]).starved = none ∧
    ¬ (∃ f ∈ (withFlits [flit 1 4 127]).flits, f.router = 0 ∧ f.inPort = 4 ∧ 128 ≤ f.waiting) ∧ 8 ≤ (flit 1 0 8).waiting ∧ (flit 1 0 7).waiting < 8 := by decide +kernel
def keyedLink (c f : Nat) : State := { alone thr with trust := { trustReset with links := [(2, ⟨some 1, c, f, false⟩)] } }
theorem wit_Fabric_link : (linkOf (keyedLink 5 7) 1).key = some 1 ∧ (linkOf (keyedLink 5 7) 1).down = false ∧ (linkOf (keyedLink 5 7) 1).failures = 7 ∧
    2 ^ 54 - 1 ≤ (linkOf (keyedLink (2 ^ 54 - 1) 0) 1).counter := by decide +kernel
/-- Transfers at the boundary of dies 0 and 1, and at the host link, whose turn die 100 mod 8 = 4 has. -/
def crossing (path : List Nat) : Transfer := ⟨(0, 1), 95, path, 3, .reply ⟨0, 8⟩ 0 ⟨7, 0, none, false, []⟩, 2⟩
def toHost : Transfer := ⟨(4, 8), 95, [], 3, .reply ⟨0, 8⟩ 0 ⟨7, 0, none, false, []⟩, 2⟩
def carrying : State := { alone thr with bridges := [crossing [], crossing [2]], hostLink := [toHost] }
theorem wit_Fabric_transfers : dueAt carrying 0 1 = [crossing [], crossing [2]] ∧ (ahead (dueAt carrying 0 1) (crossing [2])).length ≤ 83 ∧ dueHost carrying = [toHost] ∧
    toHost.at_.1 = carrying.now % 8 ∧ 2 ^ 40 < (2 ^ 40 : Nat) + max 1 ([] : List Byte).length ∧ (0 : Nat) + max 1 [(1 : Byte)].length ≤ 2 ^ 40 := by decide +kernel

/-! ### Tasks -/

def frame (entry join : Word) : Frame := ⟨entry, 1, 2, 3, 4, join, 0, 0, 0, 0, false, 0⟩
/-- An inline task at depth 1 with its caller's frame resident. -/
def inTask : Thread := { thr with depth := 1, lower := [frame0], inlines := [(1, 0x40)] }
def homeCore : Core := { coreReset with tlb := [⟨0, 0, 16, 0x100017, 0, 0⟩] }
theorem wit_Tasks_quit : (∀ x ∈ thr.inlines, x.1 ≠ thr.depth) ∧ inTask.inlines.find? (fun y => y.1 = inTask.depth) = some (1, 0x40) ∧ ({ thr with joinAddr := 0x40 } : Thread).joinAddr ≠ 0 ∧
    xlate (onCore homeCore inTask) 0 ⟨rootOf (onCore homeCore inTask) inTask, 0x40, true, true, true, false, false, false, 0x18B⟩ = .ok (.hbm 0x100040) 0x100017 0 ∧
    dirtyFor (onCore homeCore inTask) 0 .pkg = false ∧ blockers (onCore homeCore inTask) 1 (.hbm 0x100040) = [] ∧ earlier (onCore homeCore inTask) 1 = [] ∧ inTask.lower = frame0 :: [] ∧ (∃ x ∈ inTask.inlines, x.1 = inTask.depth) := by decide +kernel
/-- A full deque, and a spill area with CAP 32, COUNT 0; with CAP 31 there is no room. -/
def dqFull (cap : Word) : State :=
  { onCore { coreReset with deque := List.replicate 64 ⟨frame 0x1000 0x40, some 50⟩ } thr with hbm := memPutBytes [] 0 (leBytes 8 cap) }
theorem wit_Tasks_spawn : CanUse (alone thr) thr (.spawn always false (.g 3) (.g 1) (.g 2) (.g 0)) ([.g 1, .g 2] ++ traceArg (.g 0)) (some (.g 3)) ∧ Full (dqFull 32) 0 ∧ ¬ Jammed (dqFull 32) 0 ∧
    Jammed (dqFull 31) 0 ∧ enterOk (alone thr) 0 (frame 0x1000 0x40) = true :=
  ⟨⟨rfl, rfl⟩, by unfold Full; decide +kernel, by unfold Jammed Full; decide +kernel, by unfold Jammed Full; decide +kernel, by decide +kernel⟩
/-- A launch that replays a list without entries: no frame of it may enter (R332). -/
def replaying : State :=
  { onCore { coreReset with moves := [⟨0, 0, 0, false, 0, false⟩] } thr with launches := [⟨1, 1, 0, 0, { parseLaunch [] with flags := 4, moveList := 0x1000 }, [], [], [], false, false, false⟩] }
theorem wit_Tasks_divergent : enterOk replaying 0 (frame 0x1000 0x40) = false := by decide +kernel
theorem wit_Tasks_spawnat : (vals (alone (g12 0x1000 0x40 thr)) (g12 0x1000 0x40 thr) ([.g 1, .g 2] ++ traceArg (.g 0) ++ [.g 4])).getLastD 0 = 0 ∧
    (∀ x ∈ (alone thr).ops, x.id ≠ (alone thr).nextId) ∧ traceArg (.g 5) = [.g 5] := by decide +kernel
/-- The thread in the middle of its JOIN, with the newest frame of its own group ready. -/
def joining (dq : List DqEnt) : State := onCore { homeCore with deque := dq } { thr with cont := 2, latch := some [0x40, 3] }
theorem wit_Tasks_join : InPart (joining []) { thr with cont := 2, latch := some [0x40, 3] } always 2 ∧ ((3 : Word) ≠ 0 ∧ (3 : Word).msb = false) ∧ (0x8000000000000000 : Word).msb = true ∧
    InlineOk (joining [⟨frame 0x1000 0x40, some 50⟩]) { thr with cont := 2, latch := some [0x40, 3] } 0x40 (frame 0x1000 0x40) ∧ (∀ f, ¬ InlineOk (joining []) thr 0x40 f) ∧
    joinDiverges (joining []) 0 0 0x40 = none ∧ ¬ LoadsBelow thr ∧ LoadsBelow { thr with absent := [.w 47] } :=
  ⟨⟨rfl, rfl, rfl, rfl⟩, by decide, by decide, ⟨by unfold NewestReady; decide +kernel, rfl, by decide, by decide, by decide, by decide +kernel⟩,
    fun f h => absurd (show (none : Option Frame) = some _ from h.1) (by simp), by decide +kernel, (fun h => h.elim fun _ h => nomatch h.1),
    ⟨47, by decide, by decide +kernel, by decide +kernel⟩⟩
theorem wit_Tasks_wait : xlate (joining []) 0 ⟨rootOf (joining []) thr, 0x40, true, false, true, false, false, false, 0x388⟩ = .ok (.hbm 0x100040) 0x100017 0 ∧ blockers (joining []) 1 (.hbm 0x100040) = [] := by decide +kernel
theorem wit_Tasks_yield : CanUse (alone thr) thr (.yieldTok always 5 (.g 3) (.g 1)) [.g 1] none ∧ Apart [.g 1] (.g 3) ∧
    (let i := Instr.yieldWord always .eq true 5 (.g 1) (.g 2)
     let x := yieldAccess always .eq true (.g 1) (.g 2)
     NearOk (withBank .scratch (alone (g12 0x20 0 thr))) x 0x20 { request (alone (g12 0x20 0 thr)) (g12 0x20 0 thr) i x (nearAt (alone thr) 0x20) with parked := true, opId := 9 } ∧
       Unheld (withBank .scratch (alone (g12 0x20 0 thr))) (g12 0x20 0 thr) x (nearAt (alone thr) 0x20)) ∧
    FarOk (onCore homeCore (g12 0x20 0 thr)) (g12 0x20 0 thr) (.yieldWord always .eq false 5 (.g 1) (.g 2)) (yieldAccess always .eq false (.g 1) (.g 2)) (.hbm 0x100020) 0x100017 0 :=
  ⟨⟨rfl, rfl⟩, .inl rfl, ⟨⟨rfl, by decide, by decide +kernel, by decide +kernel, by decide +kernel⟩, ⟨rfl, nofun⟩⟩, ⟨rfl, by decide, by decide +kernel, nofun, nofun, by decide, nofun, nofun⟩⟩
/-- CHKPT with a save due, and with one that has been refused. -/
def dueSave (b : Bool) : Thread := { thr with saveDue := some ⟨80, false, false, 900, b, none⟩ }
theorem wit_Tasks_chkpt : (∀ d, (dueSave true).saveDue = some d → d.blocked = true) ∧ (∃ d, (dueSave false).saveDue = some d ∧ d.blocked = false) := by decide +kernel
/-- The JOIN's counter has changed, to 0, since it began to wait. -/
theorem wit_Tasks_judged : Judges (alone { thr with cont := 2, latch := some [0x40, 3] }) { thr with cont := 2, latch := some [0x40, 3] } always 0x40 3 ∧
    Judges (onCore homeCore { thr with cont := 3, latch := some [0x40, 3] }) { thr with cont := 3, latch := some [0x40, 3] } always 0x40 0 :=
  ⟨.inl ⟨⟨rfl, rfl, rfl, rfl⟩, rfl⟩, .inr ⟨⟨rfl, rfl, rfl, rfl⟩, 3, .hbm 0x100040, 0x100017, 0, rfl, by decide, by decide +kernel, by decide +kernel⟩⟩
theorem wit_Tasks_yoke : CanUse (stewardOf thr) thr (.yoke always (.g 3)) [] (some (.g 3)) ∧ (alone thr).cur.slot = 8 ∧ (slotAt (myCore { alone thr with cur := ⟨0, 9⟩ }) (mateOf 9)).occ = .free ∧
    (slotAt (myCore (alone thr)) (mateOf 9)).owner = thr.launch.toNat / 1024 ∧ ({ thr with mate := some emptySet } : Thread).mate = some emptySet ∧ (Instr.xmovFrom always (.v 3) (.v 1)).wf = true :=
  ⟨⟨rfl, rfl⟩, rfl, by decide +kernel, by decide +kernel, rfl, by decide⟩
theorem wit_Tasks_migrate : MigrateRefused (alone thr) thr 2048 ∧ ¬ MigrateRefused (alone thr) thr 2047 ∧ CanLeave (alone thr) thr ∧ ¬ CanLeave (alone thr) { thr with st := 1 } ∧
    InPart (alone { thr with cont := 5, latch := some [3] }) { thr with cont := 5, latch := some [3] } always 5 :=
  ⟨.inl (by decide), by unfold MigrateRefused; decide +kernel, by unfold CanLeave; decide +kernel, by unfold CanLeave; decide +kernel, ⟨rfl, rfl, rfl, rfl⟩⟩
/-- The thread of slot 0 with a page for the context or frame, and its instruction's second part. -/
def starter (n : Nat) : State :=
  { stewardOf { g12 15 0x40 thr with cont := n, latch := some [15, 0x40] } with cores := [(0, { homeCore with slots := [(0, { slotReset with occ := .busy { g12 15 0x40 thr with cont := n, latch := some [15, 0x40] } })] })] }
theorem wit_Tasks_start : (starter 1).cur.slot = 0 ∧ (slotAt (myCore (starter 1)) 15).occ = .free ∧
    xlate (starter 1) 0 ⟨0, 0x40, true, false, false, false, false, true, 0x38E⟩ = .ok (.hbm 0x100040) 0x100017 0 ∧ InPart (starter 1) { g12 15 0x40 thr with cont := 1, latch := some [15, 0x40] } always 1 ∧
    (slotAt (myCore (starter 1)) 15).freeAt ≤ 100 ∧ (agentRead { starter 1 with clusters := [(0, { clusterReset with tlb := [⟨0, 0, 16, 0x100017, 0, 0⟩] })] } 0 0 0x40 64).2.isSome = true :=
  ⟨rfl, by decide +kernel, by decide +kernel, ⟨rfl, rfl, rfl, rfl⟩, by decide +kernel, by decide +kernel⟩
/-- A thread beside that of slot 0. -/
def withVictim (x : Thread) : State :=
  { stewardOf thr with cores := [(0, { coreReset with slots := [(0, { slotReset with occ := .busy thr }), (15, { slotReset with occ := .busy { x with uid := 2 } })] })] }
theorem wit_Tasks_reap : thread? (withVictim thr) ⟨0, 15⟩ = some { thr with uid := 2 } ∧ thread? (withVictim thr) ⟨0, 14⟩ = none ∧ CanUse (withVictim thr) thr (.reap always (.g 3) (.g 1)) [.g 1] none :=
  ⟨rfl, rfl, ⟨rfl, rfl⟩⟩
theorem wit_Tasks_reap_busy : ∃ pk, ({ thr with park := some ⟨.engine 3, none, 90⟩ } : Thread).park = some pk ∧ pk.why = .engine 3 := ⟨_, rfl, rfl⟩

/-! ### The deque's events, waits and saves -/

def dq64 : List DqEnt := (List.range 64).map (fun n => ⟨{ frame 0x1000 0x40 with seq := BitVec.ofNat 24 n }, some 50⟩)
def spillState (sp : List DqEnt) : State := { onCore { coreReset with deque := dq64, spilling := sp } thr with hbm := memPutBytes [] 0 (leBytes 8 32) }
theorem wit_TaskEvents : Full (spillState []) 0 ∧ ¬ Jammed (spillState []) 0 ∧ (∀ e ∈ dq64.drop 32, e.ready ≠ none) ∧ SpillArea (spillState []) 0 ∧ (spillState dq64).cores ≠ [] ∧ dq64 ≠ [] :=
  ⟨by unfold Full; decide +kernel, by unfold Jammed Full; decide +kernel, by decide +kernel, ⟨⟨0, by decide +kernel⟩, by decide +kernel⟩, by decide, by decide⟩
def decOp : Op := ⟨6, 1, ⟨0, 8⟩, 0, .dec, none, none, none, 0, 0⟩
def quitting : State := { onCore homeCore thr with ops := [decOp], clusters := [(0, { clusterReset with tlb := [⟨0, 0, 16, 0x100017, 0, 0⟩] })] }
theorem wit_TaskEvents_join : quitting.ops.find? (fun x => x.id = 6) = some decOp ∧ (0x40 : Word).toNat % 8 = 0 ∧
    (∃ s1, clusterPlace quitting 0 ⟨(queueAt quitting 0).root.toNat, 0x40, true, true, true, false, false, false, 0x18B⟩ = (s1, 0, .ok (.hbm 0x100040, 0x100017, 0, 0))) ∧
    (clusterPlace { quitting with clusters := [] } 0 ⟨(queueAt quitting 0).root.toNat, 0x40, true, true, true, false, false, false, 0x18B⟩).2.1 ≠ 0 ∧ decOp.resends = 0 :=
  ⟨by decide +kernel, by decide, ⟨_, rfl⟩, by decide +kernel, rfl⟩
def claiming (c : Nat) : State := onCore { coreReset with claim := some (frame 0x1000 0x40, c, 5), dqspill := 0x1000 } thr
theorem wit_TaskEvents_claim : (coreAt (claiming 82) 0).claim = some (frame 0x1000 0x40, 82, 5) ∧ 82 + 18 ≤ (claiming 82).now ∧ (claiming 83).now < 83 + 18 ∧ slotTakes (claiming 82) 0 1 0 = true ∧
    ¬ Full (claiming 82) 0 ∧ (coreAt (claiming 82) 0).dqPush ≤ 100 ∧ slotTakes (claiming 82) 0 1 63 = false ∧ ¬ Idle (claiming 82) 0 := by
  refine ⟨rfl, by decide, by decide, by decide +kernel, by unfold Full; decide +kernel, by decide, by decide +kernel, fun h => absurd h.2.1 (by simp [claiming, onCore, coreAt, look])⟩
theorem wit_TaskEvents_idle : Idle (alone thr) 0 :=
  ⟨rfl, rfl, rfl, nofun, 0, ⟨1, by decide, by decide, by decide +kernel, by decide +kernel, by decide +kernel⟩, fun f h => by
    obtain ⟨e, h, _⟩ | ⟨i, h, _⟩ | ⟨h, _⟩ := h
    · exact absurd (show e ∈ ([] : List DqEnt) from h) (by simp)
    · exact absurd (show i < 0 by rwa [show spillCnt (alone thr) 0 = 0 by decide +kernel] at h) (by omega)
    · exact absurd rfl h⟩
/-- A launch that replays a list whose next entry can be read, and is no steal. -/
def listed : Launch := ⟨1, 1, 0, 0, { parseLaunch [] with flags := 4, moveList := 0x0700_0000_0000 }, [], [], [], false, false, false⟩
def replayState (th : Thread) : State :=
  { onCore { coreReset with moves := [⟨0, 0, 1, false, 0, false⟩] } th with
    launches := [listed], now := 300000
    queues := [(0, { queueReset with root := 0x4000 })]
    hbm := memPutBytes (memPutBytes (memPutBytes tables 0xC000 (leBytes 8 0x100017)) 0x100000 (leBytes 8 0x0700_0000_1000)) 0x101000 (leBytes 8 0x12) }
theorem wit_TaskEvents_listed : (∃ l ∈ (replayState thr).launches, ∃ w0 w1, nextMove (replayState thr) 0 l = .entry w0 w1) ∧
    (∀ l ∈ (replayState thr).launches, nextMove (replayState thr) 0 l = .entry 0x12 0) ∧ 0x12 % 16 ≠ 4 :=
  ⟨⟨listed, List.mem_singleton.2 rfl, 0x12, 0, by decide +kernel⟩, by decide +kernel, by decide⟩
theorem wit_TaskEvents_steal : SpillArea (spillState []) 0 ∧ Stealable (spillState []) 0 1 1 (frame 0x1000 0x40) ∧ ¬ Stealable (spillState []) 0 1 2 (frame 0x1000 0x40) ∧ ReadyIn (spillState []) 0 ⟨frame 0x1000 0x40, some 50⟩ :=
  ⟨⟨⟨0, by decide +kernel⟩, by decide +kernel⟩, ⟨rfl, by decide, by decide +kernel⟩, fun h => absurd h.2.1 (by decide), ⟨by decide +kernel, ⟨50, rfl, by decide⟩, by decide +kernel⟩⟩
theorem wit_TaskEvents_arrive : (coreAt (alone thr) 0).retired = false ∧ enterOk (alone thr) 0 (frame 0x1000 0x40) = true ∧ ¬ Jammed (alone thr) 0 ∧ ¬ Full (alone thr) 0 ∧ (coreAt (alone thr) 0).dqPush ≤ 100 ∧
    slotTakes (alone thr) 0 1 0 = true ∧ thr.mate = none ∧ (coreAt (alone thr) 0).dqPop ≤ 100 := ⟨rfl, by decide +kernel, by unfold Jammed Full; decide +kernel, by unfold Full; decide +kernel, by decide, by decide +kernel, rfl, by decide⟩
/-- A spilled frame that the thief may take; a slot for which the deque has none, so that the spill area refills it. -/
def spilledState : State :=
  { onCore { coreReset with dqspill := 0x2000 } thr with
    hbm := memPutBytes (memPutBytes [] 0x2000 (leBytes 8 32 ++ leBytes 8 3 ++ leBytes 8 2)) (0x2000 + 64 + 64 * 3) (frameBytes (frame 0x1000 0x40)) }
theorem wit_TaskEvents_spilled : spillCnt spilledState 0 = 2 ∧ spillHead spilledState 0 = 3 ∧ Stealable spilledState 0 1 1 (spillFrame spilledState 0 3) ∧ SpillArea spilledState 0 ∧
    slotTakes spilledState 0 1 (slotAt (coreAt spilledState 0) 1).owner = true ∧ (coreAt spilledState 0).refilling = false ∧ (coreAt spilledState 0).spilling = [] ∧ ¬ Full spilledState 0 ∧
    (∀ x, ReadyIn spilledState 0 x → ¬ Stealable spilledState 0 1 2 x.f) :=
  ⟨by decide +kernel, by decide +kernel, ⟨by decide +kernel, by decide +kernel, by decide +kernel⟩, ⟨⟨0x2000, by decide +kernel⟩, by decide +kernel⟩, by decide +kernel, rfl, rfl, by unfold Full; decide +kernel,
    fun x h => absurd (show x ∈ ([] : List DqEnt) from h.1) (by simp)⟩
/-- A MIGRATE's context on its way; the load it left outstanding, with its forwarding entry. -/
def moving (n : Nat) : Thread := { thr with cont := n, park := some ⟨.event, some (.migrate always (.g 3) (.g 1)), 90⟩, latch := some [1], release := some 90 }
theorem wit_TaskEvents_migrate : (∃ p d a, (Park.mk .event (some (.migrate always (.g 3) (.g 1))) 90).retry = some (.migrate p d a)) ∧ slotTakes (alone (moving 7)) 1 1 0 = true ∧
    (∀ n < 16, slotTakes { alone (moving 7) with cores := (alone (moving 7)).cores ++ [(1, { coreReset with retired := true })] } 1 n 0 = false) := ⟨⟨_, _, _, rfl⟩, by decide +kernel, by decide +kernel⟩
def ldOp : Op := ⟨5, 1, ⟨0, 8⟩, 0, .ld, some ⟨.none, 0, 0, none⟩, none, none, 0, 0⟩
def forwarding : State := { onCore { coreReset with forwards := [⟨1, [5], true⟩] } thr with ops := [ldOp] }
theorem wit_TaskEvents_forward : forwarding.ops.find? (fun x => x.id = 5) = some ldOp ∧ (coreAt forwarding 0).forwards.find? (fun f => 5 ∈ f.ops) = some ⟨1, [5], true⟩ ∧
    findUid forwarding 1 = some (⟨0, 8⟩, thr) ∧ (∀ f ∈ (coreAt (alone thr) 0).forwards, 5 ∉ f.ops) := by decide +kernel

theorem wit_ThreadEvents : thread? (alone { thr with park := some alignPark }) ⟨0, 8⟩ = some { thr with park := some alignPark } ∧ (100 : Nat) < alignPark.since + 256 ∧
    alignPark.since + 256 ≤ ({ alone { thr with park := some alignPark } with now := 346 } : State).now ∧ alignPark.why = .align 3 ∧ alignPark.retry = some (.align always 3) ∧
    stillHeld (alone waitsFar) 1 = false ∧ farQ.op ≠ .join ∧ waitsAtHome (.waita .eq 8 0) = true := ⟨rfl, by decide, by decide, rfl, rfl, by decide +kernel, by simp [farQ, req], rfl⟩
/-- A wait that has been withdrawn at its home, at its limit and for a save. -/
def withdrawnPark : Park := ⟨.replied { farQ with op := .waita .eq 8 0 } ⟨3, 0, none, true, []⟩, none, 90⟩
theorem wit_ThreadEvents_withdrawn : (∃ q r, withdrawnPark.why = .replied q r ∧ r.fault = none ∧ r.withdrawn = true) ∧
    (∃ d, ({ thr with cont := 9, saveDue := some ⟨80, false, true, 900, false, none⟩ } : Thread).saveDue = some d ∧ d.full = true) := ⟨⟨_, _, rfl, rfl, rfl⟩, ⟨_, rfl, rfl⟩⟩
def due : SaveDue := ⟨90, true, false, 100, false, none⟩
theorem wit_ThreadEvents_save : due.plan = none ∧ due.deadline ≤ (alone thr).now ∧ EndsAtOnce (alone thr) thr waitPark ∧ waitsAtHome (.waita .eq 8 0) = true ∧ HomeOp.waita .eq 8 0 ≠ .join ∧
    thr.ld = 0 ∧ thr.st = 0 ∧ thr.tl = 0 := ⟨rfl, by decide, trivial, rfl, nofun, rfl, rfl, rfl⟩
/-- A queue whose save pool lies in HBM, and a saved thread. -/
def pool : Queue := { queueReset with root := 0x4000, savelen := 0x100000, poolUsed := [(0, 64)] }
theorem wit_ThreadEvents_pool : poolRoom pool 4096 = some 64 ∧ poolRoom queueReset 4096 = none := by decide +kernel
/-- A thread that stands still for its save; its image's place in the pool; and an image that its restore reads. -/
def planned : SavePlan := ⟨0xFFFF, false, false, false, none⟩
def savingThr (p : SavePlan) : Thread := { thr with park := some ⟨.event, none, 90⟩, saveDue := some { due with plan := some p } }
def savingSt (p : SavePlan) : State :=
  { alone (savingThr p) with queues := [(0, { pool with savepool := 0x0700_0000_0000 })], hbm := memPutBytes tables 0xC000 (leBytes 8 0x100017) }
theorem wit_ThreadEvents_image : (poolRoom (queueAt (savingSt planned) 0) (savedBytes (savingSt planned) ⟨0, 8⟩ (savingThr planned) planned).length).isSome = true ∧
    (unitPlace (savingSt planned) 0 (poolAt (savingSt planned) 0 64) true).isSome = true ∧ unitSpan (savingSt planned) 0 (poolAt (savingSt planned) 0 64) 4096 true = true ∧
    (unitWrite (savingSt planned) 0 (poolAt (savingSt planned) 0 64) (List.replicate 128 1)).isSome = true ∧ (unitRead (savingSt planned) 0 (poolAt (savingSt planned) 0 64) 4096).isSome = true := by decide +kernel
def savedThr : Saved := ⟨2, 0, { thr with uid := 2 }, ⟨0, 9⟩, 0xFFFF, false, 0, false, [], [], 64, 4096, false, 90⟩
theorem wit_ThreadEvents_restore : ({ savingSt planned with saved := [savedThr] } : State).saved.find? (fun y => y.queue = 0 && y.uid = 2 && !y.held) = some savedThr ∧
    slotTakes (savingSt planned) 0 9 0 = true ∧ permitted (savingSt planned) savedThr 0 9 = true ∧ mateOk (savingSt planned) savedThr 0 9 = true := by decide +kernel
/-- A list that has not gone on for its deadline, with a thread in JOIN, with a ready frame of the launch, and with neither; and one that cannot be read. -/
def joinThr : Thread := { thr with park := some ⟨.joinWait (.hbm 0) 3 none, some (.join always (.g 1)), 90⟩ }
theorem wit_ThreadEvents_list : nextMove (replayState joinThr) 0 listed = .entry 0x12 0 ∧ (moveSt (replayState thr) 0 listed).since + (queueAt (replayState thr) 0).deadline ≤ (replayState thr).now ∧
    (coreThreads 0 (coreAt (replayState joinThr) 0)).find? (fun x => x.2.launch = 0 && InJoin x.2) = some (⟨0, 8⟩, joinThr) ∧
    (coreThreads 0 (coreAt (replayState thr) 0)).find? (fun x => x.2.launch = 0 && InJoin x.2) = none ∧ nextMove { replayState thr with hbm := [] } 0 listed = .bad ∧
    launchOf (replayState thr) 0 = some listed := by decide +kernel
theorem wit_ThreadEvents_ready : Lies (onCore { coreReset with deque := [⟨frame 0x1000 0x40, some 50⟩] } thr) 0 (frame 0x1000 0x40) ∧ launchOfFrame (frame 0x1000 0x40) = 0 :=
  ⟨.inl ⟨_, List.mem_singleton.2 rfl, rfl, by simp⟩, by decide⟩
theorem wit_ThreadEvents_balance : 0 < weightSum (alone thr) 0 ∧ 0 ∈ (alone thr).cores.map Prod.fst ∧ (queueAt (alone thr) 0).weight = 1 := by decide +kernel

/-! ### Queues, launches -/

/-- Queue 0, its root's page 0x70000000000 in HBM at 0x100000: a ring header there, its ring at +0x1000, its tags at +0x2000; the
notification ring's header at +0x40 with the same ring. -/
def vaQ : Nat := 0x0000_0700_0000_0000
def header (prod cons : Nat) : List Byte := bytesLE (vaQ + 0x1000) 8 ++ bytesLE 4096 8 ++ bytesLE prod 8 ++ bytesLE cons 8 ++ bytesLE (vaQ + 0x2000) 8 ++ List.replicate 24 0
def queueMem (prod cons : Nat) (tag : Byte) (rec : List Byte) : List Host.Cell :=
  memPutBytes (memPutBytes (memPutBytes (memPutBytes tables 0xC000 (leBytes 8 0x100017)) 0x100000 (header prod cons)) 0x102000 [tag]) 0x101000 rec
def queueOn : Queue := { queueReset with root := 0x4000, ring := BitVec.ofNat 64 vaQ, notify := BitVec.ofNat 64 vaQ, enable := true, prod := 64 }
def queueState (q : Queue) (tag : Byte) (rec : List Byte) : State :=
  { alone thr with queues := [(0, q)], hbm := queueMem 64 0 tag rec, boot := { bootReset with ready := true } }
def ring0 : Ring := ⟨vaQ + 0x1000, 4096, 64, 0, vaQ + 0x2000⟩
/-- A SIGNAL record. -/
def signalRec : List Byte := bytesLE (0x03000020) 8 ++ bytesLE (vaQ + 0x3000) 8 ++ bytesLE 5 8 ++ List.replicate 8 0
theorem wit_QueueEvents : Running queueOn ∧ queueRing (queueState queueOn 2 signalRec) 0 = some ring0 ∧ queueRing (alone thr) 0 = none ∧ (queueState queueOn 2 signalRec).boot.ready = true ∧
    AtCons (queueState queueOn 2 signalRec) 0 ring0 2 (bytesLE 0x03000020 8) ∧ headErr queueOn ring0 2 (bytesLE 0x03000020 8) = none ∧ headErr queueOn ring0 2 (bytesLE 0x07000020 8) = some 1 ∧
    headErr queueOn ring0 2 (bytesLE 0x00001000 8) = some 4 ∧ headErr queueOn ring0 2 (bytesLE 0x00001008 8) = some 3 ∧ headErr queueOn ring0 4 (bytesLE 0x03000020 8) = some 5 :=
  ⟨⟨rfl, rfl, rfl⟩, by decide +kernel, by decide +kernel, rfl, ⟨⟨rfl, rfl, rfl⟩, by decide +kernel, by decide +kernel, by decide +kernel, by decide +kernel⟩, by decide +kernel, by decide +kernel,
    by decide +kernel, by decide +kernel, by decide +kernel⟩
theorem wit_QueueEvents_record : unitRead (queueState queueOn 2 signalRec) 0 (BitVec.ofNat 64 (vaQ + 0x1000)) 32 = some signalRec ∧ fieldsBad (queueState queueOn 2 signalRec) 0 signalRec = none ∧ recKind signalRec = 3 ∧
    parseRing (header 64 0) = some ring0 := by decide +kernel
def takenSt (bs : List Byte) : State := { queueState queueOn 2 bs with taken := [⟨7, 0, 0, bs, 5, 90, []⟩] }
theorem wit_QueueEvents_taken : IsTaken (takenSt signalRec) 7 ⟨7, 0, 0, signalRec, 5, 90, []⟩ ∧ (unitWrite (takenSt signalRec) 0 (recAddr signalRec) (bytesLE 5 8)).isSome = true ∧ (90 : Nat) ≠ (takenSt signalRec).now ∧
    modeHolds 0 5 5 ∧ ¬ modeHolds 1 5 5 ∧ modeHolds 2 5 5 := ⟨by unfold IsTaken; decide +kernel, by decide +kernel, by decide, by unfold modeHolds; decide, by unfold modeHolds; decide, by unfold modeHolds; decide⟩
theorem wit_QueueEvents_note : notifyRing (queueState queueOn 0 []) 0 = some ring0 ∧ (∀ e ∈ (queueState queueOn 0 []).escal, (queueState queueOn 0 []).now / 16 ≤ e.cycle / 16) ∧
    (schedWord 1 0 0).body.length = 56 ∧ (ring0.prod + 2 ^ 64 - ring0.cons) % 2 ^ 64 + 64 ≤ ring0.size ∧ (⟨⟨0, 8⟩, 1, 90, 0, ⟨3, 0, 0⟩, 0x0401⟩ : Escal).launch.toNat / 1024 ≠ 0 ∧ (⟨⟨0, 8⟩, 1, 90, 0, ⟨3, 0, 0⟩, 0x0401⟩ : Escal).t.slot ≠ 0 ∧ (90 : Nat) / 16 < 100 / 16 := by decide +kernel
/-- A PREEMPT record of slot 8 of core 0 whose thread is still being saved; and whose thread has gone elsewhere and is no longer. -/
def preemptRec : List Byte := bytesLE 0x06000020 8 ++ bytesLE 0 2 ++ bytesLE 0x100 2 ++ List.replicate 20 0
def beingSaved : Thread := { thr with saveDue := some due }
def preempting (th : Thread) (n : Nat) : State := { queueState queueOn 2 [] with cores := (alone th).cores, now := n, taken := [⟨7, 0, 0, preemptRec, 5, 90, [1]⟩] }
theorem wit_QueueEvents_preempt : IsTaken (preempting beingSaved 200) 7 ⟨7, 0, 0, preemptRec, 5, 90, [1]⟩ ∧ Names ⟨7, 0, 0, preemptRec, 5, 90, [1]⟩ 8 ∧
    findUid (preempting beingSaved 200) 1 = some (⟨0, 8⟩, beingSaved) ∧ BeingSaved beingSaved ∧ ¬ BeingSaved thr ∧ 90 + 10 + 5 * slotCount ⟨7, 0, 0, preemptRec, 5, 90, [1]⟩ ≤ 105 ∧
    (∀ x ∈ allThreads (preempting thr 200), thread? (preempting thr 200) x.1 = some x.2 ∧ x.2.mate = none) :=
  ⟨by unfold IsTaken; decide +kernel, by unfold Names; decide +kernel, by decide +kernel, ⟨rfl, due, rfl, rfl⟩, (fun h => h.2.elim fun _ h => nomatch h.1), by decide +kernel, by decide +kernel⟩
/-- A launch of one core, core 0 of die 0, with one thread, in each phase of cluster 0. -/
def rec1 : LaunchRec := { parseLaunch [] with ext := Vector.replicate 4 1, tile := Vector.replicate 4 1, nthreads := 1, nstages := 1, posHi := 0 }
def launchAt (p : ClPhase) : Launch := ⟨1, 7, 0, 1, rec1, [(0, p)], [], [], false, false, false⟩
def launching (l : Launch) : State := { queueState queueOn 2 [] with launches := [l], taken := [⟨7, 0, 0, [], 0, 90, []⟩] }
theorem wit_LaunchEvents : LaunchIs (launching (launchAt .waitMap)) 1 (launchAt .waitMap) ∧ stageIn (launchAt .waitMap) 0 = .waitMap ∧ mapReady (launching (launchAt .waitMap)) (launchAt .waitMap) 0 = true ∧
    ¬ Waits (launching { launchAt .waitMap with waiting := true }) { launchAt .waitMap with waiting := true } ∧ Waits (launching { launchAt .waitMap with waiting := true }) { launchAt .waitMap with waiting := true, lid := 2 } ∧ stageIn (launchAt .mapped) 0 = .mapped ∧ stageIn (launchAt (.preloading 0 [])) 0 = runAt false 0 [] ∧
    stageIn (launchAt (.writing 0 [])) 0 = runAt true 0 [] :=
  ⟨by unfold LaunchIs; decide +kernel, by decide +kernel, by decide +kernel, by unfold Waits OneGroup; simp [launching, launchAt, rec1, parseLaunch]; decide +kernel, .inl ⟨_, List.mem_singleton.2 rfl, rfl, rfl, by decide⟩, by decide +kernel, by decide +kernel, by decide +kernel⟩
theorem wit_LaunchEvents_start : launchWaits (launching (launchAt .preloaded)) 0 (launchAt .preloaded) = true ∧ launchHeld (launching (launchAt .preloaded)) 1 = false ∧
    rec1.nthreads ≤ (takingSlots (launching (launchAt .preloaded)) 0 0).length ∧ replayMode rec1 = 0 ∧ (look 0 (launchAt .preloaded).starts).getD 0 ≤ 100 := by decide +kernel
theorem wit_LaunchEvents_done : Quiet (launching (launchAt .preloaded)) 1 ∧ (∀ x ∈ (launchAt .preloaded).clusters, x.2 = .preloaded) ∧ coreSet rec1 = [0] ∧
    startsOn rec1 0 = true ∧ (0 : Nat) ∈ ({ launchAt .preloaded with startedCores := [0] } : Launch).startedCores :=
  ⟨by unfold Quiet; decide +kernel, by decide +kernel, by decide +kernel, by decide +kernel, by decide⟩
/-- A record that passes: 256 bytes, one core, one thread, extents and tiles of 1. -/
def goodRec : List Byte := (List.range 256).map (fun i => if i ∈ [0, 2, 3, 46, 47] then (if i = 2 then 0 else 1) else if i ∈ [16, 20, 24, 28, 32, 34, 36, 38] then 1 else 0)
theorem wit_LaunchEvents_record : launchMalformed (queueState queueOn 2 []) 0 goodRec = none ∧ (∀ n ∈ (parseLaunch goodRec).ext.toList, n ≠ 0) ∧ launchMalformed (queueState queueOn 2 []) 0 [] = some 32 := by decide +kernel

/-! ### Boot, trust, tests -/

def bootSt (b : Boot) : State := { State.reset with boot := b }
theorem wit_BootAndPower : ImageOk (bootSt { bootReset with imageLen := some 1, image := [(0, 5)] }) 1 ∧ (∀ j < 1, look j (bootSt { bootReset with imageLen := some 1, image := [(0, 5)] }).boot.image ≠ none) ∧
    PctlOk 0x1194_00000000 ∧ ¬ PctlOk 0x03E7_00000000 ∧ ¬ PctlOk 0x1195_00000000 ∧ (115 : BitVec 8).toNat = 115 ∧
    State.reset.cores.Pairwise (fun a b => a.1 < b.1) ∧ State.reset.clusters.Pairwise (fun a b => a.1 < b.1) :=
  ⟨⟨by decide, by decide⟩, by decide, by unfold PctlOk; decide, by unfold PctlOk; decide, by unfold PctlOk; decide, rfl, by decide, by decide⟩
def mailOpen : State := bootSt { bootReset with ready := true, attest := true }
theorem wit_TrustAndTests : MailFree mailOpen ∧ ({ mailOpen with trust := { trustReset with session := true } } : State).trust.session = true ∧ mailOpen.boot.leafUsed < 2 ^ 20 ∧ ¬ PathChanged mailOpen 0x1000 ∧
    ¬ InUse (tableEntry mailOpen 0x1000 4095) ∧ mailOpen.trust.handshake = false := ⟨⟨rfl, rfl⟩, rfl, by decide, by simp [PathChanged, mailOpen, bootSt, State.reset, trustReset], by unfold InUse; decide +kernel, rfl⟩
theorem wit_TrustAndTests_unit : Untested (alone thr) .engine 0 0 3 ∧ ¬ Retired (alone thr) .engine 0 0 3 ∧ Fenceable (alone thr) .engine 0 0 3 ∧ Fenceable (alone thr) .sram 0 0 31 ∧ ¬ Fenceable (alone thr) .regfile 0 0 8 :=
  ⟨by simp [Untested, TestIs, alone, onCore, State.reset], by unfold Retired; decide +kernel, trivial, .inl (by decide +kernel), by unfold Fenceable; decide +kernel⟩
def testSt (x : UnitTest) : State := { alone thr with tests := [x] }
theorem wit_TrustAndTests_verdict : TestIs (testSt ⟨.engine, 0, 0, 3, 100, false, 0⟩) .engine 0 0 3 ⟨.engine, 0, 0, 3, 100, false, 0⟩ ∧ (100 : Nat) ≤ (testSt ⟨.engine, 0, 0, 3, 100, false, 0⟩).now ∧
    TestIs (testSt ⟨.engine, 0, 0, 3, 0, true, 0⟩) .engine 0 0 3 ⟨.engine, 0, 0, 3, 0, true, 0⟩ := ⟨by unfold TestIs; decide +kernel, by decide, by unfold TestIs; decide +kernel⟩
theorem wit_TrustAndTests_selftest : CanUse (stewardOf thr) thr (.selftest always (.g 3) (.g 1)) [.g 1] none ∧ (stewardOf thr).cur.slot = 0 ∧ unitOfCode 0 = none ∧ (unitOfCode 0x0F03).isSome = true ∧
    InPart (stewardOf { thr with cont := 2, latch := some [9, 0] }) { thr with cont := 2, latch := some [9, 0] } always 2 := ⟨⟨rfl, rfl⟩, rfl, by decide +kernel, by decide +kernel, ⟨rfl, rfl, rfl, rfl⟩⟩
/-- A SCRATCH bank under test whose contents bank 1 can receive; a launch that holds the cluster's map; and a thread that waits for a verdict. -/
theorem wit_TrustAndTests_receives : Receives (withBank .scratch (alone thr)) 0 0 1 ∧ Fenceable (withBank .scratch (alone thr)) .sram 0 0 0 ∧
    memOk (withBank .scratch (alone thr)) = true := by
  have h : Receives (withBank .scratch (alone thr)) 0 0 1 := by unfold Receives; decide +kernel
  exact ⟨h, .inr ⟨by decide +kernel, by decide +kernel, .inl ⟨1, h⟩⟩, by decide +kernel⟩
def awaitsVerdict : Thread := { thr with cont := 1, latch := some [0x0F03], park := some ⟨.until 300, some (.selftest always (.g 3) (.g 1)), 90⟩ }
theorem wit_TrustAndTests_waiter : thread? (stewardOf awaitsVerdict) ⟨0, 0⟩ = some awaitsVerdict ∧ InPart (stewardOf { thr with cont := 1, latch := some [9] }) { thr with cont := 1, latch := some [9] } always 1 :=
  ⟨rfl, ⟨rfl, rfl, rfl, rfl⟩⟩

/-! ### A step -/

/-- The thread's line in its core's line buffer, at a cycle of its slot. -/
def ready (l : LineEnt) (th : Thread) : State := { onCore { coreReset with lines := [l] } th with now := 104, cur := ⟨0, 1⟩ }
theorem wit_StepRuns : HasCycle (ready addLine thr) ⟨0, 8⟩ thr ∧ StandsAt (ready addLine thr) ⟨0, 8⟩ thr 0 addLine ∧ LinePasses thr 0 addLine ∧ unitAt addLine.data 0 = [0] ∧
    decode (lineInstr addLine.data 0) = .ok addP1 ∧ unitWait thr (unitActive thr addLine.data [0]) = none :=
  ⟨⟨⟨rfl, by decide +kernel⟩, by decide, by decide +kernel, rfl, [], _, [], rfl, by decide⟩, ⟨rfl, by decide +kernel, by decide +kernel⟩, ⟨by decide +kernel, by decide +kernel, by decide⟩,
    by decide +kernel, wit_PredicateFalse_line.2.2.2.2, by decide +kernel⟩
/-- A line whose first two words are a pair, and one with a broken parity bit. -/
def pairLine : LineEnt := ⟨0, 0x1000, sealLine 1 1 [0x00000C040800000000000000, 0x00001014180000000000000000, 0x180 <<< 86, 0x180 <<< 86, 0x180 <<< 86], 50⟩
/-- The same thread once its line has been fetched again, with a fault that waits, and at a pc that names no instruction. -/
theorem wit_StepRuns_trap : HasCycle (ready addLine { thr with refetch := true }) ⟨0, 8⟩ { thr with refetch := true } ∧ HasCycle (ready addLine { thr with deferred := [⟨0x31, 0, 0⟩] }) ⟨0, 8⟩ { thr with deferred := [⟨0x31, 0, 0⟩] } ∧
    HasCycle (ready addLine { thr with pc := 0x1000 }) ⟨0, 8⟩ { thr with pc := 0x1000 } ∧ (ready addLine thr).power.gate = 0 :=
  ⟨⟨⟨rfl, by decide +kernel⟩, by decide, by decide +kernel, rfl, [], _, [], rfl, by decide⟩, ⟨⟨rfl, by decide +kernel⟩, by decide, by decide +kernel, rfl, [], _, [], rfl, by decide⟩,
    ⟨⟨rfl, by decide +kernel⟩, by decide, by decide +kernel, rfl, [], _, [], rfl, by decide⟩, rfl⟩
theorem wit_StepRuns_event : ({ State.reset with agenda := [(0, .bootCertify)] } : State).agenda = (0, .bootCertify) :: [] ∧ isProbe .bootCertify = false ∧ isPush .bootCertify = false := ⟨rfl, rfl, rfl⟩
theorem wit_StepRuns_pair : unitAt pairLine.data 0 = [0, 1] ∧ (parityCode (addLine.data ^^^ (1 <<< 40)) [0]).isSome = true ∧
    (unitWait { thr with absent := [.g 1] } (unitActive { thr with absent := [.g 1] } pairLine.data [0, 1])).isSome = true ∧ linePos 0x1000 = none := by decide +kernel
/-- Two words that decode, for RoundTrip and WordsHaveOneMeaning; a memory in canonical form from which a step goes on. -/
theorem wit_RoundTrip : (∃ f, toFields addP1 = some f) ∧ addP1.wf = true ∧ decode 0x00040C040800000000000000 = .ok addP1 := ⟨⟨_, rfl⟩, by decide, rfl⟩
theorem wit_MemoryStaysCanonical : memOk (ready addLine thr) = true ∧ (match step (ready addLine thr) with | .next _ => true | _ => false) = true := by decide +kernel

/-! ### Words written out from the spec's encodings -/

/-- R78's own word for ADDI w16, w16, −8; R337's for CPY g5, g6; R218's for STL.64.PKG [w2], g2. -/
theorem test_words_of_the_spec : decode 0x20008083FFFFFFFFFFE00000 = .ok (.addi always (.w 16) (.w 16) (-8)) ∧ decode 0xE00014180000000000000000 = .ok (.cpy always false false (.g 5) (.g 6) none none) ∧
    decode 0x80C008480002C00000000000 = .ok (.stl always .b64 .pkg (.g 2) ⟨false, .w 2, .g 0, 0, 0⟩) := ⟨rfl, rfl, rfl⟩
/-- R47, R75: OP 0x018, D g2, A g1, MOD[0] = .SX, IMM16 = len−1 ‖ pos. -/
theorem test_decode_class0 : decode (0x018 <<< 86 ||| 0x02 <<< 74 ||| 0x01 <<< 66 ||| 1 <<< 34 ||| 0x2C8 <<< 18) = .ok (.bext always true (.g 2) (.g 1) 8 11) := rfl
/-- R48, R78: OP 0x089, D g1, IMM48. -/
theorem test_decode_class1 : decode (0x089 <<< 86 ||| 0x01 <<< 74 ||| 0x123456789ABC <<< 18) = .ok (.movi always (.g 1) 0x123456789ABC) := rfl
/-- R49, R79: OP 0x10D under !p3, D g2, A w0, MOD: source FP32, RM 100, type BF16. -/
theorem test_decode_class2 : decode (0x10D <<< 86 ||| 0xB <<< 82 ||| 0x02 <<< 74 ||| 0x10 <<< 66 ||| 0b000100010 <<< 34) = .ok (.fcvt ⟨3, true⟩ .bf16 .f32 .rup (.g 2) (.w 0) (.g 0) 0) := rfl
/-- R50, R87: OP 0x188, D g1, IMM48 = −12. -/
theorem test_decode_class3 : decode (0x188 <<< 86 ||| 0x01 <<< 74 ||| 0xFFFFFFFFFFF4 <<< 18) = .ok (.loop always (.g 1) (-12)) := rfl
/-- R51, R217, R218: OP 0x200, D g3, A g1, B g2, MOD: SX, SIZE 10, N, SHIFT 3; IMM32 0x20. -/
theorem test_decode_class4 : decode (0x200 <<< 86 ||| 0x03 <<< 74 ||| 0x01 <<< 66 ||| 0x02 <<< 58 ||| 0b1101011 <<< 42 ||| 0x20 <<< 10) = .ok (.ld always .b32 true (.g 3) ⟨true, .g 1, .g 2, 3, 0x20⟩) := rfl
/-- R52, R162: OP 0x280, D v3, A v1, B v2, MOD: MSK 1, ET BF16, RM 011, Z. -/
theorem test_decode_class5 : decode (0x280 <<< 86 ||| 0x63 <<< 74 ||| 0x61 <<< 66 ||| 0x62 <<< 58 ||| 0b0010010111000000 <<< 34) = .ok (.vadd always .bf16 false ⟨1, .rz, true⟩ (.v 3) (.v 1) (.vec (.v 2))) := rfl
/-- R53, R124: OP 0x302, D acc2, floor −48. -/
theorem test_decode_class6 : decode (0x302 <<< 86 ||| 0x82 <<< 74 ||| 0xFFD0 <<< 18) = .ok (.accz always (.acc 2) (-48)) := rfl
/-- R54, R298: OP 0x388, A g4. -/
theorem test_decode_class7 : decode (0x388 <<< 86 ||| 0x04 <<< 66) = .ok (.join always (.g 4)) ∧ decode (0x3FF <<< 86) = .error ⟨0, 0, 0x3FF⟩ := ⟨rfl, rfl⟩
/-- R19's example: the line word 0x4A49. -/
theorem test_line_word : lineWord (sealLine 0b01001 0b0010 [0x7F, 0xFFF, 0x1FF, 3, 3]) = 0x4A49 := by decide +kernel

/-! ### Ill-formed terms, one for each check of well-formedness -/

theorem test_ill_formed_registers : (Instr.add ⟨0, true⟩ (.g 3) (.g 1) (.g 2)).wf = false ∧ (Instr.add always (.ident 4) (.g 1) (.g 2)).wf = false ∧ (Instr.add always (.g 3) (.v 1) (.g 2)).wf = false ∧
    (Instr.sel always (.g 3) (.g 1) (.g 2) (.g 4)).wf = false ∧ (Instr.cmp always .eq (.g 1) (.g 1) (.g 2)).wf = false ∧ (Instr.mov always (.v 1) (.g 1)).wf = false ∧ (Instr.mov always (.g 1) (.acc 1)).wf = false ∧
    (Instr.ld always .b64 false (.k 1) nearArg).wf = false ∧ (Instr.st always .b64 (.ch 1) nearArg).wf = false ∧ (Instr.ld always .b64 false (.g 1) ⟨true, .ch 1, .g 0, 0, 0⟩).wf = false ∧
    (Instr.arrive always (.k 1) grp0).wf = false ∧ (Instr.chbind always .slot (.g 1) 3).wf = false ∧ (Instr.mma always { i8Arg with d := .v 1 }).wf = false ∧ (Instr.mma always { i8Arg with mask := some (.v 1) }).wf = false ∧
    (Instr.fmtget always (.g 1) (.g 2)).wf = false ∧ (Instr.xmovFrom always (.g 1) (.v 1)).wf = false ∧ (Instr.xmovFrom always (.k 1) (.k 1)).wf = false ∧ (Instr.vsel always .f32 vm0 (.v 1) (.v 2) (.v 3) (.v 4)).wf = false := by decide
theorem test_ill_formed_modifiers : (Instr.fadd always .i64 .rne (.g 3) (.g 1) (.g 2)).wf = false ∧ (Instr.fadd always .f32 .sr (.g 3) (.g 1) (.g 2)).wf = false ∧ (Instr.fcvt always .i64 .u64 .rne (.g 2) (.g 1) (.g 0) 0).wf = false ∧
    (Instr.ld always .b64 true (.g 3) nearArg).wf = false ∧ (Instr.waita always .eq .b8 .cl ⟨true, .g 1, 0⟩ (.g 2)).wf = false ∧ (Instr.fence always .rlx .cl).wf = false ∧ (Instr.bar always (.g 1) ⟨true, 16⟩).wf = false ∧
    (Instr.chbind always .none (.ch 1) 3).wf = false ∧ (Instr.chbind always .nbr (.ch 1) 4).wf = false ∧ (Instr.chbind always .slot (.ch 1) 16).wf = false ∧ (Instr.vadd always .f32 true vm0 (.v 3) (.v 1) (.vec (.v 2))).wf = false ∧
    (Instr.vadd always .i32 false vm0 (.v 3) (.v 1) (.vec (.v 2))).wf = false ∧ (Instr.vmin always .f32 vm0 (.v 3) (.v 1) (.vec (.v 2))).wf = false ∧ (Instr.vadd always .f32 false vm0 (.v 3) (.v 1) (.imm 3)).wf = false ∧
    (Instr.vshl always .i32 ⟨0, .dyn, false⟩ (.v 3) (.v 1) (.bs (.g 1))).wf = false ∧ (Instr.vshuf always (.xor 16) .f32 ⟨0, .dyn, false⟩ (.v 3) (.v 1)).wf = false ∧ (Instr.vins always .f32 (.v 3) (.g 1) 16).wf = false ∧
    (Instr.vcvt always .f32 .bf16 vm0 (.v 3) (.v 1) 2).wf = false ∧ (Instr.mma always { i8Arg with fa := 1 }).wf = false ∧ (Instr.swr always .cnt (.g 1)).wf = false ∧
    (Instr.accst always .raw .rz 0 (.v 1) (.acc 1) none).wf = false := by decide

/-! ### Worked examples of the spec -/

def regOf1 (o : Host.Outcome State Fault Refusal) (n : Fin 16) : Option Word :=
  match o with
  | .next t => (thread? t t.cur).map (fun th => th.g[n])
  | _ => none
def ecauseOf (o : Host.Outcome State Fault Refusal) : Option (Word × Word × Word) :=
  match o with
  | .next t => (thread? t t.cur).map (fun th => (th.scr.ecause, th.scr.einfo, th.pc))
  | _ => none
/-- R74: DIVS of −7 by 2 gives −3, and REMS −1. -/
theorem test_divs : regOf1 (exec (.divs always (.g 3) (.g 1) (.g 2)) (alone (g12 (-7) 2 thr))) 3 = some (-3) ∧ regOf1 (exec (.rems always (.g 3) (.g 1) (.g 2)) (alone (g12 (-7) 2 thr))) 3 = some (-1) := by decide +kernel
/-- R75's example. -/
theorem test_bext : regOf1 (exec (.bext always true (.g 2) (.g 1) 8 11) (alone (g12 0xABCD00 0 thr))) 2 = some 0xFFFFFFFFFFFFFBCD := by decide +kernel
/-- R78's example: MOVI and then MOVHI. -/
theorem test_movhi : regOf1 (exec (.movi always (.g 1) 0x123456789ABC) (alone thr)) 1 = some 0x0000123456789ABC ∧ regOf1 (exec (.movhi always (.g 1) (.g 1) 0xDEF0) (alone (g12 0x0000123456789ABC 0 thr))) 1 = some 0xDEF0123456789ABC := by decide +kernel
/-- R84's example: 1 + 2^−10 to BF16 in RNE and RUP. -/
theorem test_fcvt : regOf1 (exec (.fcvt always .bf16 .f32 .rne (.g 2) (.g 1) (.g 0) 0) (alone (g12 0x3F802000 0 thr))) 2 = some 0x3F80 ∧ regOf1 (exec (.fcvt always .bf16 .f32 .rup (.g 2) (.g 1) (.g 0) 0) (alone (g12 0x3F802000 0 thr))) 2 = some 0x3F81 := by decide +kernel
/-- R95: TRAP 3 saves its cause, its number and its pc, and goes to scr.tvec with IN set. -/
theorem test_trap : ecauseOf (exec (.trap always 3) (alone thr)) = some (0x17F, 3, 0x2004) := by decide +kernel
/-- R195: E4M3 code 0x79 is 288; R184's image of N = 4.75 × 2^48 at floor −48 (R206). -/
theorem test_numbers : (roundTo fmtF32 .rne (valueOf (fmtOfReg 0x20739) 0x79) 0).1 = 0x43900000 ∧
    cellImage 0x4C00000000000 .fin (-48) = [0, 0, 0, 0, 0, 0xC0, 4, 0, 0, 0, 0, 0, 0, 0, 0, 0, 0, 0, 0, 0, 0, 0, 0, 0, 0xD0, 0xFF, 0, 0, 0, 0, 0, 0] := by decide +kernel
/-- R210: 2.5 into E2M1 under SR is 3.0 for a draw below 32,768 and 2.0 from there on. -/
theorem test_stochastic : (roundTo (fmtOfReg 0x115) .sr (valueOf fmtF32 0x40200000) 32767).1 = 5 ∧ (roundTo (fmtOfReg 0x115) .sr (valueOf fmtF32 0x40200000) 32768).1 = 4 := by decide +kernel
/-- R257, R259: the aperture address of near offset 0x2_3456 of cluster 89; the channel of 0xA3_1234_5680. -/
theorem test_places : localPlace 0x40016423456 = some (.near 89 0x23456) ∧ hbmUnit 0xA312345680 = 10 * 32 + 0x16 ∧ hbmDie 0xA312345680 = 5 ∧ routerOf (5 * 16 + 9) = 101 := by decide +kernel
/-- R379's example: the AMOF of the peer program meets its leaf with RAP clear. -/
theorem test_rap : leafJudge ⟨0, 0x0000070000000040, true, true, true, false, false, false, 0x20F⟩ 0x0071200000120107 0 = some ⟨0x12, 0x0000070000000040, 0x00000107000B720F⟩ := by decide +kernel
/-- The word that withFetchWord places is the one that the next step runs. -/
theorem test_withFetchWord : regOf1 (step (State.reset.withFetchWord 96 (0x089 * 2 ^ 86 + 2 ^ 74 + 7 * 2 ^ 18))) 1 = some 7 := by decide +kernel

end Sys2Proof.Tests
end

section
/-! SUPPORT. An instruction at its turn: its operands are read, its scalar result is written, or it traps. The rules are stated
in the words of the statements (`AtTurn`, `CanUse`, `popped`, `wrote`, `trapped`). -/
namespace Sys2Proof.Proofs
open Sys2Proof Sys2Proof.Machine Sys2Proof.Says

/-! ### Operands and results -/

/-- The meaning of an instruction at its turn whose operands can be used, on the popped state and the operand values. -/
theorem guarded_operands {s : State} {th : Thread} {p : Pred} {i : Instr} {rs : List Reg} {d : Option Reg} (h : AtTurn s th p)
    (hu : CanUse s th i rs d) (k : Thread → State → List Word → State) :
    guarded p s (fun th => operands s th i rs d (k th)) = .next (k th (popped s th rs) (takeOps s th rs).2) := by
  obtain ⟨hth, hp, -, hlatch, -⟩ := h
  obtain ⟨hf, hb⟩ := hu
  rw [guarded_true hth hp, operands_run hlatch hf hb, popped]

/-- A scalar result ends the instruction in the state `wrote`, whatever note of popped words the thread still has. -/
theorem setD_eq_wrote {s : State} {th : Thread} {x : List (Fin 8 × Word)} {d : Reg}
    (h : thread? s s.cur = some { th with pops := x })
    (hq : ∀ n, d = .ch n → ∃ q, chQueue s s.cur th n true = some q) (v : Word) : setD s d v = wrote s th d v := by
  cases d with
  | g n | m n | p n =>
    rw [setD_own h rfl (by simp)]
    by_cases h0 : n = 0 <;> simp [writeOwn, wrote, passed, moved, ended, h0]
  | k n => exact setD_k h n v
  | ch n =>
    obtain ⟨q, hq⟩ := hq n rfl
    have hcur := (sameThreads_chPush s s.cur.core th.uid q v).cur
    rw [setD_ch h (q := q) hq]
    simp only [wrote, hq]
    rw [passed, moved]
    exact congrArg (afterInstr _ · _) hcur.symm
  | _ => exact setD_own h rfl (by simp) v

/-- A destination that does not block takes the result of the operands that were read. -/
theorem setD_popped {s : State} {th : Thread} {p : Pred} {i : Instr} {rs : List Reg} {d : Reg} (h : AtTurn s th p)
    (hu : CanUse s th i rs (some d)) (v : Word) : setD (popped s th rs) d v = wrote (popped s th rs) th d v := by
  obtain ⟨hth, -, -, -, -, -, hpops⟩ := h
  obtain ⟨-, hb⟩ := hu
  obtain ⟨hcur, -, -, hqueue⟩ := takeOps_keeps s th rs
  obtain ⟨x, hx⟩ := takeOps_thread hth rs hpops
  refine setD_eq_wrote (x := x) (by rw [popped, hcur, hx]) ?_ v
  rintro n rfl
  obtain ⟨q, hq, -⟩ := chBlocked_queue hb
  exact ⟨q, by rw [popped, hcur, hqueue, hq]⟩

/-- D ← f(A). -/
theorem alu1_next {s : State} {th : Thread} {p : Pred} {i : Instr} {d a : Reg} (h : AtTurn s th p)
    (hu : CanUse s th i [a] (some d)) (f : Word → Word) :
    alu1 s i p d a f = .next (wrote (popped s th [a]) th d (f (val s th [a] 0))) := by
  rw [alu1, guarded_operands h hu (fun _ s vs => setD s d (f (vs.getD 0 0))), setD_popped h hu]
  rfl

/-- D ← f(A, B). -/
theorem alu2_next {s : State} {th : Thread} {p : Pred} {i : Instr} {d a b : Reg} (h : AtTurn s th p)
    (hu : CanUse s th i [a, b] (some d)) (f : Word → Word → Word) :
    alu2 s i p d a b f = .next (wrote (popped s th [a, b]) th d (f (val s th [a, b] 0) (val s th [a, b] 1))) := by
  rw [alu2, guarded_operands h hu (fun _ s vs => setD s d (f (vs.getD 0 0) (vs.getD 1 0))), setD_popped h hu]
  rfl

/-! ### Traps -/

/-- A trap that the thread may take leads to the state `trapped` (R93). -/
theorem trap_eq_trapped {s : State} {th : Thread} {p : Pred} (h : AtTurn s th p) (hc : CanTrap th) (ti : TrapInfo) :
    trap s s.cur ti = trapped s th ti := by
  obtain ⟨hth, -, -, -, -, -, hpops⟩ := h
  obtain ⟨hin, hvec⟩ := hc
  exact trap_taken hth hpops hin hvec ti

end Sys2Proof.Proofs
end

section
/-! SUPPORT. Division (R74): the model's four results are those of the rule's pseudocode, and O2. -/
namespace Sys2Proof.Proofs
open Sys2Proof Sys2Proof.Machine Sys2Proof.Says

theorem aluDiv_eq : aluDiv = fun x y => if y = 0 then 0xFFFFFFFFFFFFFFFF else BitVec.ofNat 64 (x.toNat / y.toNat) := rfl

theorem aluRem_eq :
    aluRem = fun x y => if y = 0 then x else BitVec.ofNat 64 (x.toNat - y.toNat * (x.toNat / y.toNat)) := by
  funext x y
  rw [aluRem, Nat.mod_def]

/-- The one quotient that does not fit, −2^63 by −1, wraps to −2^63. -/
theorem aluDivs_eq :
    aluDivs = fun x y => if y = 0 then -1 else if x.toInt = -2 ^ 63 ∧ y.toInt = -1 then BitVec.ofInt 64 (-2 ^ 63)
      else BitVec.ofInt 64 (x.toInt.tdiv y.toInt) := by
  funext x y
  by_cases hover : x.toInt = -2 ^ 63 ∧ y.toInt = -1
  · have hwrap : BitVec.ofInt 64 ((-2 ^ 63 : Int).tdiv (-1)) = BitVec.ofInt 64 (-2 ^ 63) := by decide
    rw [aluDivs, if_pos hover, hover.1, hover.2, hwrap]
    rfl
  · rw [aluDivs, if_neg hover]
    rfl

theorem aluRems_eq :
    aluRems = fun x y => if y = 0 then x else if x.toInt = -2 ^ 63 ∧ y.toInt = -1 then 0
      else BitVec.ofInt 64 (x.toInt - y.toInt * x.toInt.tdiv y.toInt) := by
  funext x y
  by_cases hover : x.toInt = -2 ^ 63 ∧ y.toInt = -1
  · have hzero : BitVec.ofInt 64 ((-2 ^ 63 : Int).tmod (-1)) = 0 := by decide
    rw [aluRems, if_pos hover, hover.1, hover.2, hzero]
  · rw [aluRems, if_neg hover, Int.tmod_def]

/-- Each division is `aluDivide` with the result that `divRow` names. -/
theorem exec_divRow {i : Instr} {p : Pred} {d a b : Reg} {f : Word → Word → Word} (h : divRow i = some (p, d, a, b, f)) (s : State) :
    exec i s = aluDivide s i p d a b f := by
  unfold divRow at h
  split at h
  next => cases h; rw [← aluDiv_eq]; rfl
  next => cases h; rw [← aluDivs_eq]; rfl
  next => cases h; rw [← aluRem_eq]; rfl
  next => cases h; rw [← aluRems_eq]; rfl
  next => cases h

/-- A division at its turn traps with the state untouched on a zero divisor under DZT, and otherwise writes its result. -/
theorem aluDivide_next {s : State} {th : Thread} {p : Pred} {i : Instr} {d a b : Reg} (h : AtTurn s th p)
    (hu : CanUse s th i [a, b] (some d)) (f : Word → Word → Word) :
    aluDivide s i p d a b f = .next (
      if val s th [a, b] 1 = 0 ∧ th.scr.fctl.getLsbD 9 = true then trap s s.cur ⟨0x33, 0, 0⟩
      else wrote (popped s th [a, b]) th d (f (val s th [a, b] 0) (val s th [a, b] 1))) := by
  rw [aluDivide, guarded_operands h hu (fun th s' vs => if vs.getD 1 0 = 0 && th.scr.fctl.getLsbD 9 then trap s s.cur ⟨0x33, 0, 0⟩
    else setD s' d (f (vs.getD 0 0) (vs.getD 1 0))), setD_popped h hu]
  simp only [val, Bool.and_eq_true, decide_eq_true_eq]
  congr

/-- Settles O2: the trap comes before any effect, and the results are the pseudocode's. -/
theorem divisionRule : Obligations.DivisionRule := by
  unfold Obligations.DivisionRule
  intro i p d a b f hrow s th hturn huse
  have hexec := (exec_divRow hrow s).trans (aluDivide_next hturn huse f)
  dsimp only
  split
  next hzero => intro htrap; rw [hexec, if_pos hzero, trap_eq_trapped hturn htrap]
  next hzero => rw [hexec, if_neg hzero]

end Sys2Proof.Proofs
end

section
/-! SUPPORT. The decoder on fields: codes of registers and predicates give them back (R32, R33), and the verdict of a row by
the first check that fails (R55). -/
namespace Sys2Proof.Proofs
open Sys2Proof

/-! ### Codes -/

@[simp] theorem regOf_code (r : Reg) : regOf r.code = r := by
  cases r with
  | g n | w n | k n | ch n | ident n | v n | acc n | fmt n | m n | p n => revert n; decide

theorem code_toNat_lt (r : Reg) : r.code.toNat < 0xA0 := by
  cases r with
  | g n | w n | k n | ch n | ident n | v n | acc n | fmt n | m n | p n => revert n; decide

@[simp] theorem codeOk_code (kind : Reg → Bool) (r : Reg) : codeOk kind r.code = kind r := by
  simp [codeOk, code_toNat_lt]

@[simp] theorem predOf_code (p : Pred) : predOf p.code = p := by
  obtain ⟨n, neg⟩ := p
  revert n neg
  decide

/-- Only the illegal predicate has the code 0b1000. -/
theorem pred_code_ne {p : Pred} (h : p.ok = true) : p.code ≠ 8 := by
  obtain ⟨n, neg⟩ := p
  revert n neg
  decide

/-! ### Verdicts -/

theorem judge_ok {f : Fields} {r : Row} (hrsv : f.rsv = false) (himm : r.immOk = true) (hmod : r.modOk = true)
    (hkinds : ∀ k ∈ r.kinds, k = true) (hpr : f.pr ≠ 8) : judge f r = .ok r.instr := by
  have hnone : r.kinds.findIdx? (! ·) = none := by simpa [List.findIdx?_eq_none_iff] using hkinds
  simp only [judge, hrsv, himm, hmod, hnone]
  exact if_neg hpr

theorem judge_immBad (f : Fields) {r : Row} (himm : r.immOk = false) : judge f r = .error ⟨1, 0, f.op⟩ := by
  simp [judge, himm]

theorem judge_modBad {f : Fields} {r : Row} (hrsv : f.rsv = false) (himm : r.immOk = true) (hmod : r.modOk = false) :
    judge f r = .error ⟨2, 0, f.op⟩ := by
  simp [judge, hrsv, himm, hmod]

theorem decodeFields_row {f : Fields} {r : Row} (h : rowOf f = some r) : decodeFields f = judge f r := by
  rw [decodeFields, h]

/-! ### Rows of classes 0 and 1 -/

theorem rowOf_bext {f : Fields} (h : f.op = 0x018) : rowOf f = some ⟨f.i < 2 ^ 12, f.m < 2,
    [sW f.d, sR f.a, unused f.b, unused f.c],
    .bext f.p (fld f.m 0 1 = 1) f.rd f.ra (f.imm.setWidth 6) (BitVec.ofNat 6 (fld f.i 6 6))⟩ := by
  rw [rowOf, h]
  rfl

theorem rowOf_bins {f : Fields} (h : f.op = 0x019) : rowOf f = some ⟨f.i < 2 ^ 12, f.m = 0,
    [sW f.d, sR f.a, sR f.b, unused f.c],
    .bins f.p f.rd f.ra f.rb (f.imm.setWidth 6) (BitVec.ofNat 6 (fld f.i 6 6))⟩ := by
  rw [rowOf, h]
  rfl

theorem rowOf_cmp {f : Fields} (h : f.op = 0x01D) : rowOf f = some ⟨f.i = 0, f.m < 8,
    [pK f.d, sR f.a, sR f.b, unused f.c], .cmp f.p (condOf (fld f.m 0 3)) f.rd f.ra f.rb⟩ := by
  rw [rowOf, h]
  rfl

theorem rowOf_cmpi {f : Fields} (h : f.op = 0x088) : rowOf f = some ⟨true, f.m < 8, [pK f.d, sR f.a],
    .cmpi f.p (condOf (fld f.m 0 3)) f.rd f.ra f.imm⟩ := by
  rw [rowOf, h]
  rfl

end Sys2Proof.Proofs
end

section
/-! SUPPORT. CMP and CMPI (R76), and O3. -/
namespace Sys2Proof.Proofs
open Sys2Proof Sys2Proof.Machine Sys2Proof.Says

theorem condOk_iff (cc : Cond) (a b : Word) : condOk cc a b = true ↔ condHolds cc a b := by
  cases cc with
  | eq | ne | lt | ge | ltu | geu | tst | ntst => simp [condOk, condHolds]

/-- The truth value of a condition is the one word that O3 allows. -/
theorem boolWord_condOk {cc : Cond} {a b v : Word} (h : v = 1 ∧ condHolds cc a b ∨ v = 0 ∧ ¬ condHolds cc a b) :
    boolWord (condOk cc a b) = v := by
  rcases h with ⟨rfl, h⟩ | ⟨rfl, h⟩
  · rw [(condOk_iff cc a b).mpr h]
    rfl
  · rw [← condOk_iff, Bool.not_eq_true] at h
    rw [h]
    rfl

/-- A comparison at its turn writes the truth value of its condition. -/
theorem exec_cmpRow {i : Instr} {p : Pred} {cc : Cond} {d : Reg} {rs : List Reg} {g : Word → Word}
    (hrow : cmpRow i = some (p, cc, d, rs, g)) {s : State} {th : Thread} (h : AtTurn s th p) (hu : CanUse s th i rs (some d)) :
    exec i s = .next (wrote (popped s th rs) th d (boolWord (condOk cc (val s th rs 0) (g (val s th rs 1))))) := by
  unfold cmpRow at hrow
  split at hrow
  next => cases hrow; exact alu2_next h hu (fun x y => boolWord (condOk cc x y))
  next imm => cases hrow; exact alu1_next h hu (fun x => boolWord (condOk cc x (imm.signExtend 64)))
  next => cases hrow

theorem decode_compare_modBad {f : Fields} (hop : f.op = 0x01D ∧ f.imm = 0 ∨ f.op = 0x088) (hrsv : f.rsv = false)
    (hmod : 8 ≤ f.mod.toNat) : decodeFields f = .error ⟨2, 0, f.op⟩ := by
  have hbad : decide (f.m < 8) = false := decide_eq_false (Nat.not_lt.mpr hmod)
  rcases hop with ⟨hop, himm⟩ | hop
  · rw [decodeFields_row (rowOf_cmp hop)]
    exact judge_modBad hrsv (by simp [Fields.i, himm]) hbad
  · rw [decodeFields_row (rowOf_cmpi hop)]
    exact judge_modBad hrsv rfl hbad

theorem mod_condNumber (cc : Cond) : (BitVec.ofNat 24 (condNumber cc)).toNat < 8 ∧
    condOf (fld (BitVec.ofNat 24 (condNumber cc)).toNat 0 3) = cc := by
  cases cc <;> decide

theorem decode_cmp {p : Pred} (cc : Cond) {d a b : Reg} (hp : p.ok = true) (hd : d.isP = true) (ha : a.scalarR = true)
    (hb : b.scalarR = true) :
    decodeFields (mkF 0x01D p d.code a.code b.code 0 (condNumber cc) 0) = .ok (.cmp p cc d a b) := by
  obtain ⟨hlt, hcc⟩ := mod_condNumber cc
  rw [decodeFields_row (rowOf_cmp rfl),
    judge_ok rfl rfl (decide_eq_true hlt) (by simp [mkF, pK, sR, unused, hd, ha, hb]) (pred_code_ne hp)]
  simp only [Fields.p, Fields.m, Fields.rd, Fields.ra, Fields.rb, mkF, regOf_code, predOf_code, hcc]

theorem decode_cmpi {p : Pred} (cc : Cond) {d a : Reg} (imm : BitVec 48) (hp : p.ok = true) (hd : d.isP = true)
    (ha : a.scalarR = true) :
    decodeFields (mkF 0x088 p d.code a.code 0 0 (condNumber cc) imm.toNat) = .ok (.cmpi p cc d a imm) := by
  obtain ⟨hlt, hcc⟩ := mod_condNumber cc
  rw [decodeFields_row (rowOf_cmpi rfl),
    judge_ok rfl rfl (decide_eq_true hlt) (by simp [mkF, pK, sR, hd, ha]) (pred_code_ne hp)]
  simp only [Fields.p, Fields.m, Fields.rd, Fields.ra, mkF, regOf_code, predOf_code, hcc, BitVec.ofNat_toNat, BitVec.setWidth_eq]

/-- Settles O3: both instructions write the truth value of their condition, and the decoder refuses MOD above its 3 bits. -/
theorem compareConditions : Obligations.CompareConditions := by
  unfold Obligations.CompareConditions
  refine ⟨?_, fun f hop hrsv hmod => decode_compare_modBad hop hrsv hmod, ?_⟩
  · intro i p cc d rs g hrow s th hturn huse v hv
    rw [exec_cmpRow hrow hturn huse, boolWord_condOk hv]
  · intro p cc d a b imm hp hd ha hb
    exact ⟨decode_cmp cc hp hd ha hb, decode_cmpi cc imm hp hd ha⟩

end Sys2Proof.Proofs
end

section
/-! SUPPORT. BEXT and BINS (R75): their results bit by bit, and O4. -/
namespace Sys2Proof.Proofs
open Sys2Proof Sys2Proof.Machine Sys2Proof.Says

/-! ### Results -/

/-- A field has a bit, and all its bits exist. -/
theorem fieldBits_bounds (pos lenM1 : BitVec 6) : 0 < fieldBits pos lenM1 ∧ pos.toNat + fieldBits pos lenM1 ≤ 64 := by
  have := pos.isLt
  rw [fieldBits]
  omega

theorem fieldLen_eq_fieldBits (pos lenM1 : BitVec 6) : fieldLen pos lenM1 = fieldBits pos lenM1 := rfl

/-- Sign extension to a word, as a sum of numbers. -/
theorem ofNat_add_eq_signExtend {n : Nat} (hn : n ≤ 64) (x : BitVec n) :
    (if 2 ^ (n - 1) ≤ x.toNat then BitVec.ofNat 64 (x.toNat + (2 ^ 64 - 2 ^ n)) else BitVec.ofNat 64 x.toNat) =
      x.signExtend 64 := by
  have hmsb := BitVec.msb_eq_decide x
  split
  next hneg =>
    rw [decide_eq_true hneg] at hmsb
    have hlt : x.toNat < 2 ^ 64 := Nat.lt_of_lt_of_le x.isLt (Nat.pow_le_pow_right (by decide) hn)
    refine BitVec.eq_of_toNat_eq ?_
    rw [BitVec.toNat_signExtend, hmsb, if_pos rfl, BitVec.toNat_setWidth, Nat.mod_eq_of_lt hlt, BitVec.toNat_ofNat]
    have := x.isLt
    omega
  next hpos =>
    rw [decide_eq_false hpos] at hmsb
    rw [BitVec.signExtend_eq_setWidth_of_msb_false hmsb, BitVec.ofNat_toNat]

/-- BEXT extends the field, taken as a bit vector of its own width. -/
theorem aluBext_eq (sx : Bool) (a : Word) (pos lenM1 : BitVec 6) :
    aluBext sx a pos lenM1 = if sx then (a.extractLsb' pos.toNat (fieldBits pos lenM1)).signExtend 64
      else (a.extractLsb' pos.toNat (fieldBits pos lenM1)).setWidth 64 := by
  obtain ⟨-, hbound⟩ := fieldBits_bounds pos lenM1
  have hx : a.toNat / 2 ^ pos.toNat % 2 ^ fieldBits pos lenM1 = (a.extractLsb' pos.toNat (fieldBits pos lenM1)).toNat := by
    rw [BitVec.extractLsb'_toNat, Nat.shiftRight_eq_div_pow]
  simp only [aluBext, fieldLen_eq_fieldBits, hx]
  cases sx with
  | false => exact BitVec.ofNat_toNat 64 _
  | true =>
    simp only [Bool.true_and, decide_eq_true_eq, if_true]
    exact ofNat_add_eq_signExtend (by omega) _

/-- An extension to a word has the bits of the vector, and above them its sign or zeros. -/
theorem getLsbD_extend {n : Nat} (sx : Bool) (x : BitVec n) {j : Nat} (hj : j < 64) :
    (if sx then x.signExtend 64 else x.setWidth 64).getLsbD j = if j < n then x.getLsbD j else (sx && x.msb) := by
  cases sx with
  | true => simp only [if_true, BitVec.getLsbD_signExtend, hj, decide_true, Bool.true_and]
  | false =>
    simp only [Bool.false_eq_true, if_false, BitVec.getLsbD_setWidth, hj, decide_true, Bool.true_and, Bool.false_and]
    split
    · rfl
    · exact BitVec.getLsbD_of_ge x j (by omega)

theorem isExtract_aluBext (sx : Bool) (a : Word) (pos lenM1 : BitVec 6) :
    IsExtract (aluBext sx a pos lenM1) a sx pos lenM1 := by
  obtain ⟨hbits, -⟩ := fieldBits_bounds pos lenM1
  have hmsb : (a.extractLsb' pos.toNat (fieldBits pos lenM1)).msb = a.getLsbD (pos.toNat + fieldBits pos lenM1 - 1) := by
    rw [BitVec.msb_eq_getLsbD_last, BitVec.getLsbD_extractLsb', ← Nat.add_sub_assoc hbits,
      decide_eq_true (Nat.sub_lt hbits Nat.one_pos), Bool.true_and]
  intro j hj
  rw [aluBext_eq, getLsbD_extend sx _ hj, hmsb]
  split
  next hin => rw [BitVec.getLsbD_extractLsb', decide_eq_true hin, Bool.true_and]
  next => rfl

/-- BINS's mask has the bits of the field. -/
theorem getLsbD_fieldMask {j : Nat} (hj : j < 64) (pos lenM1 : BitVec 6) :
    (BitVec.ofNat 64 ((2 ^ fieldLen pos lenM1 - 1) * 2 ^ pos.toNat)).getLsbD j =
      decide (pos.toNat ≤ j ∧ j < pos.toNat + fieldBits pos lenM1) := by
  rw [BitVec.getLsbD_ofNat, Nat.testBit_mul_two_pow, Nat.testBit_two_pow_sub_one, fieldLen_eq_fieldBits,
    ← Bool.decide_and, ← Bool.decide_and]
  exact decide_eq_decide.mpr (by omega)

theorem isInsert_aluBins (a b : Word) (pos lenM1 : BitVec 6) : IsInsert (aluBins a b pos lenM1) a b pos lenM1 := by
  intro j hj
  rw [aluBins]
  simp only [BitVec.getLsbD_or, BitVec.getLsbD_and, BitVec.getLsbD_not, getLsbD_fieldMask hj, BitVec.getLsbD_shiftLeft, hj]
  split
  next hin => simp [hin, Nat.not_lt.mpr hin.1]
  next hout => simp [hout]

/-! ### Decoding -/

/-- The immediate of a bit-field instruction gives its two fields back. -/
theorem bitFieldImm_fields (pos lenM1 : BitVec 6) :
    (BitVec.ofNat 48 (pos.toNat + 64 * lenM1.toNat)).toNat < 2 ^ 12 ∧
    (BitVec.ofNat 48 (pos.toNat + 64 * lenM1.toNat)).setWidth 6 = pos ∧
    BitVec.ofNat 6 (fld (BitVec.ofNat 48 (pos.toNat + 64 * lenM1.toNat)).toNat 6 6) = lenM1 := by
  have hpos := pos.isLt
  have hlen := lenM1.isLt
  have himm : (BitVec.ofNat 48 (pos.toNat + 64 * lenM1.toNat)).toNat = pos.toNat + 64 * lenM1.toNat := by
    rw [BitVec.toNat_ofNat]
    omega
  refine ⟨by omega, BitVec.eq_of_toNat_eq ?_, BitVec.eq_of_toNat_eq ?_⟩
  · rw [BitVec.toNat_setWidth, himm]
    omega
  · rw [BitVec.toNat_ofNat, fld, himm]
    omega

theorem decode_bitField_immBad {f : Fields} (hop : f.op = 0x018 ∨ f.op = 0x019) (himm : 2 ^ 12 ≤ f.imm.toNat) :
    decodeFields f = .error ⟨1, 0, f.op⟩ := by
  have hbad : decide (f.i < 2 ^ 12) = false := decide_eq_false (Nat.not_lt.mpr himm)
  rcases hop with hop | hop
  · rw [decodeFields_row (rowOf_bext hop), judge_immBad f hbad]
  · rw [decodeFields_row (rowOf_bins hop), judge_immBad f hbad]

theorem decode_bext {p : Pred} (sx : Bool) {d a : Reg} (pos lenM1 : BitVec 6) (hp : p.ok = true) (hd : d.scalarW = true)
    (ha : a.scalarR = true) :
    decodeFields (mkF 0x018 p d.code a.code 0 0 (if sx then 1 else 0) (pos.toNat + 64 * lenM1.toNat)) =
      .ok (.bext p sx d a pos lenM1) := by
  obtain ⟨hlt, hpos, hlen⟩ := bitFieldImm_fields pos lenM1
  have hmod : (BitVec.ofNat 24 (if sx then 1 else 0)).toNat < 2 ∧
      (fld (BitVec.ofNat 24 (if sx then 1 else 0)).toNat 0 1 = 1 ↔ sx = true) := by cases sx <;> decide
  rw [decodeFields_row (rowOf_bext rfl), judge_ok rfl (decide_eq_true hlt) (decide_eq_true hmod.1)
    (by simp [mkF, sW, sR, unused, hd, ha]) (pred_code_ne hp)]
  simp only [Fields.p, Fields.m, Fields.i, Fields.rd, Fields.ra, mkF, regOf_code, predOf_code, hpos, hlen, hmod.2,
    Bool.decide_eq_true]

theorem decode_bins {p : Pred} {d a b : Reg} (pos lenM1 : BitVec 6) (hp : p.ok = true) (hd : d.scalarW = true)
    (ha : a.scalarR = true) (hb : b.scalarR = true) :
    decodeFields (mkF 0x019 p d.code a.code b.code 0 0 (pos.toNat + 64 * lenM1.toNat)) = .ok (.bins p d a b pos lenM1) := by
  obtain ⟨hlt, hpos, hlen⟩ := bitFieldImm_fields pos lenM1
  rw [decodeFields_row (rowOf_bins rfl), judge_ok rfl (decide_eq_true hlt) rfl
    (by simp [mkF, sW, sR, unused, hd, ha, hb]) (pred_code_ne hp)]
  simp only [Fields.p, Fields.i, Fields.rd, Fields.ra, Fields.rb, mkF, regOf_code, predOf_code, hpos, hlen]

/-- Settles O4: BEXT is an extension of the field's own bit vector, BINS a merge under the field's mask. -/
theorem bitFields : Obligations.BitFields := by
  unfold Obligations.BitFields
  refine ⟨?_, ?_, fun f hop himm => decode_bitField_immBad hop himm, ?_⟩
  · intro s th p sx d a pos lenM1 hturn huse
    exact ⟨_, isExtract_aluBext sx _ pos lenM1, alu1_next hturn huse (fun x => aluBext sx x pos lenM1)⟩
  · intro s th p d a b pos lenM1 hturn huse
    exact ⟨_, isInsert_aluBins _ _ pos lenM1, alu2_next hturn huse (fun x y => aluBins x y pos lenM1)⟩
  · intro p sx d a b pos lenM1 hp hd ha hb
    exact ⟨decode_bext sx pos lenM1 hp hd ha, decode_bins pos lenM1 hp hd ha hb⟩

end Sys2Proof.Proofs
end

section
/-! SUPPORT. RET (R90), and O13. -/
namespace Sys2Proof.Proofs
open Sys2Proof Sys2Proof.Machine Sys2Proof.Says

/-- The caller's window: its own w0-w31 from the frame below, and above them the callee's w0-w15. -/
theorem slideDown_eq_some {th : Thread} {f : Vector Word 32} {r : List (Vector Word 32)} (h : th.lower = f :: r) :
    ∃ th', slideDown th = some th' ∧ (∀ (i : Nat) (h : i < 32), th'.w[i] = f[i]) ∧
      (∀ (i : Nat) (h : i < 16), th'.w[32 + i] = th.w[i]) ∧
      th' = { th with w := th'.w, lower := r, depth := th.depth - 1, inlines := th'.inlines } ∧
      (th.inlines = [] → th'.inlines = []) := by
  rw [slideDown, h]
  refine ⟨_, rfl, fun i hi => ?_, fun i hi => ?_, rfl, fun hin => ?_⟩
  · rw [Vector.getElem_ofFn, dif_pos hi]
  · rw [Vector.getElem_ofFn, dif_neg (Nat.not_lt.mpr (Nat.le_add_right 32 i))]
    simp only [Nat.add_sub_cancel_left]
  · rw [hin, List.filter_nil]

/-! ### The three outcomes of RET at its turn -/

theorem exec_ret_of_depth_eq_zero {s : State} {th : Thread} {p : Pred} (h : AtTurn s th p) (hd : th.depth = 0) :
    exec (.ret p) s = .next (trap s s.cur ⟨0x41, 0, windowWord th 1⟩) := by
  obtain ⟨hth, hp, -⟩ := h
  refine (guarded_true hth hp _).trans ?_
  simp only [if_pos hd]
  rfl

theorem exec_ret_of_slideDown_eq_none {s : State} {th : Thread} {p : Pred} (h : AtTurn s th p) (hd : th.depth ≠ 0)
    (hslide : slideDown th = none) : exec (.ret p) s = .next (trap s s.cur ⟨0x41, 0, windowWord th 0⟩) := by
  obtain ⟨hth, hp, -⟩ := h
  refine (guarded_true hth hp _).trans ?_
  simp only [if_neg hd, hslide]
  rfl

theorem exec_ret_of_slideDown_eq_some {s : State} {th th' : Thread} {p : Pred} (h : AtTurn s th p) (hd : th.depth ≠ 0)
    (hslide : slideDown th = some th') : exec (.ret p) s = .next (moved s th' th.w[15] false) := by
  obtain ⟨hth, hp, -⟩ := h
  refine (guarded_true hth hp _).trans ?_
  simp only [if_neg hd, hslide, finishAt_setThread, moved]

/-- The fields of scr.einfo of traps 0x40 and 0x41 do not overlap. -/
theorem windowWord_fields {th : Thread} {reason : Nat} (hd : th.depth < 2 ^ 16) (hl : th.lower.length < 6) (hr : reason < 2) :
    (windowWord th reason).extractLsb' 0 16 = BitVec.ofNat 16 th.depth ∧
    (windowWord th reason).extractLsb' 16 3 = BitVec.ofNat 3 (th.lower.length + 1) ∧
    (windowWord th reason).extractLsb' 20 4 = BitVec.ofNat 4 reason := by
  have hword : (windowWord th reason).toNat = th.depth + (th.lower.length + 1) * 2 ^ 16 + reason * 2 ^ 20 := by
    rw [windowWord, BitVec.toNat_ofNat]
    omega
  refine ⟨BitVec.eq_of_toNat_eq ?_, BitVec.eq_of_toNat_eq ?_, BitVec.eq_of_toNat_eq ?_⟩ <;>
    rw [BitVec.extractLsb'_toNat, BitVec.toNat_ofNat, Nat.shiftRight_eq_div_pow, hword] <;> omega

/-- Settles O13, by the three outcomes of RET. -/
theorem returns : Obligations.Returns := by
  unfold Obligations.Returns
  intro s th p hturn
  refine ⟨fun htrap hd => ?_, fun htrap hd hl => ?_, fun hd f r hl => ?_,
    fun hd hl reason hr => windowWord_fields hd hl hr⟩
  · rw [exec_ret_of_depth_eq_zero hturn hd, trap_eq_trapped hturn htrap]
  · have hnone : slideDown th = none := by rw [slideDown, hl]
    rw [exec_ret_of_slideDown_eq_none hturn hd hnone, trap_eq_trapped hturn htrap]
  · obtain ⟨th', hslide, hlow, hhigh, hframe, hin⟩ := slideDown_eq_some hl
    exact ⟨th', exec_ret_of_slideDown_eq_some hturn hd hslide, by rw [hframe], by rw [hframe], hlow, hhigh, hframe, hin⟩

end Sys2Proof.Proofs
end

section
/-! SUPPORT. TRAP and escalation (R93-R95), and O14. -/
namespace Sys2Proof.Proofs
open Sys2Proof Sys2Proof.Machine Sys2Proof.Says

/-- The thread as escalation leaves it (R94): it stops where it stands, with its registers as they are. -/
def escalated (th : Thread) (ti : TrapInfo) : Thread :=
  { th with stopped := some ti, park := none, cont := 0, release := none, latch := none, pops := [] }

/-- At its turn a thread holds nothing of an instruction that escalation would drop. -/
theorem escalated_of_atTurn {s : State} {th : Thread} {p : Pred} (h : AtTurn s th p) (ti : TrapInfo) :
    escalated th ti = { th with stopped := some ti } := by
  obtain ⟨-, -, hpark, hlatch, hcont, hrelease, hpops⟩ := h
  rw [escalated, ← hpark, ← hlatch, ← hcont, ← hrelease, ← hpops]

/-- A trap that the thread may not take escalates. -/
theorem trap_eq_escalate {s : State} {t : TId} {th : Thread} (h : thread? s t = some th) (hp : th.pops = []) (hc : ¬ CanTrap th)
    (ti : TrapInfo) : trap s t ti = escalate s t ti := by
  have hcond : (inTrap th || decide (th.scr.tvec = 0)) = true := by
    rw [Bool.or_eq_true, decide_eq_true_eq]
    by_cases hin : inTrap th = true
    · exact .inl hin
    · exact .inr (Decidable.byContradiction fun hv => hc ⟨eq_false_of_ne_true hin, hv⟩)
  simp only [trap, unpop_nil h hp, h, if_pos hcond]

/-- Escalation stops the thread, hands the steward the cause and asks for the notification; nothing else changes. -/
theorem escalate_eq {s : State} {t : TId} {th : Thread} (h : thread? s t = some th) (hp : th.pops = []) (ti : TrapInfo) :
    escalate s t ti = later
      { setThread { s with views := s.views.filter (fun x => x.t != t) } t (escalated th ti) with
        escal := s.escal ++ [⟨t, th.uid, s.now, th.pc, ti, th.launch⟩] }
      (16 - s.now % 16) (.notificationWrite (queueOfLaunch th.launch)) := by
  simp only [escalate, unpop_nil h hp, h]
  rfl

/-- Escalation stops its own thread and leaves the others. -/
theorem thread?_escalate {s : State} {t : TId} {th : Thread} (h : thread? s t = some th) (hp : th.pops = []) (ti : TrapInfo)
    (u : TId) : thread? (escalate s t ti) u = if u = t then some (escalated th ti) else thread? s u := by
  rw [escalate_eq h hp]
  split
  next hu => rw [hu]; exact thread?_setThread_same _ _ _
  next hu => exact thread?_setThread_other hu _ _

theorem escalate_escal {s : State} {t : TId} {th : Thread} (h : thread? s t = some th) (hp : th.pops = []) (ti : TrapInfo) :
    (escalate s t ti).escal = s.escal ++ [⟨t, th.uid, s.now, th.pc, ti, th.launch⟩] := by
  rw [escalate_eq h hp]
  rfl

theorem escalate_memory {s : State} {t : TId} {th : Thread} (h : thread? s t = some th) (hp : th.pops = []) (ti : TrapInfo) :
    (escalate s t ti).hbm = s.hbm ∧ (escalate s t ti).sram = s.sram := by
  rw [escalate_eq h hp]
  exact ⟨rfl, rfl⟩

theorem exec_trap {s : State} {th : Thread} {p : Pred} (n : BitVec 16) (h : AtTurn s th p) :
    exec (.trap p n) s = .next (trap s s.cur ⟨0x7F, 0, n.setWidth 64⟩) := by
  obtain ⟨hth, hp, -⟩ := h
  exact guarded_true hth hp _

/-- Settles O14: a trap is taken or escalates, as the thread can trap or not. -/
theorem softwareTrap : Obligations.SoftwareTrap := by
  unfold Obligations.SoftwareTrap
  intro s th p n hturn
  obtain ⟨hth, -, -, -, -, -, hpops⟩ := id hturn
  refine ⟨fun htrap => by rw [exec_trap n hturn, trap_eq_trapped hturn htrap], fun htrap => ?_⟩
  obtain ⟨hhbm, hsram⟩ := escalate_memory hth hpops ⟨0x7F, 0, n.setWidth 64⟩
  refine ⟨_, by rw [exec_trap n hturn, trap_eq_escalate hth hpops htrap], ?_, ?_, ?_, ?_, fun u hu => ?_⟩
  · rw [thread?_escalate hth hpops, if_pos rfl, escalated_of_atTurn hturn]
  · exact escalate_escal hth hpops _
  · exact hhbm
  · exact hsram
  · rw [thread?_escalate hth hpops, if_neg hu]

end Sys2Proof.Proofs
end
